-- ==== Sys2Proof/Word.lean ====
section
/-! DEFINITION. The word types of the Casyn instruction set and the numbers of its registers. -/

namespace Sys2Proof

/-- A 64-bit register or memory word (R187). -/
abbrev Word := BitVec 64
/-- One byte of memory. -/
abbrev Byte := BitVec 8
/-- A vector register (R187). -/
abbrev VWord := BitVec 1024
/-- A lane mask, one bit per byte lane (R187). -/
abbrev MWord := BitVec 128

/-- Number of a scalar register s0 to s31. -/
abbrev SNo := Fin 32
/-- Number of a vector register v0 to v31. -/
abbrev VNo := Fin 32
/-- Number of a predicate p0 to p7. -/
abbrev PNo := Fin 8
/-- Number of a lane mask m0 to m7. -/
abbrev MNo := Fin 8
/-- Number of a culvert register k0 to k15. -/
abbrev KNo := Fin 16
/-- Number of a stream q0 to q7. -/
abbrev QNo := Fin 8
/-- Number of an operand specifier os0 to os7. -/
abbrev OsNo := Fin 8
/-- Number of an accumulator tile acc0 to acc3. -/
abbrev AccNo := Fin 4
/-- Number of an iterator register it0 to it7. -/
abbrev ItNo := Fin 8
/-- Number of a branch target register bt0 to bt7. -/
abbrev BtNo := Fin 8

end Sys2Proof
end

