-- ==== Sys2Proof/Config.lean ====
section
/-! DEFINITION. What the spec leaves to an implementation, and the values it leaves open: constants without a body, so
that a claim holds whatever they are. -/

namespace Sys2Proof.Config

/-- The value of a register, element or byte that the spec calls undefined, by a key that no two reads share
(R188, R189, R191, R359, R383). Free value, log 1. -/
opaque free (key : Nat) (n : Nat) : BitVec n

/-- The outcome of a choice the spec leaves open, by a key that no two choices share: when an engine acts, which of two
results remains, whether a racing store is seen (R191, R246, R257). Free value, log 2. -/
opaque pick (key : Nat) : Nat

/-- The PUF seed of the I/O die, from which every reset derives the same keys (R23). The part's own, log 8. -/
opaque pufSeed : List (BitVec 8)

/-- The Ronxios certificate over the identity public key, held in module flash (R23). The module's own, log 8. -/
opaque certificate : List (BitVec 8)

/-- The digest in the boot ROM of the key that signs firmware (R25). The part's own, log 8. -/
opaque romDigest : List (BitVec 8)

/-- What a firmware image holds, whose layout no rule gives: its signing key, the bytes its signature covers, the signature,
and the configuration keys it lists (R25, R28). Free, log 8. -/
opaque imageKey (image : List (BitVec 8)) : List (BitVec 8)
opaque imageSigned (image : List (BitVec 8)) : List (BitVec 8)
opaque imageSignature (image : List (BitVec 8)) : List (BitVec 8)
opaque imageConfigKeys (image : List (BitVec 8)) : List (List (BitVec 8))

/-- Random bytes of the true random source, by draw (R100). Free value, log 8. -/
opaque trng (draw : Nat) (n : Nat) : List (BitVec 8)

end Sys2Proof.Config
end

