-- ==== Sys2Proof/Syntax.lean ====
section
/-! DEFINITION. The syntax of the machine: one constructor of `Instr` per row of the opcode table, the 179 slot
operations of R263 to R275 with their operand fields, and the 121 device steps with the subject each acts on. -/

namespace Sys2Proof

/-- Element types of R214, in code order; code 111 is reserved and has no constructor. -/
inductive Elem where
  | i8 | i16 | i32 | i4 | n8 | n16 | n32
  deriving DecidableEq, Repr

/-- Vector widths of R269; code 11 is reserved. -/
inductive VW where
  | w256 | w512 | w1024
  deriving DecidableEq, Repr

/-- Stream select of R269: which operand field names a stream. -/
inductive Str where
  | none | a | b | d
  deriving DecidableEq, Repr

/-- Rounding modes of R231. -/
inductive Rnd where
  | rne | rtz | rsto
  deriving DecidableEq, Repr

/-- Conditions of PCMP (R267). -/
inductive Cond where
  | eq | ne | lt | ge | ltu | geu
  deriving DecidableEq, Repr

/-- Conditions of VCMP (R270). -/
inductive VCond where
  | eq | ne | lt | le
  deriving DecidableEq, Repr

/-- Mask logic of VMLOG (R270). -/
inductive LogOp where
  | and | or | xor | andn
  deriving DecidableEq, Repr

/-- Access sizes of LD and FLD (R267): signed i, unsigned n, d for 8 bytes. -/
inductive MemSz where
  | i8 | i16 | i32 | d64 | n8 | n16 | n32
  deriving DecidableEq, Repr

/-- Access sizes of ST and FST (R267). -/
inductive StSz where
  | b1 | b2 | b4 | b8
  deriving DecidableEq, Repr

/-- Scopes of FENCE (R267). -/
inductive Scope where
  | ctx | core | pol | pkg | job
  deriving DecidableEq, Repr

/-- Formats of COFFL and CREST (R275). -/
inductive OffFmt where
  | full | bs4 | sb1
  deriving DecidableEq, Repr

/-- Fill patterns of MFILL (R364). -/
inductive FillPat where
  | ones | ident | upper | lower
  deriving DecidableEq, Repr

/-- One test of BR (R266): a predicate, possibly negated, and the branch target it selects. -/
structure BTest where
  neg : Bool
  p : PNo
  x : BtNo
  deriving DecidableEq, Repr

/-- Class TWO (R270). -/
structure VTwo where
  z : Bool
  w : VW
  t : Elem
  d : VNo
  a : VNo
  b : VNo
  m : MNo
  str : Str
  deriving DecidableEq, Repr

/-- Class IMM (R270). -/
structure VImm where
  z : Bool
  w : VW
  t : Elem
  d : VNo
  a : VNo
  imm : Fin 32
  m : MNo
  str : Str
  deriving DecidableEq, Repr

/-- Class ONE (R270). -/
structure VOne where
  z : Bool
  w : VW
  t : Elem
  d : VNo
  a : VNo
  m : MNo
  str : Str
  deriving DecidableEq, Repr

/-- Class SCN (R270). -/
structure VScn where
  z : Bool
  w : VW
  t : Elem
  d : VNo
  a : VNo
  seg : Bool
  head : MNo
  m : MNo
  str : Str
  deriving DecidableEq, Repr

/-- Class POP (R270). -/
structure VPop where
  z : Bool
  w : VW
  t : Elem
  d : VNo
  c : MNo
  m : MNo
  deriving DecidableEq, Repr

/-- Class LDF (R270). -/
structure VLdf where
  z : Bool
  w : VW
  t : Elem
  d : VNo
  a : VNo
  off : BitVec 5
  m : MNo
  deriving DecidableEq, Repr

/-- Class STF (R270). -/
structure VStf where
  w : VW
  t : Elem
  off : BitVec 5
  a : VNo
  b : VNo
  m : MNo
  deriving DecidableEq, Repr

/-- Class CMP (R270). -/
structure VCmp where
  w : VW
  t : Elem
  cond : VCond
  md : MNo
  a : VNo
  b : VNo
  m : MNo
  str : Str
  deriving DecidableEq, Repr

/-- Class MLG (R270). -/
structure VMlg where
  w : VW
  lop : LogOp
  md : MNo
  ma : MNo
  mb : MNo
  deriving DecidableEq, Repr

/-- Class XF (R270). -/
structure VXf where
  w : VW
  t : Elem
  d : VNo
  sa : SNo
  k : Fin 32
  deriving DecidableEq, Repr

/-- A context slot of a core, by core number in the package and slot number (R11, R144). -/
structure CtxId where
  core : Nat
  slot : Nat
  deriving DecidableEq, Repr

/-- A fabric packet (R44): the header fields, the data bytes, whether ECRC passes and whether a reserved bit is set. `heading` is
what the links know of it beside the header: the link it last took and whether a break has turned it round (R43, log 105).
`slot` is the rotor slot in which it is to leave: the one its direct route was chosen for, and for a packet stored as relay the
first in which it may go on (R36). -/
structure Packet where
  cls : Nat
  op : Nat
  dst : Nat
  src : Nat
  job : Nat
  sdom : Nat
  reqid : Nat
  ctx : CtxId
  engine : Nat
  va : Nat
  opa : Word
  opb : Word
  tag : Nat
  status : Nat
  relayed : Bool
  rotorDone : Bool
  inter : Nat
  time : Nat
  data : List Byte
  crcOk : Bool
  mbzOk : Bool
  heading : Option (Nat × Bool) := none
  slot : Option Nat := none
  deriving DecidableEq, Repr

/-- What a beacon of R40 carries: the plane it came on (none for a torus link), its sender, the time corrected for the
link delay, the relay credits it grants, and the planes that are up at the sender. -/
structure Beacon where
  plane : Option Nat
  sender : Nat
  time : Nat
  credits : Nat
  planes : BitVec 24
  deriving DecidableEq, Repr

/-- The physical outcomes a bring-up meets (R25): what the PUF, the host port, tier-1 training, the tier-2 links and
the optical engines do. -/
structure BringUp where
  pufOk : Bool
  hostUp : Bool
  hostX8 : Bool
  tier1Ok : Bool
  links : BitVec 4
  engines : BitVec 12
  deriving DecidableEq, Repr

/-- The operations and events of the part, one constructor per row of the opcode table. -/
inductive Instr where
  -- B slot (R265)
  | bnop
  | br (t0 t1 t2 t3 : BTest)
  | jmp (off : BitVec 28)
  | call (off : BitVec 28)
  | calli (bt : BtNo)
  | ret
  | setbt (bt : BtNo) (off : BitVec 25)
  | loopn (dims : Fin 4) (first : ItNo)
  | loops (n : Fin 64) (q : QNo) (p : PNo)
  | loopb (n : Fin 64) (count : BitVec 22)
  | yrun (n : BitVec 28)
  | tend
  | trap (code : BitVec 8)
  | rft
  | semw (it : ItNo) (off : BitVec 22)
  | barw (pipe : Fin 4)
  -- S slot (R267, R268)
  | snop
  | add (d a b : SNo)
  | sub (d a b : SNo)
  | mul (d a b : SNo)
  | mulh (d a b : SNo)
  | mulhn (d a b : SNo)
  | div (d a b : SNo)
  | divn (d a b : SNo)
  | rem (d a b : SNo)
  | remn (d a b : SNo)
  | and (d a b : SNo)
  | or (d a b : SNo)
  | xor (d a b : SNo)
  | shl (d a b : SNo)
  | shr (d a b : SNo)
  | shra (d a b : SNo)
  | min (d a b : SNo)
  | max (d a b : SNo)
  | minn (d a b : SNo)
  | maxn (d a b : SNo)
  | clz (d a : SNo)
  | ctz (d a : SNo)
  | popc (d a : SNo)
  | addi (d a : SNo) (imm : BitVec 15)
  | andi (d a : SNo) (imm : BitVec 15)
  | ori (d a : SNo) (imm : BitVec 15)
  | xori (d a : SNo) (imm : BitVec 15)
  | shlImm (d a : SNo) (sh : Fin 64)
  | shrImm (d a : SNo) (sh : Fin 64)
  | shraImm (d a : SNo) (sh : Fin 64)
  | lil (d : SNo) (imm : BitVec 20)
  | lih (d : SNo) (imm : BitVec 20)
  | ext (d a : SNo) (pos lenM1 : Fin 64) (sgn : Bool)
  | pcmp (pd : PNo) (a b : SNo) (c : Cond)
  | plog (pd pa pb : PNo) (tt : BitVec 4)
  | sel (d a b : SNo) (p : PNo)
  | ld (d base : SNo) (sz : MemSz) (off : BitVec 12)
  | st (d base : SNo) (sz : StSz) (off : BitVec 12)
  | ld2 (d base : SNo) (off : BitVec 12)
  | st2 (d base : SNo) (off : BitVec 12)
  | movxV (d : SNo) (r : VNo) (e : Fin 16)
  | movxK (d : SNo) (r : KNo)
  | csrr (d : SNo) (c : BitVec 12)
  | csrw (a : SNo) (c : BitVec 12)
  | fence (s : Scope)
  | fenceQ
  | rand (d : SNo)
  -- V slots (R269 to R272)
  | vnop
  | vadd (o : VTwo)
  | vsub (o : VTwo)
  | vadds (o : VTwo)
  | vsubs (o : VTwo)
  | vneg (o : VOne)
  | vabs (o : VOne)
  | vmin (o : VTwo)
  | vmax (o : VTwo)
  | vmul (o : VTwo)
  | vmulh (o : VTwo)
  | vmulw (o : VTwo)
  | vmac (o : VTwo)
  | vmacw (o : VTwo)
  | vand (o : VTwo)
  | vor (o : VTwo)
  | vxor (o : VTwo)
  | vshl (o : VTwo)
  | vshr (o : VTwo)
  | vshra (o : VTwo)
  | vshrrRne (o : VTwo)
  | vshrrRtz (o : VTwo)
  | vshrrRsto (o : VTwo)
  | vshrsRne (o : VImm)
  | vshrsRtz (o : VImm)
  | vshrsRsto (o : VImm)
  | vnarrowRne (o : VImm)
  | vnarrowRtz (o : VImm)
  | vnarrowRsto (o : VImm)
  | vwiden (o : VOne)
  | vcmp (o : VCmp)
  | vsel (o : VTwo)
  | vmlog (o : VMlg)
  | vmpop (o : VPop)
  | vbcast (o : VImm)
  | vperm (o : VTwo)
  | vslide (o : VImm)
  | vredadd (o : VOne)
  | vredmax (o : VOne)
  | vredmin (o : VOne)
  | vscan (o : VScn)
  | vclz (o : VOne)
  | vcensus (o : VOne)
  | vexp2 (o : VOne)
  | vlog2 (o : VOne)
  | vrsqrt (o : VOne)
  | vrecip (o : VOne)
  | vld (o : VLdf)
  | vst (o : VStf)
  | vlds (o : VLdf)
  | vsts (o : VStf)
  | vgather (o : VOne)
  | vscatter (o : VStf)
  | vpack4 (o : VTwo)
  | vunpack4 (o : VImm)
  | vbsenc (o : VImm)
  | vbsdec (o : VImm)
  | vsgnmap (o : VOne)
  | vsgnapply (o : VImm)
  | vmovx (o : VXf)
  | vrfgate (k : BitVec 4)
  -- M slot (R273)
  | mnop
  | mlease (nM1 : Fin 256)
  | mfree
  | mspec (os : OsNo) (v : VNo)
  | mspecf (os : OsNo) (field : Fin 16) (imm : BitVec 18)
  | mzero (acc : AccNo)
  | mlda (os : OsNo) (buf : Bool) (it : Option ItNo)
  | mldb (os : OsNo) (buf : Bool) (it : Option ItNo)
  | mmac (b a : Bool) (acc : AccNo)
  | mmacq (b a : Bool)
  | mrdacc (os : OsNo) (d s : AccNo)
  | mshrd (os : OsNo) (rnd : Rnd) (sh : Fin 64) (acc : AccNo)
  | mstacc (os : OsNo) (acc : AccNo)
  | mldacc (os : OsNo) (acc : AccNo)
  | mrprog (os : OsNo) (pipe : Bool)
  | mwait (st b a : Bool)
  | mtcinv
  | mstat (os : OsNo)
  | mfill (t : Elem) (pat : FillPat) (buf pipe : Bool)
  | mscale (rnd : Rnd) (sh : BitVec 6) (acc : AccNo)
  -- C slots (R274, R275)
  | cnop
  | cdesc (a : KNo) (la : Bool) (q : QNo)
  | ccopy (a b c d : KNo) (cl sl dl : Bool)
  | ccopya (d : KNo) (cl : Bool) (q : QNo)
  | cbind (d : KNo) (cl : Bool) (w : VW) (wr : Bool) (q : QNo)
  | cunbind (q : QNo)
  | ceos (q : QNo)
  | cidx (a : KNo) (q : QNo)
  | cgather (a b d : KNo) (cl tl : Bool) (q : QNo)
  | cscatter (a b d : KNo) (cl tl : Bool) (q : QNo)
  | ccnt (a d : KNo) (ol : Bool)
  | cwait (a b : KNo) (ol : Bool)
  | csig (a b c : KNo) (ol : Bool)
  | publ (a d : KNo) (cl : Bool)
  | coffl (a b c d : KNo) (t : Elem) (f : OffFmt) (cl sl : Bool)
  | crest (a b c d : KNo) (t : Elem) (f : OffFmt) (cl dl : Bool)
  | fld (a b : KNo) (r : Fin 32) (vec : Bool) (sz : MemSz)
  | fst (a b : KNo) (r : Fin 32) (vec : Bool) (sz : StSz)
  | fatom (a b c d : KNo) (w64 : Bool) (op : Fin 16)
  | fcas (a b c d : KNo) (w64 : Bool)
  | fdrain
  | fwait (a d : KNo)
  | fmsg (a b c : KNo) (sl : Bool) (lenM1 : Fin 32)
  | frts (a : KNo)
  | fcancel (a : KNo)
  | fsig (a b c : KNo)
  | epopen (a b d : KNo)
  | epstep (a b c d s : KNo)
  | epclose (a b s : KNo)
  | rwpost (a b c s : KNo)
  | lqpop (a d : KNo) (p : PNo) (q : KNo)
  | lqack (a b s q : KNo)
  | keyop (a b : KNo)
  | tlbinv (a b : KNo)
  | cstat (a d : KNo) (ol : Bool)
  -- Resets, power, memory health and fatal errors (R14 to R27, R104)
  | coldReset (b : BringUp)
  | cxlReset (b : BringUp)
  | resetCtlWarm (b : BringUp)
  | resetCtlCold (b : BringUp)
  | thermalThrottle (die : Nat)
  | thermalRecover
  | thermalTrip
  | powerSample (watts : Nat)
  | scrub (line : Nat) (uncorrectable : Bool)
  | tier2LinkDown (link : Fin 4)
  | feWedged
  | reeveHang (r : Fin 2)
  | reeveTrap (r : Fin 2)
  | stateUe
  | dieLink
  | fatalDeadline
  -- The host port (R83 to R123)
  | hostMemRead (line : Nat)
  | hostMemWrite (line : Nat) (data : BitVec 512) (be : BitVec 64)
  | negotiate
  | registerGraph
  | releaseGraph
  | keyGenerate
  | keyImport
  | keyLoad
  | keyDestroy
  | keySlotZeroise (slot : Nat)
  | attest
  | dumpClear
  | flashWrite
  | thermalAck
  | submitEnable (v : Word)
  | submitDisable (v : Word)
  | submitLineObservation (line : Nat)
  | xltInvGo (v : Word)
  | invalidationComplete
  | xltResumeRetry (tag : Nat)
  | xltResumeAbort (tag : Nat)
  | fabJobWrite (v : Word)
  | counterClear (off : Nat)
  | hostRewardPost (v : Word)
  | lqFlush (q : KNo)
  | registerWrite (off : Nat) (v : Word)
  -- Packets and links (R34 to R82, R164)
  | reqRd (p : Packet)
  | reqWr (p : Packet)
  | reqAt (p : Packet)
  | resp (p : Packet)
  | msg (p : Packet)
  | sig (p : Packet)
  | rwpostArrival (p : Packet)
  | collChunk (p : Packet)
  | beacon (b : Beacon)
  | rts (p : Packet)
  | accept (p : Packet)
  | full (p : Packet)
  | token (p : Packet)
  | ack (p : Packet)
  | renew (p : Packet)
  | returnPkt (p : Packet)
  | cancel (p : Packet)
  | done (p : Packet)
  | purge (p : Packet)
  | spill (p : Packet)
  | pull (p : Packet)
  | e2eTimeout (key : Nat)
  | rotorSlotStart (plane : Fin 24)
  | torusBeacon
  | beaconLoss
  | rotorResume
  | linkReplay (pair : Fin 48)
  | lossOfLight (pair : Fin 48)
  | fldBound (c : CtxId)
  | grantDecision
  | tokenExpiry (src msgid : Nat)
  | orphanTimeout (src msgid : Nat)
  | renewInterval (msgid : Nat)
  | savedContextDiscard (rec : Nat)
  | collNode (inst node : Nat)
  -- The reward join (R158 to R181)
  | joinTimeout (e : Nat)
  | openLimit (e : Nat)
  | orphanWindowExpiry
  | lingerExpiry (e : Nat)
  | backwardScan (e : Nat)
  | release (q : KNo)
  | descriptorReady (q : KNo)
  -- Translation faults, copy-on-write and publication (R115 to R123)
  | faultDelivery (tag : Nat)
  | faultDeliveryRetry (tag : Nat)
  | cowFill (tag : Nat)
  | publSwap (c : CtxId) (seq : Nat)
  -- Scheduling (R129 to R157, R260)
  | copyNodeRetire (inst node : Nat)
  | waitNodeMet (inst node : Nat)
  | signalNodeRetire (inst node : Nat)
  | walkerStart (inst node : Nat)
  | walkerEmit (w : Fin 64)
  | splitRequest (p : Fin 24)
  | walkerSplit (p : Fin 24)
  | dispatch (p : Fin 24)
  | overlayLoadDone (c : CtxId)
  | startWaitMet (c : CtxId)
  | taskRetire (c : CtxId)
  | sliceEnd (core : Nat)
  | preemptMark (p : Fin 24)
  | victimStop (c : CtxId)
  | saveDone (c : CtxId)
  | resumeEntryJoin
  | restore (p : Fin 24)
  -- The core (R188 to R203, R359 to R406)
  | trapEntry (c : CtxId)
  | resultLand (c : CtxId)
  | peerStoreLand
  | bankWake (c : CtxId) (bank : Fin 4)
  | stallRelease (c : CtxId)
  | leaseGrant (p : Fin 24)
  | loadPipeComplete (core : Nat) (pipe : Bool)
  | stepEnter (p : Fin 24)
  | stepLand (p : Fin 24)
  | culvertCompletionUpdate (c : CtxId) (seq : Nat)
  | streamFill (c : CtxId) (q : QNo)
  | streamEntryWrite (c : CtxId) (q : QNo)
  | cdescReadDone (c : CtxId) (q : QNo)
  | storePathDone (core : Nat)
  | sendDescriptorRead (c : CtxId) (seq : Nat)
  | torusHop (p : Packet)
  deriving DecidableEq, Repr

end Sys2Proof
end

