-- ==== Sys2Proof/WellFormed.lean ====
section
/-! DEFINITION. When an instruction is well formed: the field values its format reserves are absent (R264 to R275,
R319, R326, R354, R379, R412). Checks that need the whole bundle or the launch are made at issue, in Machine. -/

namespace Sys2Proof

/-- size(t) of R214, in bits. -/
def Elem.size : Elem → Nat
  | .i8 => 8 | .i16 => 16 | .i32 => 32 | .i4 => 4 | .n8 => 8 | .n16 => 16 | .n32 => 32

/-- signed(t) of R320. -/
def Elem.signed : Elem → Bool
  | .i8 | .i16 | .i32 | .i4 => true
  | .n8 | .n16 | .n32 => false

/-- The set S of R326. -/
def Elem.isS : Elem → Bool
  | .i8 | .i16 | .i32 => true
  | .i4 | .n8 | .n16 | .n32 => false

/-- The set S with U of R326. -/
def Elem.isSU : Elem → Bool
  | .i4 => false
  | .i8 | .i16 | .i32 | .n8 | .n16 | .n32 => true

/-- Types that have a twice type (R323). -/
def Elem.canWiden : Elem → Bool
  | .i4 | .i8 | .i16 | .n8 | .n16 => true
  | .i32 | .n32 => false

/-- Types that have a half type (R323). -/
def Elem.canNarrow : Elem → Bool
  | .i8 | .i16 | .i32 | .n16 | .n32 => true
  | .i4 | .n8 => false

/-- The width in bits (R269). -/
def VW.bits : VW → Nat
  | .w256 => 256 | .w512 => 512 | .w1024 => 1024

/-- lanes(w, t) of R320. -/
def lanes (w : VW) (t : Elem) : Nat := w.bits / t.size

/-- The stream rules of R269 and R272 for an operation whose fields A, B and D may name a stream as `ua`, `ub`, `ud`
say; `z` is the zeroing modifier. -/
def strOk (str : Str) (ua ub ud z : Bool) (a b d : Nat) : Bool :=
  match str with
  | .none => true
  | .a => ua && a < 8
  | .b => ub && b < 8
  | .d => ud && !z && d < 8

/-- Class TWO: `ok` is the type test, `pair` marks a widening operation, `acc` VMAC. -/
def VTwo.wf (o : VTwo) (ok : Bool) (pair acc : Bool) : Bool :=
  ok && (!pair || o.d.val % 2 == 0) && strOk o.str true true (!pair && !acc) o.z o.a.val o.b.val o.d.val

/-- Class IMM. -/
def VImm.wf (o : VImm) (ok : Bool) : Bool := ok && strOk o.str true false true o.z o.a.val 0 o.d.val

/-- Class ONE. -/
def VOne.wf (o : VOne) (ok pair : Bool) : Bool :=
  ok && (!pair || o.d.val % 2 == 0) && strOk o.str true false (!pair) o.z o.a.val 0 o.d.val

/-- Width and type pairs of VBSENC (R351). -/
def bsEncPair (w : VW) (t : Elem) : Bool :=
  match t, w with
  | .i32, .w1024 => true
  | .i16, .w512 => true
  | .i16, .w1024 => true
  | _, _ => false

/-- Width and type pairs of VBSDEC (R351). -/
def bsDecPair (w : VW) (t : Elem) : Bool :=
  match t, w with
  | .i8, _ => true
  | .i16, .w512 => true
  | .i16, .w1024 => true
  | _, _ => false

/-- Width of the immediate of MSPECF's field, none for the reserved fields (R357). -/
def mspecfWidth (field : Nat) : Option Nat :=
  [11, 8, 18, 18, 16, 8, 8, 16, 16, 16, 16, 18, 8][field]?

/-- The types COFFL accepts in a format (R398). -/
def cofflOk (t : Elem) : OffFmt → Bool
  | .full => true
  | .bs4 => t == .i16 || t == .i32
  | .sb1 => t.isS

/-- The types CREST accepts in a format (R398). -/
def crestOk (t : Elem) : OffFmt → Bool
  | .full => true
  | .bs4 => t == .i8 || t == .i16
  | .sb1 => t.isS

/-- A BR test that never holds selects nothing (R266). -/
def BTest.wf (t : BTest) : Bool := !(t.neg && t.p == 0) || t.x == 0

/-- A slot operation whose field values are all allowed. The device steps have no encoding, and all are well formed. -/
def Instr.wf : Instr → Bool
  | .br t0 t1 t2 t3 => t0.wf && t1.wf && t2.wf && t3.wf
  | .loopn dims first => first.val + dims.val + 1 ≤ 8
  | .loops _ _ p => p != 0
  | .loopb _ count => count != 0
  | .semw _ off => off.toNat % 16 == 0
  | .ext _ _ pos lenM1 _ => pos.val + lenM1.val + 1 ≤ 64
  | .ld2 d _ _ => d.val % 2 == 0
  | .st2 d _ _ => d.val % 2 == 0
  | .vadd o | .vsub o | .vadds o | .vsubs o | .vmin o | .vmax o | .vmul o | .vmulh o | .vand o | .vor o | .vxor o
  | .vsel o => o.wf true false false
  | .vmac o => o.wf true false true
  | .vmulw o | .vmacw o => o.wf o.t.canWiden true false
  | .vshl o | .vshr o | .vshrrRne o | .vshrrRtz o | .vshrrRsto o | .vperm o => o.wf o.t.isSU false false
  | .vshra o => o.wf o.t.isS false false
  | .vpack4 o => o.wf (o.t == .i8) false false
  | .vneg o | .vabs o => o.wf (o.t.isS || o.t == .i4) false
  | .vwiden o => o.wf o.t.canWiden true
  | .vredadd o | .vredmax o | .vredmin o | .vclz o | .vcensus o | .vgather o => o.wf o.t.isSU false
  | .vexp2 o | .vlog2 o | .vrsqrt o | .vrecip o => o.wf (o.t == .i32) false
  | .vsgnmap o => o.wf (o.t.isS && o.m == 0) false
  | .vshrsRne o | .vshrsRtz o | .vshrsRsto o | .vslide o => o.wf o.t.isSU
  | .vnarrowRne o | .vnarrowRtz o | .vnarrowRsto o => o.wf o.t.canNarrow
  | .vbcast o => o.wf (o.t.isSU && o.imm.val < lanes o.w o.t)
  | .vunpack4 o => o.wf (o.t == .i4 && o.imm.val ≤ 1)
  | .vbsenc o => o.wf (bsEncPair o.w o.t && o.m == 0)
  | .vbsdec o => o.wf (bsDecPair o.w o.t && o.m == 0)
  | .vsgnapply o => o.wf (o.t.isS && o.imm.val ≤ 1)
  | .vcmp o => o.t.isSU && strOk o.str true true false false o.a.val o.b.val 0
  | .vmpop o => o.t.isSU
  | .vscan o => o.t.isSU && (o.seg || o.head == 0) && strOk o.str true false true o.z o.a.val 0 o.d.val
  | .vlds o => o.t.isSU
  | .vsts o => o.t.isSU
  | .vscatter o => o.t.isSU
  | .vmovx o => o.k.val < lanes o.w o.t
  | .mspecf _ field imm =>
    match mspecfWidth field.val with
    | some n => imm.toNat < 2 ^ n
    | none => false
  | .mrdacc _ d s => d != s
  | .mwait fin b a => fin || b || a
  | .mfill t _ _ _ => t == .i4 || t == .i8 || t == .i16
  | .coffl _ _ _ _ t f _ _ => cofflOk t f
  | .crest _ _ _ _ t f _ _ => crestOk t f
  | .fst _ _ r vec _ => vec || r.val < 16
  | .fatom _ _ _ _ _ op => op.val ≤ 9
  | .lqpop _ _ p _ => p != 0
  | _ => true

end Sys2Proof
end

