-- ==== Sys2Proof/Decode.lean ====
section
/-! DEFINITION. The decoder, from slot words to instructions (R263 to R275), and after it the encoder, both written
from the format tables of the bundle encoding. -/

namespace Sys2Proof

/-- Bits [lo + n - 1 : lo] of a word. -/
def bits (w lo n : Nat) : Nat := w / 2 ^ lo % 2 ^ n

/-- A single bit of a word. -/
def bit1 (w lo : Nat) : Bool := bits w lo 1 == 1

/-- A field as a number below `2 ^ n`. -/
def fin8 (w lo : Nat) : Fin 8 := Fin.ofNat 8 (bits w lo 3)
def fin16 (w lo : Nat) : Fin 16 := Fin.ofNat 16 (bits w lo 4)
def fin32 (w lo : Nat) : Fin 32 := Fin.ofNat 32 (bits w lo 5)
def fin64 (w lo : Nat) : Fin 64 := Fin.ofNat 64 (bits w lo 6)
def fin4 (w lo : Nat) : Fin 4 := Fin.ofNat 4 (bits w lo 2)
def fin256 (w lo : Nat) : Fin 256 := Fin.ofNat 256 (bits w lo 8)

/-- A field as a bit vector. -/
def field (w lo n : Nat) : BitVec n := BitVec.ofNat n (bits w lo n)

/-- The slots of a bundle that hold operations (R263): S, V0 or V1, M, C0 or C1, B. -/
inductive SlotKind where
  | s | v | m | c | b
  deriving DecidableEq, Repr

/-- Why a slot word is no instruction (R264). -/
inductive Reject where
  /-- A NOP opcode with another bit set. -/
  | nopBits
  /-- An opcode the map reserves. -/
  | reservedOpcode
  /-- A nonzero must-be-zero field. -/
  | mustBeZero
  /-- A field value the format reserves. -/
  | reservedField
  /-- A type, stream, pair or combination the operation does not accept. -/
  | illFormed
  /-- The word is wider than a slot. -/
  | length
  deriving DecidableEq, Repr

/-- Accept an instruction if its must-be-zero fields are zero. -/
def ifZero (n : Nat) (i : Instr) : Except Reject Instr := if n = 0 then .ok i else .error .mustBeZero

/-- Accept an instruction whose reserved-value fields decoded. -/
def orReserved {α : Type} (o : Option α) (k : α → Except Reject Instr) : Except Reject Instr :=
  match o with
  | some x => k x
  | none => .error .reservedField

def elemOf : Nat → Option Elem
  | 0 => some .i8 | 1 => some .i16 | 2 => some .i32 | 3 => some .i4 | 4 => some .n8 | 5 => some .n16 | 6 => some .n32
  | _ => none

def vwOf : Nat → Option VW
  | 0 => some .w256 | 1 => some .w512 | 2 => some .w1024 | _ => none

def strOf : Nat → Str
  | 1 => .a | 2 => .b | 3 => .d | _ => .none

def rndOf : Nat → Option Rnd
  | 0 => some .rne | 1 => some .rtz | 2 => some .rsto | _ => none

def condOf : Nat → Option Cond
  | 0 => some .eq | 1 => some .ne | 2 => some .lt | 3 => some .ge | 4 => some .ltu | 5 => some .geu | _ => none

def vcondOf : Nat → VCond
  | 0 => .eq | 1 => .ne | 2 => .lt | _ => .le

def logOf : Nat → LogOp
  | 0 => .and | 1 => .or | 2 => .xor | _ => .andn

def memSzOf : Nat → Option MemSz
  | 0 => some .i8 | 1 => some .i16 | 2 => some .i32 | 3 => some .d64 | 4 => some .n8 | 5 => some .n16 | 6 => some .n32
  | _ => none

def stSzOf : Nat → Option StSz
  | 0 => some .b1 | 1 => some .b2 | 2 => some .b4 | 3 => some .b8 | _ => none

def scopeOf : Nat → Option Scope
  | 0 => some .ctx | 1 => some .core | 2 => some .pol | 3 => some .pkg | 4 => some .job | _ => none

def fmtOf : Nat → Option OffFmt
  | 0 => some .full | 1 => some .bs4 | 2 => some .sb1 | _ => none

def patOf : Nat → FillPat
  | 0 => .ones | 1 => .ident | 2 => .upper | _ => .lower

/-- Formats SR, SU, SI, SH and SL of R267. -/
def decSR (w : Nat) (k : SNo → SNo → SNo → Instr) : Except Reject Instr :=
  ifZero (bits w 0 10) (k (fin32 w 20) (fin32 w 15) (fin32 w 10))
def decSU (w : Nat) (k : SNo → SNo → Instr) : Except Reject Instr :=
  ifZero (bits w 0 15) (k (fin32 w 20) (fin32 w 15))
def decSI (w : Nat) (k : SNo → SNo → BitVec 15 → Instr) : Except Reject Instr :=
  .ok (k (fin32 w 20) (fin32 w 15) (field w 0 15))
def decSH (w : Nat) (k : SNo → SNo → Fin 64 → Instr) : Except Reject Instr :=
  ifZero (bits w 6 9) (k (fin32 w 20) (fin32 w 15) (fin64 w 0))

/-- The S-slot map of R268, without the checks of `Instr.wf`. -/
def rawS (w : Nat) : Except Reject Instr :=
  let d := fin32 w 20
  let a := fin32 w 15
  let b := fin32 w 10
  match bits w 25 7 with
  | 0x00 => if w = 0 then .ok .snop else .error .nopBits
  | 0x01 => decSR w .add
  | 0x02 => decSR w .sub
  | 0x03 => decSR w .mul
  | 0x04 => decSR w .mulh
  | 0x05 => decSR w .mulhn
  | 0x06 => decSR w .div
  | 0x07 => decSR w .divn
  | 0x08 => decSR w .rem
  | 0x09 => decSR w .remn
  | 0x0A => decSR w .and
  | 0x0B => decSR w .or
  | 0x0C => decSR w .xor
  | 0x0D => decSR w .shl
  | 0x0E => decSR w .shr
  | 0x0F => decSR w .shra
  | 0x10 => decSR w .min
  | 0x11 => decSR w .max
  | 0x12 => decSR w .minn
  | 0x13 => decSR w .maxn
  | 0x14 => decSU w .clz
  | 0x15 => decSU w .ctz
  | 0x16 => decSU w .popc
  | 0x18 => decSI w .addi
  | 0x19 => decSI w .andi
  | 0x1A => decSI w .ori
  | 0x1B => decSI w .xori
  | 0x1C => decSH w .shlImm
  | 0x1D => decSH w .shrImm
  | 0x1E => decSH w .shraImm
  | 0x20 => .ok (.lil d (field w 0 20))
  | 0x21 => .ok (.lih d (field w 0 20))
  | 0x22 => ifZero (bits w 0 2) (.ext d a (fin64 w 9) (fin64 w 3) (bit1 w 2))
  | 0x24 => orReserved (condOf (bits w 7 3)) fun c => ifZero (bits w 23 2 + bits w 0 7) (.pcmp (fin8 w 20) a b c)
  | 0x25 =>
    ifZero (bits w 23 2 + bits w 18 2 + bits w 13 2 + bits w 0 6) (.plog (fin8 w 20) (fin8 w 15) (fin8 w 10) (field w 6 4))
  | 0x26 => ifZero (bits w 0 7) (.sel d a b (fin8 w 7))
  | 0x28 => orReserved (memSzOf (bits w 12 3)) fun z => .ok (.ld d a z (field w 0 12))
  | 0x29 => orReserved (stSzOf (bits w 12 3)) fun z => .ok (.st d a z (field w 0 12))
  | 0x2A => ifZero (bits w 12 3) (.ld2 d a (field w 0 12))
  | 0x2B => ifZero (bits w 12 3) (.st2 d a (field w 0 12))
  | 0x30 =>
    match bits w 17 3 with
    | 0 => ifZero (bits w 4 8) (.movxV d (fin32 w 12) (fin16 w 0))
    | 1 => ifZero (bits w 16 1 + bits w 0 12) (.movxK d (fin16 w 12))
    | _ => .error .reservedField
  | 0x31 => ifZero (bits w 15 5 + bits w 12 3) (.csrr d (field w 0 12))
  | 0x32 => ifZero (bits w 20 5 + bits w 12 3) (.csrw a (field w 0 12))
  | 0x33 =>
    orReserved (scopeOf (bits w 0 3)) fun sc =>
      if bit1 w 3 then
        if sc = .ctx then ifZero (bits w 4 21) .fenceQ else .error .reservedField
      else ifZero (bits w 4 21) (.fence sc)
  | 0x34 => ifZero (bits w 0 20) (.rand d)
  | _ => .error .reservedOpcode

/-- The class formats of R269 and R270. -/
def decTwo (w : Nat) (k : VTwo → Instr) : Except Reject Instr :=
  orReserved (vwOf (bits w 23 2)) fun vw => orReserved (elemOf (bits w 20 3)) fun t =>
    .ok (k ⟨bit1 w 25, vw, t, fin32 w 15, fin32 w 10, fin32 w 5, fin8 w 2, strOf (bits w 0 2)⟩)
def decImm (w : Nat) (k : VImm → Instr) : Except Reject Instr :=
  orReserved (vwOf (bits w 23 2)) fun vw => orReserved (elemOf (bits w 20 3)) fun t =>
    .ok (k ⟨bit1 w 25, vw, t, fin32 w 15, fin32 w 10, fin32 w 5, fin8 w 2, strOf (bits w 0 2)⟩)
def decOne (w : Nat) (k : VOne → Instr) : Except Reject Instr :=
  orReserved (vwOf (bits w 23 2)) fun vw => orReserved (elemOf (bits w 20 3)) fun t =>
    ifZero (bits w 5 5) (k ⟨bit1 w 25, vw, t, fin32 w 15, fin32 w 10, fin8 w 2, strOf (bits w 0 2)⟩)
def decLdf (w : Nat) (k : VLdf → Instr) : Except Reject Instr :=
  orReserved (vwOf (bits w 23 2)) fun vw => orReserved (elemOf (bits w 20 3)) fun t =>
    ifZero (bits w 0 2) (k ⟨bit1 w 25, vw, t, fin32 w 15, fin32 w 10, field w 5 5, fin8 w 2⟩)
def decStf (w : Nat) (k : VStf → Instr) : Except Reject Instr :=
  orReserved (vwOf (bits w 23 2)) fun vw => orReserved (elemOf (bits w 20 3)) fun t =>
    ifZero (bits w 25 1 + bits w 0 2) (k ⟨vw, t, field w 15 5, fin32 w 10, fin32 w 5, fin8 w 2⟩)

/-- The V-slot map of R271, by operation number. -/
def rawV (w : Nat) : Except Reject Instr :=
  match bits w 26 6 with
  | 0 => if w = 0 then .ok .vnop else .error .nopBits
  | 1 => decTwo w .vadd
  | 2 => decTwo w .vsub
  | 3 => decTwo w .vadds
  | 4 => decTwo w .vsubs
  | 5 => decOne w .vneg
  | 6 => decOne w .vabs
  | 7 => decTwo w .vmin
  | 8 => decTwo w .vmax
  | 9 => decTwo w .vmul
  | 10 => decTwo w .vmulh
  | 11 => decTwo w .vmulw
  | 12 => decTwo w .vmac
  | 13 => decTwo w .vmacw
  | 14 => decTwo w .vand
  | 15 => decTwo w .vor
  | 16 => decTwo w .vxor
  | 17 => decTwo w .vshl
  | 18 => decTwo w .vshr
  | 19 => decTwo w .vshra
  | 20 => decTwo w .vshrrRne
  | 21 => decTwo w .vshrrRtz
  | 22 => decTwo w .vshrrRsto
  | 23 => decImm w .vshrsRne
  | 24 => decImm w .vshrsRtz
  | 25 => decImm w .vshrsRsto
  | 26 => decImm w .vnarrowRne
  | 27 => decImm w .vnarrowRtz
  | 28 => decImm w .vnarrowRsto
  | 29 => decOne w .vwiden
  | 30 =>
    orReserved (vwOf (bits w 23 2)) fun vw => orReserved (elemOf (bits w 20 3)) fun t =>
      ifZero (bits w 25 1)
        (.vcmp ⟨vw, t, vcondOf (bits w 18 2), fin8 w 15, fin32 w 10, fin32 w 5, fin8 w 2, strOf (bits w 0 2)⟩)
  | 31 => decTwo w .vsel
  | 32 =>
    orReserved (vwOf (bits w 23 2)) fun vw =>
      ifZero (bits w 25 1 + bits w 20 3 + bits w 13 2 + bits w 8 2 + bits w 0 5)
        (.vmlog ⟨vw, logOf (bits w 18 2), fin8 w 15, fin8 w 10, fin8 w 5⟩)
  | 33 =>
    orReserved (vwOf (bits w 23 2)) fun vw => orReserved (elemOf (bits w 20 3)) fun t =>
      ifZero (bits w 13 2 + bits w 5 5 + bits w 0 2) (.vmpop ⟨bit1 w 25, vw, t, fin32 w 15, fin8 w 10, fin8 w 2⟩)
  | 34 => decImm w .vbcast
  | 35 => decTwo w .vperm
  | 36 => decImm w .vslide
  | 37 => decOne w .vredadd
  | 38 => decOne w .vredmax
  | 39 => decOne w .vredmin
  | 40 =>
    orReserved (vwOf (bits w 23 2)) fun vw => orReserved (elemOf (bits w 20 3)) fun t =>
      ifZero (bits w 8 1)
        (.vscan ⟨bit1 w 25, vw, t, fin32 w 15, fin32 w 10, bit1 w 9, fin8 w 5, fin8 w 2, strOf (bits w 0 2)⟩)
  | 41 => decOne w .vclz
  | 42 => decOne w .vcensus
  | 43 => decOne w .vexp2
  | 44 => decOne w .vlog2
  | 45 => decOne w .vrsqrt
  | 46 => decOne w .vrecip
  | 48 => decLdf w .vld
  | 49 => decStf w .vst
  | 50 => decLdf w .vlds
  | 51 => decStf w .vsts
  | 52 => decOne w .vgather
  | 53 => decStf w .vscatter
  | 54 => decTwo w .vpack4
  | 55 => decImm w .vunpack4
  | 56 => decImm w .vbsenc
  | 57 => decImm w .vbsdec
  | 58 => decOne w .vsgnmap
  | 59 => decImm w .vsgnapply
  | 60 =>
    orReserved (vwOf (bits w 23 2)) fun vw => orReserved (elemOf (bits w 20 3)) fun t =>
      ifZero (bits w 25 1 + bits w 0 5) (.vmovx ⟨vw, t, fin32 w 15, fin32 w 10, fin32 w 5⟩)
  | 61 => ifZero (bits w 14 12 + bits w 0 10) (.vrfgate (field w 10 4))
  | _ => .error .reservedOpcode

/-- The iterator operand of MLDA and MLDB (R273): with ITO clear the field must be zero. -/
def decIt (w : Nat) (k : Option ItNo → Instr) : Except Reject Instr :=
  if bit1 w 20 then ifZero (bits w 0 17) (k (some (fin8 w 17))) else ifZero (bits w 0 20) (k none)

/-- The M-slot map of R273. -/
def rawM (w : Nat) : Except Reject Instr :=
  let os := fin8 w 22
  match bits w 25 7 with
  | 0x00 => if w = 0 then .ok .mnop else .error .nopBits
  | 0x01 => ifZero (bits w 8 17) (.mlease (fin256 w 0))
  | 0x02 => ifZero (bits w 0 25) .mfree
  | 0x03 => ifZero (bits w 0 17) (.mspec os (fin32 w 17))
  | 0x04 => .ok (.mspecf os (fin16 w 18) (field w 0 18))
  | 0x05 => ifZero (bits w 2 23) (.mzero (fin4 w 0))
  | 0x06 => decIt w (.mlda os (bit1 w 21))
  | 0x07 => decIt w (.mldb os (bit1 w 21))
  | 0x08 => ifZero (bits w 4 21) (.mmac (bit1 w 3) (bit1 w 2) (fin4 w 0))
  | 0x09 => ifZero (bits w 4 21 + bits w 0 2) (.mmacq (bit1 w 3) (bit1 w 2))
  | 0x0A => ifZero (bits w 7 18) (.mrdacc (fin8 w 4) (fin4 w 2) (fin4 w 0))
  | 0x0B => orReserved (rndOf (bits w 8 2)) fun r => ifZero (bits w 10 12) (.mshrd os r (fin64 w 2) (fin4 w 0))
  | 0x0C => ifZero (bits w 2 20) (.mstacc os (fin4 w 0))
  | 0x0D => ifZero (bits w 2 20) (.mldacc os (fin4 w 0))
  | 0x0E => ifZero (bits w 1 21) (.mrprog os (bit1 w 0))
  | 0x0F => ifZero (bits w 3 22) (.mwait (bit1 w 2) (bit1 w 1) (bit1 w 0))
  | 0x10 => ifZero (bits w 0 25) .mtcinv
  | 0x11 => ifZero (bits w 0 22) (.mstat os)
  | 0x12 =>
    orReserved (elemOf (bits w 4 3)) fun t =>
      ifZero (bits w 7 18) (.mfill t (patOf (bits w 2 2)) (bit1 w 1) (bit1 w 0))
  | 0x13 => orReserved (rndOf (bits w 8 2)) fun r => ifZero (bits w 10 15) (.mscale r (field w 2 6) (fin4 w 0))
  | _ => .error .reservedOpcode

/-- The C-slot map of R275, with the fields of R274. -/
def rawC (w : Nat) : Except Reject Instr :=
  let a := fin16 w 21
  let b := fin16 w 17
  let c := fin16 w 13
  let d := fin16 w 9
  match bits w 25 7 with
  | 0x00 => if w = 0 then .ok .cnop else .error .nopBits
  | 0x01 => ifZero (bits w 4 17) (.cdesc a (bit1 w 3) (fin8 w 0))
  | 0x02 => ifZero (bits w 3 6) (.ccopy a b c d (bit1 w 2) (bit1 w 1) (bit1 w 0))
  | 0x03 => ifZero (bits w 13 12 + bits w 4 5) (.ccopya d (bit1 w 3) (fin8 w 0))
  | 0x04 =>
    orReserved (vwOf (bits w 4 2)) fun vw =>
      ifZero (bits w 13 12 + bits w 7 2) (.cbind d (bit1 w 6) vw (bit1 w 3) (fin8 w 0))
  | 0x05 => ifZero (bits w 3 22) (.cunbind (fin8 w 0))
  | 0x06 => ifZero (bits w 3 22) (.ceos (fin8 w 0))
  | 0x07 => ifZero (bits w 3 18) (.cidx a (fin8 w 0))
  | 0x08 => ifZero (bits w 13 4 + bits w 5 4) (.cgather a b d (bit1 w 4) (bit1 w 3) (fin8 w 0))
  | 0x09 => ifZero (bits w 13 4 + bits w 5 4) (.cscatter a b d (bit1 w 4) (bit1 w 3) (fin8 w 0))
  | 0x0A => ifZero (bits w 13 8 + bits w 1 8) (.ccnt a d (bit1 w 0))
  | 0x0B => ifZero (bits w 1 16) (.cwait a b (bit1 w 0))
  | 0x0C => ifZero (bits w 1 12) (.csig a b c (bit1 w 0))
  | 0x0D => ifZero (bits w 13 8 + bits w 3 6 + bits w 0 2) (.publ a d (bit1 w 2))
  | 0x0E =>
    orReserved (elemOf (bits w 5 3)) fun t => orReserved (fmtOf (bits w 3 2)) fun f =>
      ifZero (bits w 8 1 + bits w 0 1) (.coffl a b c d t f (bit1 w 2) (bit1 w 1))
  | 0x0F =>
    orReserved (elemOf (bits w 5 3)) fun t => orReserved (fmtOf (bits w 3 2)) fun f =>
      ifZero (bits w 8 1 + bits w 1 1) (.crest a b c d t f (bit1 w 2) (bit1 w 0))
  | 0x10 => orReserved (memSzOf (bits w 0 3)) fun z => ifZero (bits w 9 8) (.fld a b (fin32 w 4) (bit1 w 3) z)
  | 0x11 => orReserved (stSzOf (bits w 0 3)) fun z => ifZero (bits w 9 8) (.fst a b (fin32 w 4) (bit1 w 3) z)
  | 0x12 => ifZero (bits w 5 4) (.fatom a b c d (bit1 w 4) (fin16 w 0))
  | 0x13 => ifZero (bits w 5 4 + bits w 0 4) (.fcas a b c d (bit1 w 4))
  | 0x14 => ifZero (bits w 0 25) .fdrain
  | 0x15 => ifZero (bits w 13 8 + bits w 0 9) (.fwait a d)
  | 0x16 => ifZero (bits w 6 7) (.fmsg a b c (bit1 w 5) (fin32 w 0))
  | 0x17 => ifZero (bits w 0 21) (.frts a)
  | 0x18 => ifZero (bits w 0 21) (.fcancel a)
  | 0x19 => ifZero (bits w 0 13) (.fsig a b c)
  | 0x20 => ifZero (bits w 13 4 + bits w 0 9) (.epopen a b d)
  | 0x21 => ifZero (bits w 0 5) (.epstep a b c d (fin16 w 5))
  | 0x22 => ifZero (bits w 9 8 + bits w 0 5) (.epclose a b (fin16 w 5))
  | 0x23 => ifZero (bits w 9 4 + bits w 0 5) (.rwpost a b c (fin16 w 5))
  | 0x24 => ifZero (bits w 13 8 + bits w 7 2) (.lqpop a d (fin8 w 4) (fin16 w 0))
  | 0x25 => ifZero (bits w 9 8 + bits w 4 1) (.lqack a b (fin16 w 5) (fin16 w 0))
  | 0x30 => ifZero (bits w 0 17) (.keyop a b)
  | 0x31 => ifZero (bits w 0 17) (.tlbinv a b)
  | 0x32 => ifZero (bits w 13 8 + bits w 1 8) (.cstat a d (bit1 w 0))
  | _ => .error .reservedOpcode

/-- One test of BR: NEG and the predicate at `lo`, its target at `xo` (R266). -/
def decTest (w lo xo : Nat) : BTest := ⟨bit1 w (lo + 3), fin8 w lo, fin8 w xo⟩

/-- The B-slot map of R265. -/
def rawB (w : Nat) : Except Reject Instr :=
  match bits w 28 4 with
  | 0 => if w = 0 then .ok .bnop else .error .nopBits
  | 1 => .ok (.br (decTest w 12 0) (decTest w 16 3) (decTest w 20 6) (decTest w 24 9))
  | 2 => .ok (.jmp (field w 0 28))
  | 3 => .ok (.call (field w 0 28))
  | 4 => ifZero (bits w 3 25) (.calli (fin8 w 0))
  | 5 => ifZero (bits w 0 28) .ret
  | 6 => .ok (.setbt (fin8 w 25) (field w 0 25))
  | 7 => ifZero (bits w 0 23) (.loopn (fin4 w 26) (fin8 w 23))
  | 8 => ifZero (bits w 0 16) (.loops (fin64 w 22) (fin8 w 19) (fin8 w 16))
  | 9 => .ok (.loopb (fin64 w 22) (field w 0 22))
  | 10 => .ok (.yrun (field w 0 28))
  | 11 => ifZero (bits w 0 28) .tend
  | 12 => ifZero (bits w 8 20) (.trap (field w 0 8))
  | 13 => ifZero (bits w 0 28) .rft
  | 14 => ifZero (bits w 22 3) (.semw (fin8 w 25) (field w 0 22))
  | _ => ifZero (bits w 2 26) (.barw (fin4 w 0))

/-- The map of a slot. -/
def rawSlot : SlotKind → Nat → Except Reject Instr
  | .s => rawS
  | .v => rawV
  | .m => rawM
  | .c => rawC
  | .b => rawB

/-- Decode one slot word (R263, R264): every pattern is an instruction or is rejected by name. -/
def decodeSlot (k : SlotKind) (w : Nat) : Except Reject Instr :=
  if 2 ^ 32 ≤ w then .error .length
  else
    match rawSlot k w with
    | .error r => .error r
    | .ok i => if i.wf then .ok i else .error .illFormed


/-- The ports of a header word, PORT0 first (R185). -/
def hPorts (h : Nat) : List Nat := [bits h 18 3, bits h 21 3, bits h 24 3, bits h 27 3]

/-- The guard of slot x of R185: 0 S, 1 V0, 2 V1, 3 M, 4 C0, 5 C1. -/
def hGuard (h : Nat) (x : Nat) : PNo := fin8 h (3 * x)

/-- Bit D of a header word. -/
def hD (h : Nat) : Bool := bit1 h 31
/-- Bit Y of a header word. -/
def hY (h : Nat) : Bool := bit1 h 30

/-- A decoded bundle: its header word and its seven operations (R263). -/
structure Bundle where
  h : Nat
  s : Instr
  v0 : Instr
  v1 : Instr
  m : Instr
  c0 : Instr
  c1 : Instr
  b : Instr
  deriving DecidableEq, Repr

/-- The little-endian number that a list of bytes stands for. -/
def leNat : List Byte → Nat
  | [] => 0
  | b :: bs => b.toNat + 256 * leNat bs

/-- Slot word i of the 32 bytes of a bundle (R263). -/
def slotWord (bytes : List Byte) (i : Nat) : Nat := leNat ((bytes.drop (4 * i)).take 4)

/-- Decode the 32 bytes of a bundle; a bundle one of whose slots is no instruction is rejected (R264). -/
def decodeBundle (bytes : List Byte) : Except Reject Bundle := do
  let s ← decodeSlot .s (slotWord bytes 1)
  let v0 ← decodeSlot .v (slotWord bytes 2)
  let v1 ← decodeSlot .v (slotWord bytes 3)
  let m ← decodeSlot .m (slotWord bytes 4)
  let c0 ← decodeSlot .c (slotWord bytes 5)
  let c1 ← decodeSlot .c (slotWord bytes 6)
  let b ← decodeSlot .b (slotWord bytes 7)
  return ⟨slotWord bytes 0, s, v0, v1, m, c0, c1, b⟩

/-! ### The encoder -/

def Elem.code : Elem → Nat
  | .i8 => 0 | .i16 => 1 | .i32 => 2 | .i4 => 3 | .n8 => 4 | .n16 => 5 | .n32 => 6
def VW.code : VW → Nat
  | .w256 => 0 | .w512 => 1 | .w1024 => 2
def Str.code : Str → Nat
  | .none => 0 | .a => 1 | .b => 2 | .d => 3
def Rnd.code : Rnd → Nat
  | .rne => 0 | .rtz => 1 | .rsto => 2
def Cond.code : Cond → Nat
  | .eq => 0 | .ne => 1 | .lt => 2 | .ge => 3 | .ltu => 4 | .geu => 5
def VCond.code : VCond → Nat
  | .eq => 0 | .ne => 1 | .lt => 2 | .le => 3
def LogOp.code : LogOp → Nat
  | .and => 0 | .or => 1 | .xor => 2 | .andn => 3
def MemSz.code : MemSz → Nat
  | .i8 => 0 | .i16 => 1 | .i32 => 2 | .d64 => 3 | .n8 => 4 | .n16 => 5 | .n32 => 6
def StSz.code : StSz → Nat
  | .b1 => 0 | .b2 => 1 | .b4 => 2 | .b8 => 3
def Scope.code : Scope → Nat
  | .ctx => 0 | .core => 1 | .pol => 2 | .pkg => 3 | .job => 4
def OffFmt.code : OffFmt → Nat
  | .full => 0 | .bs4 => 1 | .sb1 => 2
def FillPat.code : FillPat → Nat
  | .ones => 0 | .ident => 1 | .upper => 2 | .lower => 3

/-- The word of a format: the sum of its fields at their places. -/
def encSR (op : Nat) (d a b : SNo) : Nat := op * 2 ^ 25 + d.val * 2 ^ 20 + a.val * 2 ^ 15 + b.val * 2 ^ 10
def encSU (op : Nat) (d a : SNo) : Nat := op * 2 ^ 25 + d.val * 2 ^ 20 + a.val * 2 ^ 15
def encSI (op : Nat) (d a : SNo) (imm : BitVec 15) : Nat :=
  op * 2 ^ 25 + d.val * 2 ^ 20 + a.val * 2 ^ 15 + imm.toNat
def encSH (op : Nat) (d a : SNo) (sh : Fin 64) : Nat := op * 2 ^ 25 + d.val * 2 ^ 20 + a.val * 2 ^ 15 + sh.val
def encV (n : Nat) (z : Bool) (w : VW) (t d a b m str : Nat) : Nat :=
  n * 2 ^ 26 + z.toNat * 2 ^ 25 + w.code * 2 ^ 23 + t * 2 ^ 20 + d * 2 ^ 15 + a * 2 ^ 10 + b * 2 ^ 5 + m * 2 ^ 2 + str
def encTwo (n : Nat) (o : VTwo) : Nat := encV n o.z o.w o.t.code o.d.val o.a.val o.b.val o.m.val o.str.code
def encImm (n : Nat) (o : VImm) : Nat := encV n o.z o.w o.t.code o.d.val o.a.val o.imm.val o.m.val o.str.code
def encOne (n : Nat) (o : VOne) : Nat := encV n o.z o.w o.t.code o.d.val o.a.val 0 o.m.val o.str.code
def encLdf (n : Nat) (o : VLdf) : Nat := encV n o.z o.w o.t.code o.d.val o.a.val o.off.toNat o.m.val 0
def encStf (n : Nat) (o : VStf) : Nat := encV n false o.w o.t.code o.off.toNat o.a.val o.b.val o.m.val 0
def encM (op os x : Nat) : Nat := op * 2 ^ 25 + os * 2 ^ 22 + x
def encIt (it : Option ItNo) : Nat :=
  match it with
  | some n => 2 ^ 20 + n.val * 2 ^ 17
  | none => 0
def encC (op a b c d x : Nat) : Nat := op * 2 ^ 25 + a * 2 ^ 21 + b * 2 ^ 17 + c * 2 ^ 13 + d * 2 ^ 9 + x
def encTest (t : BTest) : Nat := t.neg.toNat * 8 + t.p.val
def encB (op x : Nat) : Nat := op * 2 ^ 28 + x

/-- The slot word of an operation (R265 to R275); a device step has no encoding. -/
def encode : Instr → Option Nat
  | .bnop => some 0
  | .br t0 t1 t2 t3 =>
    some (encB 1 (encTest t3 * 2 ^ 24 + encTest t2 * 2 ^ 20 + encTest t1 * 2 ^ 16 + encTest t0 * 2 ^ 12
      + t3.x.val * 2 ^ 9 + t2.x.val * 2 ^ 6 + t1.x.val * 2 ^ 3 + t0.x.val))
  | .jmp off => some (encB 2 off.toNat)
  | .call off => some (encB 3 off.toNat)
  | .calli bt => some (encB 4 bt.val)
  | .ret => some (encB 5 0)
  | .setbt bt off => some (encB 6 (bt.val * 2 ^ 25 + off.toNat))
  | .loopn dims first => some (encB 7 (dims.val * 2 ^ 26 + first.val * 2 ^ 23))
  | .loops n q p => some (encB 8 (n.val * 2 ^ 22 + q.val * 2 ^ 19 + p.val * 2 ^ 16))
  | .loopb n count => some (encB 9 (n.val * 2 ^ 22 + count.toNat))
  | .yrun n => some (encB 10 n.toNat)
  | .tend => some (encB 11 0)
  | .trap code => some (encB 12 code.toNat)
  | .rft => some (encB 13 0)
  | .semw it off => some (encB 14 (it.val * 2 ^ 25 + off.toNat))
  | .barw pipe => some (encB 15 pipe.val)
  | .snop => some 0
  | .add d a b => some (encSR 0x01 d a b)
  | .sub d a b => some (encSR 0x02 d a b)
  | .mul d a b => some (encSR 0x03 d a b)
  | .mulh d a b => some (encSR 0x04 d a b)
  | .mulhn d a b => some (encSR 0x05 d a b)
  | .div d a b => some (encSR 0x06 d a b)
  | .divn d a b => some (encSR 0x07 d a b)
  | .rem d a b => some (encSR 0x08 d a b)
  | .remn d a b => some (encSR 0x09 d a b)
  | .and d a b => some (encSR 0x0A d a b)
  | .or d a b => some (encSR 0x0B d a b)
  | .xor d a b => some (encSR 0x0C d a b)
  | .shl d a b => some (encSR 0x0D d a b)
  | .shr d a b => some (encSR 0x0E d a b)
  | .shra d a b => some (encSR 0x0F d a b)
  | .min d a b => some (encSR 0x10 d a b)
  | .max d a b => some (encSR 0x11 d a b)
  | .minn d a b => some (encSR 0x12 d a b)
  | .maxn d a b => some (encSR 0x13 d a b)
  | .clz d a => some (encSU 0x14 d a)
  | .ctz d a => some (encSU 0x15 d a)
  | .popc d a => some (encSU 0x16 d a)
  | .addi d a imm => some (encSI 0x18 d a imm)
  | .andi d a imm => some (encSI 0x19 d a imm)
  | .ori d a imm => some (encSI 0x1A d a imm)
  | .xori d a imm => some (encSI 0x1B d a imm)
  | .shlImm d a sh => some (encSH 0x1C d a sh)
  | .shrImm d a sh => some (encSH 0x1D d a sh)
  | .shraImm d a sh => some (encSH 0x1E d a sh)
  | .lil d imm => some (0x20 * 2 ^ 25 + d.val * 2 ^ 20 + imm.toNat)
  | .lih d imm => some (0x21 * 2 ^ 25 + d.val * 2 ^ 20 + imm.toNat)
  | .ext d a pos lenM1 sgn =>
    some (0x22 * 2 ^ 25 + d.val * 2 ^ 20 + a.val * 2 ^ 15 + pos.val * 2 ^ 9 + lenM1.val * 2 ^ 3 + sgn.toNat * 4)
  | .pcmp pd a b c => some (0x24 * 2 ^ 25 + pd.val * 2 ^ 20 + a.val * 2 ^ 15 + b.val * 2 ^ 10 + c.code * 2 ^ 7)
  | .plog pd pa pb tt => some (0x25 * 2 ^ 25 + pd.val * 2 ^ 20 + pa.val * 2 ^ 15 + pb.val * 2 ^ 10 + tt.toNat * 2 ^ 6)
  | .sel d a b p => some (0x26 * 2 ^ 25 + d.val * 2 ^ 20 + a.val * 2 ^ 15 + b.val * 2 ^ 10 + p.val * 2 ^ 7)
  | .ld d base sz off => some (0x28 * 2 ^ 25 + d.val * 2 ^ 20 + base.val * 2 ^ 15 + sz.code * 2 ^ 12 + off.toNat)
  | .st d base sz off => some (0x29 * 2 ^ 25 + d.val * 2 ^ 20 + base.val * 2 ^ 15 + sz.code * 2 ^ 12 + off.toNat)
  | .ld2 d base off => some (0x2A * 2 ^ 25 + d.val * 2 ^ 20 + base.val * 2 ^ 15 + off.toNat)
  | .st2 d base off => some (0x2B * 2 ^ 25 + d.val * 2 ^ 20 + base.val * 2 ^ 15 + off.toNat)
  | .movxV d r e => some (0x30 * 2 ^ 25 + d.val * 2 ^ 20 + r.val * 2 ^ 12 + e.val)
  | .movxK d r => some (0x30 * 2 ^ 25 + d.val * 2 ^ 20 + 2 ^ 17 + r.val * 2 ^ 12)
  | .csrr d c => some (0x31 * 2 ^ 25 + d.val * 2 ^ 20 + c.toNat)
  | .csrw a c => some (0x32 * 2 ^ 25 + a.val * 2 ^ 15 + c.toNat)
  | .fence s => some (0x33 * 2 ^ 25 + s.code)
  | .fenceQ => some (0x33 * 2 ^ 25 + 8)
  | .rand d => some (0x34 * 2 ^ 25 + d.val * 2 ^ 20)
  | .vnop => some 0
  | .vadd o => some (encTwo 1 o)
  | .vsub o => some (encTwo 2 o)
  | .vadds o => some (encTwo 3 o)
  | .vsubs o => some (encTwo 4 o)
  | .vneg o => some (encOne 5 o)
  | .vabs o => some (encOne 6 o)
  | .vmin o => some (encTwo 7 o)
  | .vmax o => some (encTwo 8 o)
  | .vmul o => some (encTwo 9 o)
  | .vmulh o => some (encTwo 10 o)
  | .vmulw o => some (encTwo 11 o)
  | .vmac o => some (encTwo 12 o)
  | .vmacw o => some (encTwo 13 o)
  | .vand o => some (encTwo 14 o)
  | .vor o => some (encTwo 15 o)
  | .vxor o => some (encTwo 16 o)
  | .vshl o => some (encTwo 17 o)
  | .vshr o => some (encTwo 18 o)
  | .vshra o => some (encTwo 19 o)
  | .vshrrRne o => some (encTwo 20 o)
  | .vshrrRtz o => some (encTwo 21 o)
  | .vshrrRsto o => some (encTwo 22 o)
  | .vshrsRne o => some (encImm 23 o)
  | .vshrsRtz o => some (encImm 24 o)
  | .vshrsRsto o => some (encImm 25 o)
  | .vnarrowRne o => some (encImm 26 o)
  | .vnarrowRtz o => some (encImm 27 o)
  | .vnarrowRsto o => some (encImm 28 o)
  | .vwiden o => some (encOne 29 o)
  | .vcmp o =>
    some (encV 30 false o.w o.t.code (o.cond.code * 8 + o.md.val) o.a.val o.b.val o.m.val o.str.code)
  | .vsel o => some (encTwo 31 o)
  | .vmlog o => some (encV 32 false o.w 0 (o.lop.code * 8 + o.md.val) o.ma.val o.mb.val 0 0)
  | .vmpop o => some (encV 33 o.z o.w o.t.code o.d.val o.c.val 0 o.m.val 0)
  | .vbcast o => some (encImm 34 o)
  | .vperm o => some (encTwo 35 o)
  | .vslide o => some (encImm 36 o)
  | .vredadd o => some (encOne 37 o)
  | .vredmax o => some (encOne 38 o)
  | .vredmin o => some (encOne 39 o)
  | .vscan o => some (encV 40 o.z o.w o.t.code o.d.val o.a.val (o.seg.toNat * 16 + o.head.val) o.m.val o.str.code)
  | .vclz o => some (encOne 41 o)
  | .vcensus o => some (encOne 42 o)
  | .vexp2 o => some (encOne 43 o)
  | .vlog2 o => some (encOne 44 o)
  | .vrsqrt o => some (encOne 45 o)
  | .vrecip o => some (encOne 46 o)
  | .vld o => some (encLdf 48 o)
  | .vst o => some (encStf 49 o)
  | .vlds o => some (encLdf 50 o)
  | .vsts o => some (encStf 51 o)
  | .vgather o => some (encOne 52 o)
  | .vscatter o => some (encStf 53 o)
  | .vpack4 o => some (encTwo 54 o)
  | .vunpack4 o => some (encImm 55 o)
  | .vbsenc o => some (encImm 56 o)
  | .vbsdec o => some (encImm 57 o)
  | .vsgnmap o => some (encOne 58 o)
  | .vsgnapply o => some (encImm 59 o)
  | .vmovx o => some (encV 60 false o.w o.t.code o.d.val o.sa.val o.k.val 0 0)
  | .vrfgate k => some (61 * 2 ^ 26 + k.toNat * 2 ^ 10)
  | .mnop => some 0
  | .mlease nM1 => some (encM 0x01 0 nM1.val)
  | .mfree => some (encM 0x02 0 0)
  | .mspec os v => some (encM 0x03 os.val (v.val * 2 ^ 17))
  | .mspecf os f imm => some (encM 0x04 os.val (f.val * 2 ^ 18 + imm.toNat))
  | .mzero acc => some (encM 0x05 0 acc.val)
  | .mlda os buf it => some (encM 0x06 os.val (buf.toNat * 2 ^ 21 + encIt it))
  | .mldb os buf it => some (encM 0x07 os.val (buf.toNat * 2 ^ 21 + encIt it))
  | .mmac b a acc => some (encM 0x08 0 (b.toNat * 8 + a.toNat * 4 + acc.val))
  | .mmacq b a => some (encM 0x09 0 (b.toNat * 8 + a.toNat * 4))
  | .mrdacc os d s => some (encM 0x0A 0 (os.val * 16 + d.val * 4 + s.val))
  | .mshrd os r sh acc => some (encM 0x0B os.val (r.code * 2 ^ 8 + sh.val * 4 + acc.val))
  | .mstacc os acc => some (encM 0x0C os.val acc.val)
  | .mldacc os acc => some (encM 0x0D os.val acc.val)
  | .mrprog os pipe => some (encM 0x0E os.val pipe.toNat)
  | .mwait st b a => some (encM 0x0F 0 (st.toNat * 4 + b.toNat * 2 + a.toNat))
  | .mtcinv => some (encM 0x10 0 0)
  | .mstat os => some (encM 0x11 os.val 0)
  | .mfill t pat buf pipe => some (encM 0x12 0 (t.code * 16 + pat.code * 4 + buf.toNat * 2 + pipe.toNat))
  | .mscale r sh acc => some (encM 0x13 0 (r.code * 2 ^ 8 + sh.toNat * 4 + acc.val))
  | .cnop => some 0
  | .cdesc a la q => some (encC 0x01 a.val 0 0 0 (la.toNat * 8 + q.val))
  | .ccopy a b c d cl sl dl => some (encC 0x02 a.val b.val c.val d.val (cl.toNat * 4 + sl.toNat * 2 + dl.toNat))
  | .ccopya d cl q => some (encC 0x03 0 0 0 d.val (cl.toNat * 8 + q.val))
  | .cbind d cl w wr q => some (encC 0x04 0 0 0 d.val (cl.toNat * 64 + w.code * 16 + wr.toNat * 8 + q.val))
  | .cunbind q => some (encC 0x05 0 0 0 0 q.val)
  | .ceos q => some (encC 0x06 0 0 0 0 q.val)
  | .cidx a q => some (encC 0x07 a.val 0 0 0 q.val)
  | .cgather a b d cl tl q => some (encC 0x08 a.val b.val 0 d.val (cl.toNat * 16 + tl.toNat * 8 + q.val))
  | .cscatter a b d cl tl q => some (encC 0x09 a.val b.val 0 d.val (cl.toNat * 16 + tl.toNat * 8 + q.val))
  | .ccnt a d ol => some (encC 0x0A a.val 0 0 d.val ol.toNat)
  | .cwait a b ol => some (encC 0x0B a.val b.val 0 0 ol.toNat)
  | .csig a b c ol => some (encC 0x0C a.val b.val c.val 0 ol.toNat)
  | .publ a d cl => some (encC 0x0D a.val 0 0 d.val (cl.toNat * 4))
  | .coffl a b c d t f cl sl =>
    some (encC 0x0E a.val b.val c.val d.val (t.code * 32 + f.code * 8 + cl.toNat * 4 + sl.toNat * 2))
  | .crest a b c d t f cl dl =>
    some (encC 0x0F a.val b.val c.val d.val (t.code * 32 + f.code * 8 + cl.toNat * 4 + dl.toNat))
  | .fld a b r vec sz => some (encC 0x10 a.val b.val 0 0 (r.val * 16 + vec.toNat * 8 + sz.code))
  | .fst a b r vec sz => some (encC 0x11 a.val b.val 0 0 (r.val * 16 + vec.toNat * 8 + sz.code))
  | .fatom a b c d w64 op => some (encC 0x12 a.val b.val c.val d.val (w64.toNat * 16 + op.val))
  | .fcas a b c d w64 => some (encC 0x13 a.val b.val c.val d.val (w64.toNat * 16))
  | .fdrain => some (encC 0x14 0 0 0 0 0)
  | .fwait a d => some (encC 0x15 a.val 0 0 d.val 0)
  | .fmsg a b c sl lenM1 => some (encC 0x16 a.val b.val c.val 0 (sl.toNat * 32 + lenM1.val))
  | .frts a => some (encC 0x17 a.val 0 0 0 0)
  | .fcancel a => some (encC 0x18 a.val 0 0 0 0)
  | .fsig a b c => some (encC 0x19 a.val b.val c.val 0 0)
  | .epopen a b d => some (encC 0x20 a.val b.val 0 d.val 0)
  | .epstep a b c d s => some (encC 0x21 a.val b.val c.val d.val (s.val * 32))
  | .epclose a b s => some (encC 0x22 a.val b.val 0 0 (s.val * 32))
  | .rwpost a b c s => some (encC 0x23 a.val b.val c.val 0 (s.val * 32))
  | .lqpop a d p q => some (encC 0x24 a.val 0 0 d.val (p.val * 16 + q.val))
  | .lqack a b s q => some (encC 0x25 a.val b.val 0 0 (s.val * 32 + q.val))
  | .keyop a b => some (encC 0x30 a.val b.val 0 0 0)
  | .tlbinv a b => some (encC 0x31 a.val b.val 0 0 0)
  | .cstat a d ol => some (encC 0x32 a.val 0 0 d.val ol.toNat)
  | _ => none

/-- The slot whose map holds an operation (R263); none for a device step. -/
def slotKind : Instr → Option SlotKind
  | .bnop | .br .. | .jmp .. | .call .. | .calli .. | .ret | .setbt .. | .loopn .. | .loops .. | .loopb .. | .yrun ..
  | .tend | .trap .. | .rft | .semw .. | .barw .. => some .b
  | .snop | .add .. | .sub .. | .mul .. | .mulh .. | .mulhn .. | .div .. | .divn .. | .rem .. | .remn .. | .and ..
  | .or .. | .xor .. | .shl .. | .shr .. | .shra .. | .min .. | .max .. | .minn .. | .maxn .. | .clz .. | .ctz ..
  | .popc .. | .addi .. | .andi .. | .ori .. | .xori .. | .shlImm .. | .shrImm .. | .shraImm .. | .lil .. | .lih ..
  | .ext .. | .pcmp .. | .plog .. | .sel .. | .ld .. | .st .. | .ld2 .. | .st2 .. | .movxV .. | .movxK .. | .csrr ..
  | .csrw .. | .fence .. | .fenceQ | .rand .. => some .s
  | .vnop | .vadd .. | .vsub .. | .vadds .. | .vsubs .. | .vneg .. | .vabs .. | .vmin .. | .vmax .. | .vmul ..
  | .vmulh .. | .vmulw .. | .vmac .. | .vmacw .. | .vand .. | .vor .. | .vxor .. | .vshl .. | .vshr .. | .vshra ..
  | .vshrrRne .. | .vshrrRtz .. | .vshrrRsto .. | .vshrsRne .. | .vshrsRtz .. | .vshrsRsto .. | .vnarrowRne ..
  | .vnarrowRtz .. | .vnarrowRsto .. | .vwiden .. | .vcmp .. | .vsel .. | .vmlog .. | .vmpop .. | .vbcast ..
  | .vperm .. | .vslide .. | .vredadd .. | .vredmax .. | .vredmin .. | .vscan .. | .vclz .. | .vcensus .. | .vexp2 ..
  | .vlog2 .. | .vrsqrt .. | .vrecip .. | .vld .. | .vst .. | .vlds .. | .vsts .. | .vgather .. | .vscatter ..
  | .vpack4 .. | .vunpack4 .. | .vbsenc .. | .vbsdec .. | .vsgnmap .. | .vsgnapply .. | .vmovx .. | .vrfgate .. =>
    some .v
  | .mnop | .mlease .. | .mfree | .mspec .. | .mspecf .. | .mzero .. | .mlda .. | .mldb .. | .mmac .. | .mmacq ..
  | .mrdacc .. | .mshrd .. | .mstacc .. | .mldacc .. | .mrprog .. | .mwait .. | .mtcinv | .mstat .. | .mfill ..
  | .mscale .. => some .m
  | .cnop | .cdesc .. | .ccopy .. | .ccopya .. | .cbind .. | .cunbind .. | .ceos .. | .cidx .. | .cgather ..
  | .cscatter .. | .ccnt .. | .cwait .. | .csig .. | .publ .. | .coffl .. | .crest .. | .fld .. | .fst .. | .fatom ..
  | .fcas .. | .fdrain | .fwait .. | .fmsg .. | .frts .. | .fcancel .. | .fsig .. | .epopen .. | .epstep ..
  | .epclose .. | .rwpost .. | .lqpop .. | .lqack .. | .keyop .. | .tlbinv .. | .cstat .. => some .c
  | _ => none

/-- The first slot map, in the order given, that reads the word as an instruction. -/
def firstDecode (w : Nat) : List SlotKind → Option (SlotKind × Instr)
  | [] => none
  | k :: ks =>
    match decodeSlot k w with
    | .ok i => some (k, i)
    | .error _ => firstDecode w ks

/-- Which slot a table word is read in. One 32-bit word is an operation in several slots (R263); the table names no
slot, so the maps are tried in the order M, S, C, V, B. DESIGN CHOICE, log 4. -/
def decodeAnySlot (w : Nat) : Option (SlotKind × Instr) := firstDecode w [.m, .s, .c, .v, .b]

/-- What the decoder reads from an opcode-table word: a slot word is 32 bits, read in the first slot of
`decodeAnySlot` that accepts it. -/
def decodeTableWord (nbits w : Nat) : Option Instr :=
  if nbits ≤ 32 then (decodeAnySlot w).map Prod.snd else none

end Sys2Proof
end

