-- ==== Sys2Proof/Machine/Crypto.lean ====
section
/-! DEFINITION. The published functions the spec names: SHAKE256 of FIPS 202, AES-256 in XTS (IEEE 1619, R15) and GCM
(SP 800-38D, R100), X448 of RFC 7748 and Ed448 of RFC 8032 (R23, R100, R102); and the keys derived with them (R23, R99, R100).
The functions are taken from those standards (PRESUMED, log 8). -/

namespace Sys2Proof.Machine

/-- Bytes of a number, little-endian (R5). -/
def leBytes (v : Nat) : Nat → List Byte
  | 0 => []
  | n + 1 => BitVec.ofNat 8 v :: leBytes (v / 256) n
/-- Bytes of a number, big-endian, and the number of such bytes. -/
def beBytes (v n : Nat) : List Byte := (leBytes v n).reverse
def beNat (l : List Byte) : Nat := leNat l.reverse

/-- A list of bytes brought to a length. -/
def fitBytes (l : List Byte) (n : Nat) : List Byte := (l ++ List.replicate n 0).take n
/-- The bytes of an ASCII string. -/
def ascii (t : String) : List Byte := t.toList.map fun c => BitVec.ofNat 8 c.toNat

/-! ### SHAKE256 -/

abbrev Lanes := Vector (BitVec 64) 25

def keccakRot : List Nat :=
  [0, 1, 62, 28, 27, 36, 44, 6, 55, 20, 3, 10, 43, 25, 39, 41, 45, 15, 21, 8, 18, 2, 61, 56, 14]
def keccakRc : List (BitVec 64) :=
  [0x1, 0x8082, 0x800000000000808A, 0x8000000080008000, 0x808B, 0x80000001, 0x8000000080008081, 0x8000000000008009, 0x8A, 0x88,
   0x80008009, 0x8000000A, 0x8000808B, 0x800000000000008B, 0x8000000000008089, 0x8000000000008003, 0x8000000000008002,
   0x8000000000000080, 0x800A, 0x800000008000000A, 0x8000000080008081, 0x8000000000008080, 0x80000001, 0x8000000080008008]

/-- One round of Keccak-f[1600]; lane (x, y) is number x + 5 y. -/
def keccakRound (a : Lanes) (rc : BitVec 64) : Lanes :=
  let at_ := fun (a : Lanes) i => a.getD (i % 25) 0
  let col := fun x => at_ a x ^^^ at_ a (x + 5) ^^^ at_ a (x + 10) ^^^ at_ a (x + 15) ^^^ at_ a (x + 20)
  let cs : List (BitVec 64) := (List.range 5).map col
  let c := fun x => cs.getD (x % 5) 0
  let a := Vector.ofFn fun (i : Fin 25) => a[i] ^^^ c (i.val + 4) ^^^ (c (i.val + 1)).rotateLeft 1
  let b : Lanes := Vector.ofFn fun (i : Fin 25) =>
    let src := (i.val + 3 * (i.val / 5)) % 5 + 5 * (i.val % 5)
    (at_ a src).rotateLeft (keccakRot.getD src 0)
  let d : Lanes := Vector.ofFn fun (i : Fin 25) =>
    let row := i.val / 5 * 5
    b[i] ^^^ (~~~ at_ b (row + (i.val + 1 - row) % 5) &&& at_ b (row + (i.val + 2 - row) % 5))
  d.set 0 (d[0] ^^^ rc)

def keccak (a : Lanes) : Lanes := keccakRc.foldl keccakRound a

/-- The first 136 bytes of a Keccak state. -/
def lanesOut (a : Lanes) : List Byte := (a.toList.take 17).flatMap fun w => leBytes w.toNat 8

/-- Squeeze n blocks. -/
def squeeze (a : Lanes) : Nat → List Byte
  | 0 => []
  | n + 1 => lanesOut a ++ squeeze (keccak a) n

/-- SHAKE256 of a byte string, taken to n bytes. -/
def shake256 (data : List Byte) (n : Nat) : List Byte :=
  let k := data.length / 136 + 1
  let m := data ++ 0x1F :: List.replicate (136 * k - data.length - 1) 0
  let m := m.take (136 * k - 1) ++ [((m[136 * k - 1]?).getD 0) ||| 0x80]
  let a := (List.range k).foldl (fun (a : Lanes) i =>
    let block := (m.drop (136 * i)).take 136
    keccak (Vector.ofFn fun (j : Fin 25) =>
      if j.val < 17 then a[j] ^^^ BitVec.ofNat 64 (leNat ((block.drop (8 * j.val)).take 8)) else a[j])) (Vector.replicate 25 0)
  (squeeze a (n / 136 + 1)).take n

/-! ### AES-256 -/

/-- Product in GF(2^8) modulo x^8 + x^4 + x^3 + x + 1. -/
def gmul (a b : Nat) : Nat :=
  ((List.range 8).foldl (fun (x : Nat × Nat) i =>
    (if bit1 b i then x.1 ^^^ x.2 else x.1, if x.2 < 128 then 2 * x.2 else (2 * x.2) ^^^ 0x11B)) (0, a)).1

/-- The S-box: the inverse in GF(2^8), then the affine map. -/
def sboxOf (a : Nat) : Nat :=
  let inv := (List.range 253).foldl (fun r _ => gmul r a) a
  let rot := fun n => (inv * 2 ^ n) % 256 + inv / 2 ^ (8 - n)
  inv ^^^ rot 1 ^^^ rot 2 ^^^ rot 3 ^^^ rot 4 ^^^ 0x63
def sboxTable : Array Nat := ((List.range 256).map sboxOf).toArray
def sboxInverse : Array Nat :=
  (List.range 256).foldl (fun (t : Array Nat) i => t.set! (sboxTable.getD i 0) i) (List.replicate 256 0).toArray
def sbox (x : Nat) : Nat := sboxTable.getD x 0
def invSbox (x : Nat) : Nat := sboxInverse.getD x 0

/-- The expanded key: 60 words of 4 bytes, oldest first, from 8 key words. -/
def expandKey (key : List Nat) : List Nat :=
  let words := (List.range 8).map fun i => (key.drop (4 * i)).take 4
  let xor4 := fun (a b : List Nat) => List.zipWith (· ^^^ ·) a b
  let rcon := [1, 2, 4, 8, 16, 32, 64]
  let out := (List.range 52).foldl (fun (w : List (List Nat)) j =>
    -- w holds the words so far, newest first
    let i := j + 8
    let t := w.headD []
    let t := if i % 8 = 0 then
        match (t.drop 1 ++ t.take 1).map sbox with
        | b :: bs => (b ^^^ rcon.getD (i / 8 - 1) 0) :: bs
        | [] => []
      else if i % 8 = 4 then t.map sbox else t
    xor4 (w.getD 7 []) t :: w) words.reverse
  out.reverse.flatten

/-- Round key r of an expanded key. -/
def roundKey (w : List Nat) (r : Nat) : List Nat := (w.drop (16 * r)).take 16

/-- MixColumns or its inverse, by the first column of its matrix. -/
def mixWith (m : List Nat) (b : List Nat) : List Nat :=
  (List.range 16).map fun i =>
    let col := (b.drop (i / 4 * 4)).take 4
    (List.range 4).foldl (fun x k => x ^^^ gmul (m.getD ((k + 4 - i % 4) % 4) 0) (col.getD k 0)) 0

/-- AES-256 of one block of 16 bytes under an expanded key. -/
def aesEnc (w : List Nat) (b : List Nat) : List Nat :=
  let xor := fun (a b : List Nat) => List.zipWith (· ^^^ ·) a b
  let sub := fun (b : List Nat) => (List.range 16).map fun i => sbox (b.getD ((i + 4 * (i % 4)) % 16) 0)
  let b := (List.range 13).foldl (fun b r => xor (mixWith [2, 3, 1, 1] (sub b)) (roundKey w (r + 1))) (xor b (roundKey w 0))
  xor (sub b) (roundKey w 14)
/-- Its inverse. -/
def aesDec (w : List Nat) (b : List Nat) : List Nat :=
  let xor := fun (a b : List Nat) => List.zipWith (· ^^^ ·) a b
  let sub := fun (b : List Nat) => (List.range 16).map fun i => invSbox (b.getD ((i + 16 - 4 * (i % 4)) % 16) 0)
  let b := (List.range 13).foldl (fun b r => mixWith [14, 11, 13, 9] (xor (sub b) (roundKey w (13 - r)))) (xor b (roundKey w 14))
  xor (sub b) (roundKey w 0)

/-- Blocks as numbers, little-endian. -/
def blockBytes (x : Nat) : List Nat := (leBytes x 16).map BitVec.toNat
def blockNat (b : List Nat) : Nat := leNat (b.map (BitVec.ofNat 8))

/-! ### AES-256-XTS over one line (R15) -/

/-- The tweaks of the four blocks of a line: its physical address under the second key, doubled block by block. -/
def xtsTweaks (key line : Nat) : List Nat :=
  let t0 := blockNat (aesEnc (expandKey ((leBytes (bits key 256 256) 32).map BitVec.toNat)) (blockBytes (64 * line)))
  let next := fun t => (2 * t) % 2 ^ 128 ^^^ (if bit1 t 127 then 0x87 else 0)
  [t0, next t0, next (next t0), next (next (next t0))]
def xtsWith (f : List Nat → List Nat → List Nat) (key line x : Nat) : Nat :=
  let w := expandKey ((leBytes (bits key 0 256) 32).map BitVec.toNat)
  ((List.zipIdx (xtsTweaks key line)).map fun t =>
    (blockNat (f w (blockBytes (bits x (128 * t.2) 128 ^^^ t.1))) ^^^ t.1) * 2 ^ (128 * t.2)).sum
/-- A line of 64 bytes encrypted and decrypted under a key slot's 64-byte key (R15, R432). -/
def xtsEnc (key line x : Nat) : Nat := xtsWith aesEnc key line x
def xtsDec (key line x : Nat) : Nat := xtsWith aesDec key line x

/-! ### AES-256-GCM (R100) -/

/-- Product in GF(2^128) as GCM orders its bits, on big-endian numbers. -/
def ghashMul (x y : Nat) : Nat :=
  ((List.range 128).foldl (fun (z : Nat × Nat) i =>
    (if bit1 x (127 - i) then z.1 ^^^ z.2 else z.1,
     if bit1 z.2 0 then z.2 / 2 ^^^ 0xE1 * 2 ^ 120 else z.2 / 2)) (0, y)).1

/-- A big-endian block of a byte string. -/
def gcmBlocks (l : List Byte) : List Nat :=
  (List.range ((l.length + 15) / 16)).map fun i => beNat (fitBytes ((l.drop (16 * i)).take 16) 16)

def gcmEnc (w : List Nat) (x : Nat) : Nat := beNat ((aesEnc w ((beBytes x 16).map BitVec.toNat)).map (BitVec.ofNat 8))

/-- The key stream of a 12-byte IV, and the tag of additional data and ciphertext. -/
def gcmStream (key iv : List Byte) (n : Nat) : List Byte :=
  let w := expandKey (key.map BitVec.toNat)
  ((List.range ((n + 15) / 16)).flatMap fun i => beBytes (gcmEnc w (beNat (fitBytes iv 12) * 2 ^ 32 + i + 2)) 16).take n
def gcmTag (key iv aad ct : List Byte) : List Byte :=
  let w := expandKey (key.map BitVec.toNat)
  let h := gcmEnc w 0
  let g := (gcmBlocks aad ++ gcmBlocks ct ++ [8 * aad.length * 2 ^ 64 + 8 * ct.length]).foldl (fun y x => ghashMul (y ^^^ x) h) 0
  beBytes (g ^^^ gcmEnc w (beNat (fitBytes iv 12) * 2 ^ 32 + 1)) 16
def xorBytes (a b : List Byte) : List Byte := List.zipWith (· ^^^ ·) a b

/-- Authenticated encryption: ciphertext and tag. -/
def gcmSeal (key iv aad text : List Byte) : List Byte × List Byte :=
  let ct := xorBytes text (gcmStream key iv text.length)
  (ct, gcmTag key iv aad ct)
/-- Authenticated decryption; none where the tag does not verify. -/
def gcmOpen (key iv aad ct tag : List Byte) : Option (List Byte) :=
  if gcmTag key iv aad ct = tag then some (xorBytes ct (gcmStream key iv ct.length)) else none

/-! ### X448 -/

def p448 : Nat := 2 ^ 448 - 2 ^ 224 - 1
def fsub (a b : Nat) : Nat := (a + p448 - b % p448) % p448
/-- Power modulo m by the bits of an exponent below 2^456. -/
def powMod (m b e : Nat) : Nat :=
  (List.range 456).foldl (fun r i => if bit1 e (455 - i) then r * r % m * b % m else r * r % m) 1
def finv (a : Nat) : Nat := powMod p448 a (p448 - 2)

/-- One step of the Montgomery ladder on (x2, z2, x3, z3). -/
def ladderStep (u : Nat) (s : Nat × Nat × Nat × Nat) : Nat × Nat × Nat × Nat :=
  let (x2, z2, x3, z3) := s
  let a := (x2 + z2) % p448
  let aa := a * a % p448
  let b := fsub x2 z2
  let bb := b * b % p448
  let e := fsub aa bb
  let da := fsub x3 z3 * a % p448
  let cb := (x3 + z3) * b % p448
  let m := (da + cb) % p448
  let n := fsub da cb
  (aa * bb % p448, e * ((aa + 39081 * e) % p448) % p448, m * m % p448, u * (n * n % p448) % p448)

/-- X448: a scalar of 56 bytes, clamped, times a u-coordinate of 56 bytes. -/
def x448 (k u : List Byte) : List Byte :=
  let k := leNat (fitBytes k 56)
  let k := k % 2 ^ 447 / 4 * 4 + 2 ^ 447
  let u := leNat (fitBytes u 56) % p448
  let swap := fun (b : Bool) (s : Nat × Nat × Nat × Nat) =>
    let (x2, z2, x3, z3) := s
    if b then (x3, z3, x2, z2) else s
  let (x2, z2, _, _) := (List.range 448).foldl (fun s i =>
    let b := bit1 k (447 - i)
    swap b (ladderStep u (swap b s))) (1, 0, u, 1)
  leBytes (x2 * finv z2 % p448) 56
/-- The u-coordinate of the base point. -/
def x448Base : List Byte := leBytes 5 56

/-! ### Ed448 -/

/-- The order of the base point, and the curve's constant d = −39081. -/
def edL : Nat := 2 ^ 446 - 13818066809895115352007386748515426880336692474882178609894547503885
def edD : Nat := p448 - 39081
/-- A point in projective coordinates. -/
abbrev EdPoint := Nat × Nat × Nat
def edBase : EdPoint :=
  (224580040295924300187604334099896036246789641632564134246125461686950415467406032909029192869357953282578032075146446173674602635247710,
   298819210078481492676017930443930673437544040154080242095928241372331506189835876003536878655418784733982303233503462500531545062832660, 1)
def edAdd (a b : EdPoint) : EdPoint :=
  let (x1, y1, z1) := a
  let (x2, y2, z2) := b
  let aa := z1 * z2 % p448
  let bb := aa * aa % p448
  let c := x1 * x2 % p448
  let d := y1 * y2 % p448
  let e := edD * (c * d % p448) % p448
  let f := fsub bb e
  let g := (bb + e) % p448
  let h := (x1 + y1) * (x2 + y2) % p448
  (aa * f % p448 * fsub (fsub h c) d % p448, aa * g % p448 * fsub d c % p448, f * g % p448)
def edMul (n : Nat) (a : EdPoint) : EdPoint :=
  (List.range 456).foldl (fun r i =>
    let r := edAdd r r
    if bit1 n (455 - i) then edAdd r a else r) (0, 1, 1)
def edEncode (a : EdPoint) : List Byte :=
  let zi := finv a.2.2
  leBytes (a.2.1 * zi % p448 + a.1 * zi % p448 % 2 * 2 ^ 455) 57
def edDecode (l : List Byte) : Option EdPoint :=
  let n := leNat l
  let y := n % 2 ^ 455
  let sign := n / 2 ^ 455
  if l.length ≠ 57 ∨ p448 ≤ y then none
  else
    let u := fsub (y * y % p448) 1
    let v := fsub (edD * (y * y % p448) % p448) 1
    let u2 := u * u % p448
    let v2 := v * v % p448
    let x := u2 * u % p448 * v % p448 * powMod p448 (u2 * u2 % p448 * u % p448 * (v2 * v % p448) % p448) ((p448 - 3) / 4) % p448
    if v * (x * x % p448) % p448 ≠ u then none
    else if x = 0 ∧ sign = 1 then none
    else some (if x % 2 = sign then x else fsub 0 x, y, 1)
def edEq (a b : EdPoint) : Bool :=
  a.1 * b.2.2 % p448 == b.1 * a.2.2 % p448 && a.2.1 * b.2.2 % p448 == b.2.1 * a.2.2 % p448
/-- The prefix of the pure form with an empty context. -/
def edDom : List Byte := ascii "SigEd448" ++ [0, 0]
/-- The secret scalar of a seed. -/
def edScalar (seed : List Byte) : Nat :=
  let h := leNat ((shake256 seed 114).take 56)
  h % 2 ^ 447 / 4 * 4 + 2 ^ 447
def ed448Public (seed : List Byte) : List Byte := edEncode (edMul (edScalar seed) edBase)
def ed448Sign (seed msg : List Byte) : List Byte :=
  let pub := ed448Public seed
  let r := leNat (shake256 (edDom ++ (shake256 seed 114).drop 57 ++ msg) 114) % edL
  let rr := edEncode (edMul r edBase)
  let k := leNat (shake256 (edDom ++ rr ++ pub ++ msg) 114) % edL
  rr ++ leBytes ((r + k * edScalar seed) % edL) 57
def ed448Verify (pub msg sig : List Byte) : Bool :=
  let s := leNat (sig.drop 57)
  match edDecode pub, edDecode (sig.take 57) with
  | some a, some r =>
    let k := leNat (shake256 (edDom ++ sig.take 57 ++ pub ++ msg) 114) % edL
    sig.length == 114 && s < edL && edEq (edMul 4 (edMul s edBase)) (edMul 4 (edAdd r (edMul k a)))
  | _, _ => false

/-! ### Keys of this device (R23, R99, R100) -/

/-- The identity key's seed and the device wrapping key (R23). -/
def identitySeed : List Byte := shake256 (Config.pufSeed ++ ascii "syeraold identity") 57
def wrappingKey : List Byte := shake256 (Config.pufSeed ++ ascii "syeraold wrap") 32
/-- The 64-byte keys of slots 0 and 1 (R99). -/
def slot0Key : List Byte := shake256 (wrappingKey ++ ascii "syeraold slot0") 64
def slot1Key : List Byte := shake256 (wrappingKey ++ ascii "syeraold host") 64
/-- The device's X448 private key and AGREE_PUB (R100). -/
def agreeKey : List Byte := shake256 (wrappingKey ++ ascii "syeraold agree") 56
def agreePub : List Byte := x448 agreeKey x448Base

/-- A blob from a key, an IV and a domain (R100). -/
def blobOf (key iv : List Byte) (dom : Nat) : List Byte :=
  let aad := [BitVec.ofNat 8 dom, 0, 0, 0]
  let (ct, tag) := gcmSeal wrappingKey (fitBytes iv 12) aad (fitBytes key 64)
  fitBytes iv 12 ++ aad ++ ct ++ tag
/-- The key in a blob of 96 bytes; none where authentication fails (R100, R101). -/
def openBlob (blob : List Byte) : Option (List Byte) :=
  gcmOpen wrappingKey (blob.take 12) ((blob.drop 12).take 4) ((blob.drop 16).take 64) ((blob.drop 80).take 16)
/-- The key in an envelope of 152 bytes; none where the shared secret is zero or the tag does not verify (R100). -/
def openEnvelope (env : List Byte) : Option (List Byte) :=
  let host := env.take 56
  let secret := x448 agreeKey host
  if secret.all (· == 0) then none
  else
    let key := shake256 (secret ++ agreePub ++ host ++ ascii "syeraold import") 32
    gcmOpen key ((env.drop 56).take 12) ((env.drop 68).take 4) ((env.drop 72).take 64) ((env.drop 136).take 16)

/-- Whether a firmware image verifies: its key has the digest in the boot ROM, and its Ed448 signature holds (R25). -/
def firmwareOk (img : List Byte) : Bool :=
  let key := Config.imageKey img
  shake256 key Config.romDigest.length == Config.romDigest && ed448Verify key (Config.imageSigned img) (Config.imageSignature img)
/-- Whether a configuration record's signature, its last 114 bytes, verifies over bytes 0 to 3,981 under one of up to four
configuration keys of the firmware image (R28). -/
def recordOk (img rec : List Byte) : Bool :=
  ((Config.imageConfigKeys img).take 4).any fun k => ed448Verify k (rec.take 3982) (rec.drop 3982)

end Sys2Proof.Machine
end

