-- ==== Sys2Proof/Machine/State.lean ====
section
/-! DEFINITION. The state of the package and of everything the spec gives it, as plain data; why a step can stop; and
the machine right after module reset. -/

namespace Sys2Proof.Machine

/-- Why the machine stops with a fault. -/
inductive Fault where
  /-- Raised by no meaning: the spec names no event of the device that leaves no state behind. Kept so that the type is
  inhabited; safe. -/
  | impossible
  deriving DecidableEq, Repr

/-- Why an instruction has no next state. -/
inductive Refusal where
  /-- An arm of `exec` that has no meaning yet; safe. -/
  | notModelled (mnemonic : String)
  deriving DecidableEq, Repr

/-! ### Sparse stores -/

/-- A memory: (address, byte) pairs in canonical form, addresses strictly rising, no entry equal to the unlisted
value. -/
abbrev Memory := List Host.Cell

/-- A map from numbers to numbers, in the same canonical form with unlisted value 0: device registers and counters. -/
abbrev NatMap := List (Nat × Nat)

/-- The key a tier line was last written under (R15, R24, R432): none after initialisation, the reeve's slot 0, the
host's slot 1, or the material a slot held. The device keeps no such record (R432): with the bytes of the line it stands
for the stored bits, which are its encryption (log 7). -/
inductive KeyTag where
  | init
  | reeve
  | host
  | mat (m : BitVec 512)
  deriving DecidableEq, Repr

/-- State of a key slot (R99, R101). -/
inductive KeyState where
  | empty | loaded | destroying
  deriving DecidableEq, Repr

/-- A key slot that is not empty: its number, its key, its residency domain and its state (R99 to R101). -/
structure KeySlot where
  slot : Nat
  key : KeyTag
  domain : Nat
  st : KeyState
  deriving DecidableEq, Repr

/-! ### A context -/

/-- An operand address after R380: virtual, local or in the boezem. -/
inductive Place where
  | virt | loc | boez
  deriving DecidableEq, Repr

structure Addr where
  place : Place
  a : Nat
  deriving DecidableEq, Repr

/-- An accumulator tile (R187, R229, R230): elements of row r at `r`, the step count and the two marks. -/
structure Tile where
  el : Vector (Vector (BitVec 32) 64) 64
  steps : Word
  sat : Bool
  poison : Bool
  deriving DecidableEq, Repr

/-- An iterator register (R295); VALUE is computed from the other fields. -/
structure Iter where
  value : Word
  index : BitVec 16
  cm1 : BitVec 16
  stride : BitVec 30
  live : Bool
  dir : Bool
  deriving DecidableEq, Repr

/-- A write that has not landed (R189): the destination and the value it takes. `mem` and `stat` are the writes of MRDACC
and MSTAT to private SRAM (R374, R375); `stat` holds the tile fields. -/
inductive Dest where
  | s (n : Nat) (v : Word) (poison : Bool)
  | v (n : Nat) (v : VWord) (poison : Bool)
  | p (n : Nat) (b : Bool)
  | m (n : Nat) (v : MWord)
  | k (n : Nat) (v : Word)
  | tile (n : Nat) (t : Tile)
  | mem (a : Nat) (bytes : List Byte)
  | stat (a : Nat) (tiles : Nat)
  deriving DecidableEq, Repr

/-- A write in flight: the cycle from which it holds (R189). -/
structure RegWrite where
  due : Nat
  dest : Dest
  deriving DecidableEq, Repr

/-- Flags in flight (R207, R208): when they land, their bundle's PC and issue cycle, the slot and the flags. -/
structure FlagLand where
  due : Nat
  pc : Word
  issued : Nat
  slot : Nat
  flags : BitVec 5
  deriving DecidableEq, Repr

/-- A trap cause with what its entry records (R202, R203): the cause code, the value and progress words, the slot and
the PC of the trap. -/
structure Trap where
  cause : Nat
  val : Word
  prog : Word
  slot : Nat
  pc : Word
  deriving DecidableEq, Repr

/-- What ends a block loop (R297, R298): a remaining pass count, or a stream and its exit predicate. -/
inductive LoopEnd where
  | passes (left : Nat)
  | stream (q : QNo) (p : PNo)
  deriving DecidableEq, Repr

/-- An active block loop: the PC of its LOOPB or LOOPS bundle, the body length, and its end. -/
structure BlockLoop where
  pc : Word
  n : Nat
  fin : LoopEnd
  deriving DecidableEq, Repr

/-- An active LOOPN: the replayed bundle, the first iterator and the number of dimensions (R296). -/
structure NestLoop where
  pc : Word
  first : Nat
  dims : Nat
  deriving DecidableEq, Repr

/-- Kind of a stream binding (R396). -/
inductive BindKind where
  | unbound | read | write | gather | scatter
  deriving DecidableEq, Repr

/-- A stream entry: its data, its poison mark, and for a pushed entry the cycle from which the culvert has it and the
cycle of its push with the racing stores (R246, R252, R325). -/
structure SEntry where
  data : VWord
  poison : Bool
  ready : Nat
  pushed : Nat
  racy : List (Nat × Byte)
  deriving DecidableEq, Repr

/-- What an engine operation waits for before its accesses begin: a FENCE with its scope (R252), or an MWAIT, without
one, with the engines it names: pipe A, pipe B, store path from bit 0 (R376). It covers operations numbered below `lim`,
and stores and pushes issued before cycle `cyc`. -/
structure Wait where
  scope : Option Scope
  sel : BitVec 3
  lim : Nat
  cyc : Nat
  deriving DecidableEq, Repr

/-- A stream binding (R192, R392 to R396). `pat` is the pattern's 64 bytes; for an indexed binding `base` and `rowBytes`
stand in its place. `fetched` counts entries read ahead or pushed, `pos` entries popped or written. `pend` names the CDESC
whose descriptor it waits for (R389), `waits` what its accesses wait for, `racy` the racing stores at the binding, and
`since` the cycle from which stores race (R246, R248), and `pages` the shadow-mapped pages, in units of 4 KiB, an indexed
binding has used (R258). `seen` counts, byte by byte, the racing stores its fills have seen (R244), `last` is the cycle of its last
push or CEOS (R252). `pc` and `issued` are those of its bundle. -/
structure Binding where
  kind : BindKind
  culvert : Bool
  w : VW
  done : Addr
  pat : BitVec 512
  base : Addr
  rowBytes : Nat
  entries : List SEntry
  fetched : Nat
  pos : Nat
  token : Bool
  ended : Bool
  failed : Bool
  failVal : Word
  failProg : Word
  idx : List (BitVec 32)
  idxUsed : Nat
  idxEnd : Bool
  updated : Bool
  census : Nat
  tstat : BitVec 4
  status : BitVec 18
  pend : Option Nat
  waits : List Wait
  racy : List (Nat × Byte)
  since : Nat
  seen : List (Nat × Nat)
  last : Nat
  pages : List Nat
  pc : Word
  issued : Nat
  deriving DecidableEq, Repr

/-- A culvert descriptor register (R389): empty, being read by a CDESC, loaded with its 128 bytes, or failed with status bits. -/
inductive DescReg where
  | empty
  | reading (seq : Nat)
  | loaded (d : BitVec 1024)
  | failed (status : BitVec 18)
  deriving DecidableEq, Repr

/-- What a culvert operation does: the operations that take an entry (R382), the binding updates of R392 and R395, the
descriptor and source reads made as culvert reads (R401, R406), and a fabric packet that may wait for a FENCE or an FDRAIN
before it is sent, `late` for an FLD's (R252, R253); and the read of word n of a completion object that waits for an update of C0
(R276). -/
inductive EngKind where
  | copy (dst src : Addr) (len : Nat)
  | copyA (pend : Option Nat) (desc : Option (BitVec 1024))
  | coffl (dst src : Addr) (n : Nat) (base : Int) (t : Elem) (f : OffFmt)
  | crest (dst src : Addr) (n : Nat) (base : Int) (t : Elem) (f : OffFmt) (sign : Bool)
  | publ (va : Word)
  | csig (addend : Word) (status : Word)
  | cdesc (q : QNo) (a : Addr)
  | closing (b : Binding)
  | update
  | frts (va : Word)
  | fmsg (src : Addr) (len : Nat) (va : Word) (rankWord : Word)
  | pkt (p : Packet) (late : Bool)
  | look (x : Addr) (reg n : Nat)
  deriving DecidableEq, Repr

/-- Where an engine operation stands (R245, R385). -/
inductive EngPhase where
  | waiting      -- for a FENCE, FDRAIN or descriptor (R252, R253, R389)
  | moving
  | updating     -- its writes stand, the descriptor update and the completion update are due
  deriving DecidableEq, Repr

/-- An engine operation. `start` is the first cycle it may act in. `rpos` counts source bytes read, `buf` holds source
bytes not yet converted, `out` output bytes not yet written, `pos` counts output bytes written. `part` holds the bytes of
the census' unfinished element. `drain` numbers the fabric operations an FDRAIN puts before it, `racy` holds the bytes of
stores less than 4 cycles older (R246) with their old values; `pc` and `issued` are those of its bundle. `entry` marks an
operation entry (R382), `mixed` a source and destination that share a byte (R387), `wpois` that a poisoned byte was written
(R226), `ahead` counts the bytes beyond `pos` that a move had written when it faulted (R258), `last` is the cycle of the last push
or CEOS of the write stream whose update this is (R252). -/
structure EngOp where
  seq : Nat
  slot : Bool
  start : Nat
  kind : EngKind
  done : Option Addr
  phase : EngPhase
  rpos : Nat
  buf : List (Byte × Bool)
  out : List (Byte × Bool)
  pos : Nat
  part : List (Byte × Bool)
  status : BitVec 18
  census : Nat
  waits : List Wait
  drain : Nat
  racy : List (Nat × Byte)
  pc : Word
  issued : Nat
  entry : Bool
  mixed : Bool
  wpois : Bool
  ahead : Nat
  last : Nat
  deriving DecidableEq, Repr

/-- A remote operation of a context that is outstanding or whose status is held (R382, R405). `reg` is the k register
that FWAIT releases, with the value to put there; `reply` marks a reply entry, else a write entry, `own` one that accesses memory
of this package (R252). -/
structure Remote where
  seq : Nat
  tag : Nat
  reply : Bool
  sat : Bool
  status : Option Nat
  reg : Option (Nat × Word)
  slot : Nat
  pc : Word
  issued : Nat
  own : Bool
  deriving DecidableEq, Repr

/-- A late-reply entry (R53, R210): the FLD's tag, destination, size, its bound in issued bundles while it is open, and
the status and data once they are there; `own` marks a read of this package's memory (R252). -/
structure Late where
  seq : Nat
  tag : Nat
  vec : Bool
  reg : Nat
  sz : MemSz
  bound : Option Nat
  late : Bool
  status : Option Nat
  data : Word
  own : Bool
  deriving DecidableEq, Repr

/-- An episode or queue operation that has not performed (R407): what it does with its operands, read at issue. -/
inductive EpKind where
  | opn (key par : Word)
  | step (handle val act obs : Word)
  | close (handle word : Word)
  | pop (addr : Nat) (q : Nat)
  | ack (sq gen : Word) (q : Nat)
  deriving DecidableEq, Repr

/-- Such an operation with the cycle of its bundle, its result register, the predicate of LQPOP, its start, the fences before it,
and once it has performed the register's value, the predicate's and the descriptor's bytes. -/
structure EpOp where
  seq : Nat
  issued : Nat
  kind : EpKind
  reg : Nat
  pred : Nat
  start : Option Nat
  waits : List Wait
  res : Option (Word × Bool × List Byte)
  deriving DecidableEq, Repr

/-- A matrix command waiting in tile order (R369 to R373), with the draw of R233 where it has one. A step names its buffers,
their types, and whether their contents are defined to the context (R359, R367). -/
inductive MKind where
  | zero
  | scale (r : Rnd) (sh : Int) (seed ctr : Word)
  | step (a b : Bool) (ta tb : Elem) (okA okB : Bool)
  | shrd (spec : BitVec 256) (r : Rnd) (sh : Nat) (seed ctr : Word)
  | stacc (spec : BitVec 256)
  | ldacc (spec : BitVec 256)
  deriving DecidableEq, Repr

structure MCmd where
  seq : Nat
  issued : Nat
  tile : Nat
  kind : MKind
  waits : List Wait
  racy : List (Nat × Byte)
  pc : Word
  deriving DecidableEq, Repr

/-- The matrix lease of a context (R200). -/
inductive Lease where
  | none | requested | held
  deriving DecidableEq, Repr

/-- One start wait of a task header (R133). -/
structure StartWait where
  valid : Bool
  offset : Nat
  stride : Nat
  target : Word
  deriving DecidableEq, Repr

/-- One gang pipe of a launch record (R131, R151). -/
structure PipeDef where
  valid : Bool
  producer : Nat
  consumer : Nat
  slotSize : Nat
  slots : Nat
  deriving DecidableEq, Repr

/-- What a context knows of its launch (R131 to R134, R144); `spoilt` says that another member of its gang was killed (R436). -/
structure Launch where
  image : Nat
  args : Nat
  index : Nat
  walker : Nat
  inst : Nat
  node : Nat
  asid : Nat
  prio : Nat
  prom : Nat
  passes : Nat
  declared : Nat
  dispatchTime : Nat
  cycles : Nat
  drainGap : Nat
  sram : Nat
  streams : Nat
  accs : Nat
  spill : Nat
  gang : Nat
  rank : Nat
  gangArea : Nat
  members : List CtxId
  pipes : List PipeDef
  waits : List StartWait
  code : Nat
  entry : Nat
  share : Nat
  reqFeat : Nat
  budget : Nat
  spoilt : Bool
  deriving DecidableEq, Repr

/-- What a context slot is doing. -/
inductive Phase where
  | idle       -- holds no task
  | loading    -- its code region is being filled (R144)
  | waiting    -- for its start waits (R133)
  | ready      -- may issue, or is stalled (R190)
  | ended      -- after TEND, until it retires (R260)
  | saving     -- stopped as a pre-emption victim (R150)
  deriving DecidableEq, Repr

/-- Registers and tiles whose contents are undefined until they are next written (R3, R149, R188). -/
structure Undef where
  s : BitVec 32
  v : BitVec 32
  p : BitVec 8
  m : BitVec 8
  k : BitVec 16
  acc : BitVec 4
  deriving DecidableEq, Repr

def Undef.none : Undef := ⟨0, 0, 0, 0, 0, 0⟩

/-- A context: the registers of R187 with their marks, the CSRs 0x000 to 0x010 of R206, and what is in flight. `osVer` is
one more than the cycle of each specifier's last write (R362), `recent` holds the bytes its stores of the last 4 cycles
replaced, with their cycles and the cycle by which a FENCE orders them (R246, R252); `fences` the FENCEs and MWAITs that later engine operations wait for; `bufT` the types
of its latest loads into a0, a1, b0 and b1, `bufOk` which of them no other context has touched since, `pipeUsed` the pipes
it has loaded through (R359, R365, R367); `tileLand` the cycle in which an MRDACC last landed in each tile, `tileAlt` its
snapshot while an earlier command on the tile has still to take effect (R374); `bound` the q registers the task has bound
(R248), `bzLoose` the boezem segments whose opening changed under the context's culvert work (R381), `mcLoose` the
multicast windows of its address space that did (R197); `finalBundle` the exit predicate of a LOOPS whose final
bundle this is (R298); `feAt` the cycle of the first-event record, with the issue cycle and slot of its operation (R208);
`filled` the bytes of its code region the overlay loader has filled (R124). -/
structure Ctx where
  id : CtxId
  phase : Phase
  launch : Launch
  s : Vector Word 32
  spois : BitVec 32
  p : BitVec 8
  v : Vector VWord 32
  vpois : BitVec 32
  m : Vector MWord 8
  acc : Vector Tile 4
  undef : Undef
  os : Vector (BitVec 256) 8
  osVer : Vector Nat 8
  k : Vector Word 16
  q : Vector Binding 8
  dr : Vector DescReg 8
  it : Vector Iter 8
  bt : Vector (BitVec 22) 8
  rstack : List Word
  pc : Word
  npc : Option Word
  csr : Vector Word 17
  budget : Nat
  refills : Nat
  gap : Nat
  bundles : Nat
  block : Option BlockLoop
  nest : Option NestLoop
  suspended : Bool
  finalBundle : Option Nat
  writes : List RegWrite
  flags : List FlagLand
  wake : Vector Nat 4
  recent : List (Nat × Byte × Nat × Nat)
  fences : List Wait
  newFence : List Scope
  drainSeq : Nat
  newDrain : Bool
  eng : List EngOp
  engA : List EngOp
  remote : List Remote
  late : List Late
  ep : List EpOp
  nextSeq : Nat
  lease : Lease
  mq : List MCmd
  bufT : Vector (Option Elem) 4
  bufOk : BitVec 4
  pipeUsed : BitVec 2
  tileLand : Vector Nat 4
  tileAlt : Vector (Option Tile) 4
  bound : BitVec 8
  bzLoose : BitVec 24
  mcLoose : BitVec 8
  feAt : Option (Nat × Nat × Nat)
  filled : Nat
  trap : Option Trap
  xlate : Option (Word × Word)
  waived : Option (Word × Word)
  stalled : Bool
  barrier : Option (Nat × Nat)
  victim : Option Nat
  sliceRun : Bool
  deriving DecidableEq, Repr

/-! ### A core and a polder -/

/-- A collector buffer (R359): rows in stored encoding, poison of its rows and of its element columns, the rows and columns an
aborted load left undefined (R124), the specifier that filled it, the type of an MFILL, and whether its latest load was aborted (R124,
R201). -/
structure Collector where
  rows : Vector (BitVec 768) 64
  rpois : BitVec 64
  cpois : BitVec 192
  urow : BitVec 64
  ucol : BitVec 192
  spec : BitVec 256
  fill : Option Elem
  cut : Bool
  deriving DecidableEq, Repr

/-- A load waiting in or running on a pipe (R360 to R364): `row` is the next to land, `bad` a specifier fault, `alone`
that its pipe was idle and its memory private SRAM, `head` the cycle it came to the head of its pipe plus 1, or 0. -/
structure LoadCmd where
  ctx : CtxId
  seq : Nat
  issued : Nat
  spec : BitVec 256
  os : Nat
  ver : Nat
  buf : Bool
  fill : Option (Elem × FillPat)
  row : Nat
  bad : Bool
  alone : Bool
  head : Nat
  waits : List Wait
  racy : List (Nat × Byte)
  pc : Word
  deriving DecidableEq, Repr

/-- The compressed weight stream of a pipe (R221, R362): the specifier that started it, the offset of the next record,
the offsets of the last 256 literals with their rows as they stood then, the literal count, and whether a decode fault has
poisoned it. -/
structure CwStream where
  ctx : CtxId
  os : Nat
  ver : Nat
  pos : Nat
  lits : List (Nat × List (Option Nat))
  count : Nat
  poisoned : Bool
  deriving DecidableEq, Repr

/-- A load pipe with its two collector buffers (R201, R359, R365, R375). -/
structure Pipe where
  q : List LoadCmd
  b0 : Collector
  b1 : Collector
  prog : Nat
  last : BitVec 256
  cw : Option CwStream
  err : Nat
  deriving DecidableEq, Repr

/-- A matrix store or MLDACC on the store path (R373): rows of bytes to write, or elements to land. -/
structure StoreCmd where
  ctx : CtxId
  seq : Nat
  issued : Nat
  tile : Nat
  load : Bool
  spec : BitVec 256
  rows : List (List Byte)
  row : Nat
  got : List (List (BitVec 32))
  poison : Bool
  census : Nat
  tstat : BitVec 4
  flags : BitVec 5
  pc : Word
  descDue : Bool
  waits : List Wait
  racy : List (Nat × Byte)
  deriving DecidableEq, Repr

/-- A core: its pipes and store path, and the arbiter's running slot and slice end (R145). `lastImage` and `lastAsid` hold what
each slot held last (R143, R144); `tried` is the model's own: one more than the cycle of its last turn (log 9). -/
structure CoreSt where
  core : Nat
  pipeA : Pipe
  pipeB : Pipe
  store : List StoreCmd
  errS : Nat
  run : Option Nat
  sliceEnd : Nat
  slicing : Bool
  lastImage : List (Nat × Nat)
  lastAsid : List (Nat × Nat)
  tried : Nat
  deriving DecidableEq, Repr

/-- A step that has entered the array (R369): its sums and the cycle it lands. -/
structure ArrStep where
  ctx : CtxId
  seq : Nat
  tile : Nat
  sums : List (List Int)
  poison : Bool
  flags : BitVec 5
  pc : Word
  issued : Nat
  due : Nat
  deriving DecidableEq, Repr

/-- A pipe register of a gang (R151); `pub` counts the published slots that the consumer has not finished. -/
structure PipeReg where
  head : Nat
  tail : Nat
  free : Nat
  phase : Nat
  fin : Bool
  finPos : Nat
  pub : Nat
  deriving DecidableEq, Repr

/-- An entry of a run queue (R142, R150): the walker it came from, its linear index and launch, or the save record a
resume entry names. -/
structure RunEntry where
  walker : Nat
  index : Nat
  record : Option Nat
  inst : Nat
  prom : Nat
  deriving DecidableEq, Repr

/-- A polder: the array and its lease queue (R200, R369), the run queue (R142), the gang areas (R151), whether it has sent the
split request of becoming idle (R139, log 109), and the mark that the queue's head has been tried for pre-emption (R150). -/
structure PolderSt where
  pol : Nat
  holder : Option CtxId
  leaseQ : List (CtxId × Nat)
  freeAt : Nat
  arr : List ArrStep
  runQ : List (Nat × RunEntry)
  areas : List (Nat × List PipeReg)
  split : Bool
  tried : Bool
  deriving DecidableEq, Repr

/-- A peer or multicast store in flight (R198): when it lands, its source, the bytes at their SRAM places, the multicast window with
the places it goes to through it, and whether that window has changed meanwhile (R197). -/
structure PeerStore where
  due : Nat
  src : CtxId
  issued : Nat
  cells : List (Nat × Byte)
  mc : Option (Nat × List Nat)
  loose : Bool
  deriving DecidableEq, Repr

/-! ### Translation -/

/-- A TLB entry (R119): where it is, its address space unless global, its range and its leaf with the leaf's place. -/
structure TlbEntry where
  unit : Nat
  asid : Nat
  global : Bool
  va : Nat
  size : Nat
  pte : Word
  deriving DecidableEq, Repr

/-- Who holds a translation fault (R122, R124); `send` is the descriptor read of a send whose context was killed (R406, log 98). -/
inductive Holder where
  | eng (c : CtxId) (seq : Nat)
  | stream (c : CtxId) (q : QNo)
  | pipe (core : Nat) (b : Bool)
  | store (core : Nat)
  | overlay (c : CtxId)
  | coll (inst node : Nat)
  | stall (c : CtxId)
  | read (c : CtxId) (reg : Nat)
  | send (msgid : Nat)
  deriving DecidableEq, Repr

/-- A held fault (R121, R122): its tag, who holds it, the record's fields, and whether it waits for ring space
since the attempt at `tryAt`, and whether its access waits behind another fault of its engine. -/
structure HeldFault where
  tag : Nat
  holder : Holder
  code : Nat
  level : Nat
  write : Bool
  engine : Nat
  core : Nat
  slot : Nat
  asid : Nat
  va : Nat
  progress : Nat
  pte : Word
  time : Nat
  delivered : Bool
  waits : Bool
  queued : Bool
  tryAt : Nat
  deriving DecidableEq, Repr

/-- A running or queued invalidation (R120). -/
structure Inval where
  asid : Nat
  all : Bool
  global : Bool
  range : Bool
  base : Nat
  pages : Nat
  deriving DecidableEq, Repr

/-- The translation unit: its TLBs, invalidations, held faults, pool frames that 4 KiB fills have begun (R115), and the
address spaces whose translations are undefined, all of them for an empty list (R109). -/
structure XltSt where
  tlb : List TlbEntry
  inval : List Inval
  held : List HeldFault
  cowPart : List (Nat × Nat × Nat)
  loose : Option (List Nat)
  deriving DecidableEq, Repr

/-! ### The fabric and the sluice -/

/-- What waits for a request's response (R47, R52). -/
inductive ReqOwner where
  | late (c : CtxId) (seq : Nat)
  | remote (c : CtxId) (seq : Nat)
  | coll (inst node : Nat)
  | host
  deriving DecidableEq, Repr

/-- An outstanding request of the source, or a sluice packet under retransmission (R47, R67). -/
structure Request where
  key : Nat
  pkt : Packet
  deadline : Nat
  retries : Nat
  owner : ReqOwner
  deriving DecidableEq, Repr

/-- An entry of the reply cache (R50). -/
structure Cached where
  src : Nat
  reqid : Nat
  resp : Packet
  time : Nat
  deriving DecidableEq, Repr

/-- The fabric port of the package (R32 to R50): the request-ID counter, outstanding requests, the reply cache and
high-water marks, packets that wait for injection, chunks of collectives that have not started here, packets stored as
relay, relay credits by plane with the slot they were granted for, the slot of each plane last counted for a wait for credit
(both as slot + 1), what the other pods' beacons said of their planes, planes and fibre pairs
that are up, the last valid beacon, when the rotor planes are used again after a loss of time, the offset still to be slewed
and when it was last slewed. -/
structure FabSt where
  reqCtr : Nat
  out : List Request
  cache : List Cached
  hwm : NatMap
  waiting : List Packet
  early : List Packet
  relay : List (Nat × Packet)
  credits : NatMap
  creditSlot : NatMap
  stallSlot : NatMap
  peerPlanes : List (Nat × BitVec 24)
  planesUp : BitVec 24
  pairsUp : BitVec 48
  lastBeacon : Nat
  resumeAt : Option Nat
  slew : Int
  lastSlew : Nat
  replays : NatMap
  deriving DecidableEq, Repr

/-- A live token or spillway, at either end of a message (R69, R71, R72). -/
structure Token where
  ticket : Nat
  lo : Nat
  len : Nat
  expiry : Nat
  got : List Nat
  deriving DecidableEq, Repr

/-- State of a request-table entry (R75). -/
inductive ReqState where
  | waiting | draining | paused
  deriving DecidableEq, Repr

/-- A request-table entry of the receiving sluice (R68 to R75). -/
structure SlReq where
  src : Nat
  msgid : Nat
  prio : Nat
  dst : Nat
  start : Nat
  length : Nat
  rdone : Nat
  ticket : Nat
  st : ReqState
  ungranted : List (Nat × Nat)
  tokens : List Token
  spill : Option Token
  landed : List (Nat × Nat)
  poison : Bool
  linkLost : Bool
  orphanAt : Nat
  deriving DecidableEq, Repr

/-- An entry of the closed list (R74). -/
structure SlClosed where
  src : Nat
  msgid : Nat
  final : Packet
  time : Nat
  deriving DecidableEq, Repr

/-- State of a send-table entry (R77). -/
inductive SendState where
  | reading | posted | queued | cancelling | returning
  deriving DecidableEq, Repr

/-- A send-table entry of the sending sluice (R65, R77); `descVa` is the address its descriptor was read from (R406). -/
structure SlSend where
  owner : CtxId
  asid : Nat
  desc : BitVec 512
  descVa : Option Word
  msgid : Nat
  start : Nat
  domain : Option Nat
  tokens : List Token
  spillSent : Bool
  acked : List (Nat × Nat)
  err : Option Nat
  st : SendState
  dst : Nat
  lastSent : Nat
  seq : Nat
  record : Option Nat
  deriving DecidableEq, Repr

/-- The sluice (R59 to R82). -/
structure SluiceSt where
  msgCtr : Nat
  ticketCtr : Nat
  sends : List SlSend
  reqs : List SlReq
  closed : List SlClosed
  lastGrant : Nat
  deriving DecidableEq, Repr

/-- A piece of one member's input to a collective: its offset, whether its lines are poisoned, and its bytes (log 21). -/
structure CollPiece where
  member : Nat
  off : Nat
  poison : Bool
  data : List Byte
  deriving DecidableEq, Repr

/-- A collective whose descriptor has been read (R55 to R57): its node, descriptor, members' fabric addresses in RANKS order,
none until the list is read, the pieces that are here in order of member and offset, the input bytes of the current chunk
(R124), how many input bytes have been read and sent and how many output bytes written, status bits, and whether it has
ended early or LOST. -/
structure Coll where
  inst : Nat
  node : Nat
  desc : BitVec 512
  ranks : List Nat
  asid : Nat
  inputs : List CollPiece
  chunk : List (Byte × Bool)
  sent : Nat
  written : Nat
  status : BitVec 18
  finished : Bool
  lost : Bool
  deriving DecidableEq, Repr

/-! ### Scheduling and the host (R85 to R157) -/

/-- Where a node of an instance stands (R129, R130): not ready, enqueued while what its judgement reads is still to be read,
ready or waiting on its WAIT entries or for a walker, started, ended without retiring, or retired. -/
inductive NodePhase where
  | pending | judging | ready | started | ended | retired
  deriving DecidableEq, Repr

/-- A node of an instance, with the bytes its COPY has done (R124), the SIGNAL_EACH and SIGNAL_LAST adds still to be made,
as (semaphore entry number, times) (R132), and a LAUNCH's allowed set and member images, descriptor and task header, as its
enqueueing read them (R137, log 97). -/
structure NodeSt where
  idx : Nat
  st : NodePhase
  prog : Nat
  adds : List (Nat × Nat)
  lastMade : Bool
  allowed : BitVec 24
  images : List (BitVec 1024 × BitVec 512)
  deriving DecidableEq, Repr

/-- A registered graph (R90): its handle, image, address space, and the copies of its source nodes with their launch
records. -/
structure Graph where
  handle : Nat
  image : Nat
  asid : Nat
  copies : List (Nat × BitVec 512 × BitVec 2048)
  deriving DecidableEq, Repr

/-- An instance in flight (R94, R96): its submit's fields, the order of its observation, its nodes, and its status with
the node that caused it. -/
structure Inst where
  num : Nat
  handle : Nat
  line : Nat
  seq : Nat
  args : Nat
  crec : Nat
  cookie : Nat
  prio : Nat
  order : Nat
  tStart : Nat
  nodes : List NodeSt
  status : Nat
  node : Nat
  preempts : Nat
  deriving DecidableEq, Repr

/-- A walker in use (R136), with the node it emits for and the time of its last emission. -/
structure Walker where
  num : Nat
  record : Nat
  cursor : Nat
  last : Nat
  emitted : Nat
  retired : Nat
  mask : BitVec 24
  prio : Nat
  ordered : Bool
  inst : Nat
  node : Nat
  emitAt : Nat
  startedIx : Nat
  deriving DecidableEq, Repr

/-- A save record in use (R150): whose it is, whether it is written, whether a lease was held or requested at the
stop (R153), the streams whose updates have been made (R385, log 32), the addresses the descriptors of its sends were read from
(R406, log 116), the cycle of its stop (R156), and the context that went on after its stop, whose sends are still to be posted
again from the record (R79, R81, R150). -/
structure Save where
  num : Nat
  inst : Nat
  node : Nat
  walker : Nat
  index : Nat
  rank : Nat
  full : Bool
  lease : Bool
  made : List QNo
  vas : List (Option Word)
  stopAt : Nat
  launch : Launch
  back : Option CtxId
  deriving DecidableEq, Repr

/-- Module flash (R22, R23, R28, R29): the serial number, the configuration record as a little-endian number of 4,096 bytes,
the firmware image, the identity public key with its certificate, and the THERMAL flag. -/
structure Flash where
  serial : Nat
  record : Nat
  image : List Byte
  idKey : List Byte
  cert : List Byte
  thermal : Bool
  deriving DecidableEq, Repr

/-! ### The reward join (R158 to R180) -/

/-- State of a join entry that is not free (R166). -/
inductive JState where
  | opn | closed | complete | done
  deriving DecidableEq, Repr

/-- A join entry (R161): its index, key, state, episode slot, queue, the running timer, the completion time, whether the
scan has finished, and whether it was counted as held at the head of its queue. -/
structure JEntry where
  idx : Nat
  key : Nat
  st : JState
  slot : Option Nat
  tag : Nat
  deadline : Option Nat
  completed : Nat
  scanned : Bool
  counted : Bool
  deriving DecidableEq, Repr

/-- A held reward (R163). -/
structure Orphan where
  key : Nat
  step : Nat
  value : Int
  exp : Int
  time : Nat
  deadline : Nat
  deriving DecidableEq, Repr

/-- A learner queue's lists (R173 to R178): READY and OUT descriptors with their delivery slots, descriptors that wait
for their delivery writes, the next SEQ, ERROR, and a running flush. -/
structure LQueue where
  q : Nat
  pend : List (BitVec 256 × Nat)
  ready : List (BitVec 256 × Nat)
  out : List (BitVec 256 × Nat)
  seq : Nat
  error : Bool
  flush : Bool
  deriving DecidableEq, Repr

/-- What the outside world brings, with the cycle from which it is there: an event of the opcode table, a store of the
host's processor into its own memory, a word the reeve's firmware puts into a k register of the reeve, or a flit that a fibre
pair's receiver drops for a bad LCRC or out of sequence (R42). -/
inductive Input where
  | event (i : Instr)
  | hostStore (a : Nat) (bytes : List Byte)
  | reeveWord (k : KNo) (w : Word)
  | flitDrop (pair : Fin 48)
  deriving DecidableEq, Repr

/-! ### The package -/

/-- The whole package (R11). `cur` is the context in the issue stage, on which the slot operations act; `ctxs` holds every
other context. `landedNow` holds the old bytes of the peer stores that landed in this cycle (R199). `slotNow`, `issueMem`,
`issueCur`, `raised` and `freeCtr` are the model's own: the slot being executed (R233), the memory and the context the loads
and operands of the bundle read (R184, log 10), the trap just raised, and the counter behind free values and choices (logs 1
and 2). `undef` holds the ranges of byte places, from first to last plus 1, whose contents are undefined until they are next
written (R3). `reeveRun` says whether the reeve's firmware executes (R409, R410), `hostLink` whether the host link has
trained (R20, R25). `inputs` holds what the outside world brings; `cfg` and `fw` are the configuration record and firmware
image bring-up took from flash; `tx`, `txBeacons` (by link, as in `linkOf`) `irq` and `hostRd` (the line the last CXL.mem
read returned, and whether it was poison) what the package sent (log 3); `splitQ` split requests by arrival and polder,
`splitAt` the I/O cycle of the last split (R141), `obsLast` the I/O cycle of the last observation of a submit line with the
line's place in R94's order. -/
structure State where
  cur : Ctx
  ctxs : List Ctx
  cores : List CoreSt
  pols : List PolderSt
  mem : Memory
  undef : List (Nat × Nat)
  poison : List Nat
  lineKeys : List (Nat × KeyTag)
  regs : NatMap
  keys : List KeySlot
  cycle : Nat
  ftime : Nat
  phase : Nat
  clock : Nat
  peers : List PeerStore
  landedNow : List (Nat × Byte)
  xlt : XltSt
  fab : FabSt
  slu : SluiceSt
  colls : List Coll
  reeveK : Vector Word 16
  inputs : List (Nat × Input)
  tx : List (Nat × Packet)
  txBeacons : List (Nat × Beacon)
  irq : List Nat
  hostRd : Option (BitVec 512 × Bool)
  flash : Flash
  cfg : Nat
  fw : List Byte
  hcmd : Option (Nat × BitVec 512)
  graphs : List Graph
  insts : List Inst
  obsCtr : Nat
  lineLast : NatMap
  walkers : List Walker
  saves : List Save
  resumeWait : List RunEntry
  splitQ : List (Nat × Nat)
  splitAt : Nat
  obsLast : Option (Nat × Nat)
  join : List JEntry
  reuse : NatMap
  orphans : List Orphan
  lqs : List LQueue
  hot : Bool
  coolSince : Option Nat
  fatal : Option Nat
  fatalAt : Nat
  tripped : Bool
  reeveRun : Bool
  hostLink : Bool
  slotNow : Nat
  issueMem : Option (Memory × List Nat × List (Nat × Nat))
  issueCur : Option Ctx
  raised : Option Trap
  freeCtr : Nat
  deriving DecidableEq, Repr

/-! ### The values at reset -/

/-- A tile of zeros (R144). -/
def Tile.zero : Tile := ⟨Vector.replicate 64 (Vector.replicate 64 0#32), 0#64, false, false⟩

/-- An iterator of zeros (R295). -/
def Iter.zero : Iter := ⟨0#64, 0#16, 0#16, 0#30, false, false⟩

/-- An unbound stream (R396). -/
def Binding.unbound : Binding :=
  ⟨.unbound, false, .w256, ⟨.loc, 0⟩, 0#512, ⟨.loc, 0⟩, 0, [], 0, 0, false, false, false, 0#64, 0#64, [], 0, false, false,
    255, 0#4, 0#18, none, [], [], 0, [], 0, [], 0#64, 0⟩

/-- No launch: every field zero. -/
def Launch.none : Launch :=
  ⟨0, 0, 0, 0, 0, 0, 0, 0, 0, 0, 0, 0, 0, 0, 0, 0, 0, 0, 0, 0, 0, [], [], [], 0, 0, 0, 0, 0, false⟩

/-- A context slot without a task. Its registers hold zero: the values R144 gives a task's first bundle where that rule
gives zero, and else DESIGN CHOICE, log 5. -/
def Ctx.idle (id : CtxId) : Ctx :=
  { id := id, phase := .idle, launch := Launch.none
    s := Vector.replicate 32 0#64, spois := 0#32, p := 0#8, v := Vector.replicate 32 0#1024, vpois := 0#32
    m := Vector.replicate 8 0#128, acc := Vector.replicate 4 Tile.zero, undef := Undef.none, os := Vector.replicate 8 0#256
    osVer := Vector.replicate 8 0, k := Vector.replicate 16 0#64, q := Vector.replicate 8 Binding.unbound
    dr := Vector.replicate 8 .empty, it := Vector.replicate 8 Iter.zero, bt := Vector.replicate 8 0#22
    rstack := [], pc := 0#64, npc := none, csr := Vector.replicate 17 0#64, budget := 0, refills := 0, gap := 0
    bundles := 0, block := none, nest := none, suspended := false, finalBundle := none, writes := [], flags := []
    wake := Vector.replicate 4 0, recent := [], fences := [], newFence := [], drainSeq := 0, newDrain := false
    eng := [], engA := [], remote := [], late := [], ep := [], nextSeq := 0, lease := .none, mq := [], bufT := Vector.replicate 4 none, bufOk := 0, pipeUsed := 0, tileLand := Vector.replicate 4 0, tileAlt := Vector.replicate 4 none, bound := 0, bzLoose := 0, mcLoose := 0, feAt := none, filled := 0, trap := none
    xlate := none, waived := none, stalled := false, barrier := none, victim := none, sliceRun := false }

/-- An empty collector buffer, which counts as i8 (R367). -/
def Collector.empty : Collector :=
  ⟨Vector.replicate 64 0#768, 0#64, 0#192, 0#64, 0#192, 0#256, none, false⟩

/-- An idle pipe. -/
def Pipe.idle : Pipe := ⟨[], Collector.empty, Collector.empty, 0, 0#256, none, 0⟩

/-- An idle core. -/
def CoreSt.idle (c : Nat) : CoreSt := ⟨c, Pipe.idle, Pipe.idle, [], 0, none, 0, false, [], [], 0⟩

/-- A polder idle since reset, which asks for no split (log 109). -/
def PolderSt.idle (p : Nat) : PolderSt := ⟨p, none, [], 0, [], [], [], true, false⟩

/-- The translation unit with nothing cached or held (R119). -/
def XltSt.empty : XltSt := ⟨[], [], [], [], none⟩

/-- The fabric with no job (R32). Planes, fibre pairs and time bounds before bring-up: none. -/
def FabSt.empty : FabSt :=
  ⟨1, [], [], [], [], [], [], [], [], [], [], 0#24, 0#48, 0, none, 0, 0, []⟩

/-- The sluice with empty tables (R60). -/
def SluiceSt.empty : SluiceSt := ⟨1, 1, [], [], [], 0⟩

/-- The flash of the module as delivered: R29's example record, every feature offered and a power limit of 2,600 W; no
signature, no image. DESIGN CHOICE, log 14. -/
def Flash.example : Flash :=
  { serial := 0, record := 0x53464743 + 1 * 2 ^ 32 + 0xFFFFFF * 2 ^ 192 + 0x555555555555 * 2 ^ 320 + 2600 * 2 ^ 368
      + 0x10000000000 * 2 ^ 448 + 256 * 2 ^ 512 + 512 * 2 ^ 544 + 1024 * 2 ^ 576 + 65536 * 2 ^ 608
    image := [], idKey := ed448Public identitySeed, cert := Config.certificate, thermal := false }

/-- The machine right after module reset, before bring-up (R24 to R26). -/
def State.reset : State :=
  { cur := Ctx.idle ⟨0, 0⟩, ctxs := [], cores := [], pols := [], mem := [], undef := [], poison := [], lineKeys := [], regs := []
    keys := [], cycle := 0, ftime := 0, phase := 0, clock := 1300, peers := [], landedNow := [], xlt := XltSt.empty, fab := FabSt.empty
    slu := SluiceSt.empty, colls := [], reeveK := Vector.replicate 16 0#64, inputs := [], tx := [], txBeacons := [], irq := [], hostRd := none
    flash := Flash.example, cfg := 0, fw := [], hcmd := none, graphs := [], insts := [], obsCtr := 0, lineLast := [], walkers := []
    saves := [], resumeWait := [], splitQ := [], splitAt := 0, obsLast := none, join := [], reuse := [], orphans := [], lqs := [], hot := false
    coolSince := none, fatal := none, fatalAt := 0, tripped := false, reeveRun := false, hostLink := false
    slotNow := 0, issueMem := none, issueCur := none, raised := none, freeCtr := 0 }

/-- The outcome type of a meaning. -/
abbrev Out := Host.Outcome State Fault Refusal

end Sys2Proof.Machine
end

