-- ==== Sys2Proof/Machine/Arith.lean ====
section
/-! DEFINITION. The pure arithmetic of R8, R9 and R212 to R240: narrowing, shifts, the census, BS4 and SB1, the lane
hash generator, and the special functions. No helper sets a flag; what a caller must flag is returned beside the value. -/

namespace Sys2Proof.Machine

/-- sext(x, n) of R8. -/
def sext (x : Int) (n : Nat) : Int := (x + 2 ^ (n - 1)) % 2 ^ n - 2 ^ (n - 1)
/-- zext(x, n) of R8. -/
def zext (x : Int) (n : Nat) : Int := x % 2 ^ n
/-- sat(x, n) of R8. -/
def sat (x : Int) (n : Nat) : Int := min (max x (-(2 ^ (n - 1)))) (2 ^ (n - 1) - 1)
/-- satn(x, n) of R8. -/
def satn (x : Int) (n : Nat) : Int := min (max x 0) (2 ^ n - 1)
/-- wrap(x, n) of R8. -/
def wrap (x : Int) (n : Nat) : Int := sext x n

/-- rne_shr of R9. -/
def rneShr (x : Int) (s : Nat) : Int :=
  if s = 0 then x
  else
    let q := x / 2 ^ s
    let f := x - q * 2 ^ s
    let h : Int := 2 ^ (s - 1)
    if f > h ∨ (f = h ∧ q % 2 = 1) then q + 1 else q

/-- rtz_shr of R9. -/
def rtzShr (x : Int) (s : Nat) : Int := if x ≥ 0 then x / 2 ^ s else -(-x / 2 ^ s)

/-- sto_shr of R9. -/
def stoShr (x : Int) (s : Nat) (g : Nat) : Int := if s = 0 then x else (x + g) / 2 ^ s

/-- Sticky flags of one slot (R207): SAT, WRAP, DIVZ, LOSS, POISON from bit 0. -/
def flagSat : BitVec 5 := 1
def flagWrap : BitVec 5 := 2
def flagDivz : BitVec 5 := 4
def flagLoss : BitVec 5 := 8
def flagPoison : BitVec 5 := 16

/-- A flag when its condition holds. -/
def flagIf (c : Bool) (f : BitVec 5) : BitVec 5 := if c then f else 0

/-- fit(y) of R320 for a type: the lane pattern's value after wrapping. -/
def fitT (t : Elem) (y : Int) : Int := if t.signed then sext y t.size else zext y t.size
/-- clamp(y) of R320. -/
def clampT (t : Elem) (y : Int) : Int := if t.signed then sat y t.size else satn y t.size
/-- The value of an n-bit pattern as type t. -/
def valT (t : Elem) (x : Nat) : Int := if t.signed then sext x t.size else x % 2 ^ t.size
/-- twice(t) of R323. -/
def twiceT : Elem → Elem
  | .i4 => .i8 | .i8 => .i16 | .i16 => .i32 | .n8 => .n16 | .n16 => .n32 | .i32 => .i32 | .n32 => .n32
/-- half(t) of R323. -/
def halfT : Elem → Elem
  | .i8 => .i4 | .i16 => .i8 | .i32 => .i16 | .n16 => .n8 | .n32 => .n16 | .i4 => .i4 | .n8 => .n8

/-- A narrowing step's value with the SAT flag it sets (R215). -/
def clampF (t : Elem) (y : Int) : Int × BitVec 5 := (clampT t y, flagIf (clampT t y != y) flagSat)
/-- A wrapping step's value with the WRAP flag it sets (R215). -/
def fitF (t : Elem) (y : Int) : Int × BitVec 5 := (fitT t y, flagIf (fitT t y != y) flagWrap)

/-- shd of R231: the value with the SAT and LOSS flags. -/
def shd (x : Int) (s : Nat) (rm : Rnd) (t : Elem) (g : Nat) : Int × BitVec 5 :=
  let q := match rm with
    | .rne => rneShr x s
    | .rtz => rtzShr x s
    | .rsto => stoShr x s g
  let y := clampT t q
  (y, flagIf (y != q) flagSat ||| flagIf (x % 2 ^ s != 0) flagLoss)

/-- Bit length: 0 for 0. -/
def bitLen (x : Nat) : Nat := if x = 0 then 0 else Nat.log2 x + 1

/-- rsb(x, w) of R224. -/
def rsb (x : Int) (w : Nat) : Nat :=
  let v := sext x w
  w - 1 - bitLen (if v < 0 then (-v - 1).toNat else v.toNat)

/-- lz(x, w) of R224. -/
def lz (x : Nat) (w : Nat) : Nat := w - bitLen (x % 2 ^ w)

/-- The count of one element in a census (R225). -/
def censusOf (t : Elem) (x : Nat) : Nat := if t.signed then rsb x t.size else lz x t.size

/-- Trailing zeros up to a width, and the number of one bits (R307). -/
def ctz (x : Nat) : Nat → Nat
  | 0 => 0
  | n + 1 => if x % 2 = 1 then 0 else 1 + ctz (x / 2) n
def popc (x : Nat) : Nat → Nat
  | 0 => 0
  | n + 1 => x % 2 + popc (x / 2) n

/-! ### The lane hash generator (R232) -/

/-- fin of R232, the SplitMix64 finaliser. -/
def hashFin (z0 : Word) : Word :=
  let z1 := (z0 ^^^ (z0 >>> 30)) * 0xBF58476D1CE4E5B9
  let z2 := (z1 ^^^ (z1 >>> 27)) * 0x94D049BB133111EB
  z2 ^^^ (z2 >>> 31)

/-- lane_bits(lane, s) of R232. -/
def laneBits (seed ctr : Word) (lane s : Nat) : Nat :=
  if s = 0 then 0
  else (hashFin ((seed ^^^ (BitVec.ofNat 64 lane * 0x9E3779B97F4A7C15)) + ctr)).toNat / 2 ^ (64 - s)

/-! ### BS4 and SB1 (R216 to R219) -/

/-- bs4_enc of R217: the block's bytes with the flags. -/
def bs4Enc (xs : List Int) (w : Nat) (b : Int) : List Byte × BitVec 5 :=
  let bmax := (xs.map fun x => w - rsb x w).foldl max 1
  let be := bmax - 4
  let qs := xs.map fun x =>
    let y := rneShr x be
    let q := sat y 4
    (q, flagIf (q != y) flagSat ||| flagIf (x % 2 ^ be != 0) flagLoss)
  let eb : Int := be + b
  let nib (i : Nat) : Nat := ((qs[i]?.map Prod.fst).getD 0 % 16).toNat
  let bytes := (List.range 16).map fun j => BitVec.ofNat 8 (nib (2 * j) + 16 * nib (2 * j + 1))
  (BitVec.ofInt 8 (sat eb 8) :: bytes, (qs.map Prod.snd).foldl (· ||| ·) (flagIf (sat eb 8 != eb) flagSat))

/-- bs4_dec of R218 for one element. -/
def bs4Dec (be : Int) (q : Int) (t : Elem) (b : Int) : Int × BitVec 5 :=
  let d := be - b
  if d ≥ 0 then
    let y := q * 2 ^ d.toNat
    (sat y t.size, flagIf (sat y t.size != y) flagSat)
  else
    let n := (-d).toNat
    (rneShr q (min n 63), flagIf (q % 2 ^ n != 0) flagLoss)

/-- Element k of a block of 17 bytes, as its i4 value. -/
def bs4Nib (block : List Byte) (k : Nat) : Int :=
  let byte := (block[1 + k / 2]?.getD 0).toNat
  sext (if k % 2 = 0 then byte % 16 else byte / 16) 4

/-- One SB1 bit expanded (R219). -/
def sb1Val (sign bit : Bool) : Int := if bit then 1 else if sign then -1 else 0

/-! ### The special functions (R234 to R240) -/

/-- RECIP_SEED of R235. -/
def recipSeed (i : Nat) : Nat := (2 * 2 ^ 23 + (129 + 2 * i)) / (2 * (129 + 2 * i))

/-- RSQRT_SEED of R235. -/
def rsqrtSeed : List Nat :=
  [65030, 64052, 63117, 62222, 61363, 60540, 59748, 58987]
    ++ [58254, 57548, 56867, 56210, 55574, 54960, 54366, 53791]
    ++ [53233, 52693, 52169, 51660, 51165, 50685, 50218, 49763]
    ++ [49321, 48890, 48470, 48061, 47663, 47273, 46894, 46523]
    ++ [45983, 45292, 44630, 43997, 43390, 42808, 42248, 41710]
    ++ [41192, 40693, 40211, 39746, 39297, 38863, 38443, 38036]
    ++ [37642, 37260, 36889, 36529, 36179, 35840, 35509, 35188]
    ++ [34875, 34571, 34274, 33985, 33703, 33427, 33159, 32897]

/-- LOG2_SEED of R235. -/
def log2Seed : List Nat :=
  [736, 2191, 3623, 5034, 6424, 7794, 9145, 10477]
    ++ [11791, 13086, 14364, 15624, 16867, 18096, 19308, 20504]
    ++ [21687, 22854, 24007, 25147, 26272, 27385, 28484, 29570]
    ++ [30646, 31707, 32758, 33798, 34824, 35841, 36847, 37843]
    ++ [38828, 39801, 40766, 41721, 42668, 43604, 44530, 45448]
    ++ [46357, 47259, 48150, 49033, 49909, 50777, 51635, 52488]
    ++ [53331, 54169, 54999, 55821, 56634, 57444, 58245, 59039]
    ++ [59826, 60609, 61384, 62152, 62915, 63670, 64420, 65165]

/-- EXP2_SEED of R235. -/
def exp2Seed : List Nat :=
  [1073741824, 1085434106, 1097253708, 1109202018, 1121280436, 1133490379, 1145833280, 1158310587]
    ++ [1170923762, 1183674286, 1196563654, 1209593378, 1222764986, 1236080024, 1249540052, 1263146652]
    ++ [1276901417, 1290805962, 1304861917, 1319070932, 1333434672, 1347954824, 1362633090, 1377471191]
    ++ [1392470869, 1407633882, 1422962010, 1438457051, 1454120821, 1469955159, 1485961921, 1502142985]
    ++ [1518500250, 1535035634, 1551751076, 1568648537, 1585730000, 1602997467, 1620452965, 1638098541]
    ++ [1655936265, 1673968228, 1692196547, 1710623359, 1729250827, 1748081133, 1767116489, 1786359126]
    ++ [1805811301, 1825475297, 1845353420, 1865448001, 1885761398, 1906295993, 1927054196, 1948038440]
    ++ [1969251188, 1990694927, 2012372174, 2034285470, 2056437387, 2078830522, 2101467502, 2124350982]

/-- A lane in MX form (R234). -/
def mxLane (sgn : Nat) (e : Int) (m : Nat) : Nat := sgn * 2 ^ 31 + (e % 2 ^ 15).toNat * 2 ^ 16 + m

/-- mx_norm of R234. -/
def mxNorm (y : Nat) (e : Int) (sgn : Nat) : Nat :=
  let b := bitLen y
  let m := if 16 ≤ b then (rneShr y (b - 16)).toNat else y * 2 ^ (16 - b)
  let ee := e + b - 32
  if m = 65536 then mxLane sgn (ee + 1) 32768 else mxLane sgn ee m

/-- One step of the reciprocal iteration of R236. -/
def recipStep (u y : Nat) : Nat := y * (2 ^ 32 - u * y / 2 ^ 31) / 2 ^ 31

/-- VRECIP of R236 on one lane: the MX lane and its flag. -/
def vrecipFn (x : Int) : Nat × BitVec 5 :=
  if x = 0 then (mxLane 0 16383 65535, flagDivz)
  else
    let a := x.natAbs
    let n := Nat.log2 a
    let u := a * 2 ^ (31 - n)
    let i := u / 2 ^ 25 % 64
    (mxNorm (recipStep u (recipStep u (recipSeed i * 2 ^ 15))) (-(n : Int)) (if x < 0 then 1 else 0), 0)

/-- One step of the reciprocal square root iteration of R237. -/
def rsqrtStep (u y : Nat) : Nat := y * (3 * 2 ^ 31 - u * (y * y / 2 ^ 31) / 2 ^ 30) / 2 ^ 32

/-- VRSQRT of R237 on one lane. -/
def vrsqrtFn (x : Int) : Nat × BitVec 5 :=
  if x = 0 then (mxLane 0 16383 65535, flagDivz)
  else if x < 0 then (mxLane 1 (-16384) 0, flagDivz)
  else
    let a := x.toNat
    let n := Nat.log2 a
    let k := n - n % 2
    let u := a * 2 ^ (30 - k)
    let i := if u / 2 ^ 31 = 0 then u / 2 ^ 25 % 32 else 32 + u / 2 ^ 26 % 32
    (mxNorm (rsqrtStep u (rsqrtStep u ((rsqrtSeed[i]?.getD 0) * 2 ^ 15))) (-((k / 2 : Nat) : Int)) 0, 0)

/-- VLOG2 of R238 on one lane. -/
def vlog2Fn (x : Int) : Nat × BitVec 5 :=
  if x = 0 then (mxLane 0 (-16384) 0, flagDivz)
  else if x < 0 then (mxLane 1 (-16384) 0, flagDivz)
  else
    let a := x.toNat
    let n := Nat.log2 a
    let u := a * 2 ^ (31 - n)
    let i := u / 2 ^ 25 % 64
    let z : Nat := u * recipSeed i / 2 ^ 16
    let es : Int := (z : Int) - 2 ^ 31
    let w := es - es * es / 2 ^ 32
    let lg := w * 1549082005 / 2 ^ 30
    let sd : Nat := log2Seed[i]?.getD 0 * 2 ^ 15
    let f := rneShr ((sd : Int) + lg) 16
    if f < 0 then (mxLane 0 n 0, 0)
    else if f ≥ 32768 then (mxLane 0 (n + 1) 0, 0)
    else (mxLane 0 n f.toNat, 0)

/-- VEXP2 of R239 on one lane. -/
def vexp2Fn (x : Int) : Nat × BitVec 5 :=
  let e := x / 2 ^ 16
  let i : Nat := (x / 2 ^ 10 % 64).toNat
  let r : Nat := (x % 2 ^ 10).toNat
  let a : Nat := r * 744261118 / 2 ^ 16
  let p := 2 ^ 30 + a + a * a / 2 ^ 31
  let y : Nat := (exp2Seed[i]?.getD 0) * p / 2 ^ 30
  let m := (rneShr (y : Int) 15).toNat
  let (m, e) := if m = 65536 then (32768, e + 1) else (m, e)
  if e > 16383 then (mxLane 0 16383 65535, flagSat)
  else if e < -16384 then (mxLane 0 (-16384) 0, flagLoss)
  else (mxLane 0 e m, 0)

end Sys2Proof.Machine
end

