-- ==== Sys2Proof/Machine/Mem.lean ====
section
/-! DEFINITION. The named operations over memory, line keys, device registers, contexts and results in flight, which
the meanings share. -/

namespace Sys2Proof.Machine

/-! ### Memory -/

/-- What an address reads as that the memory does not list: all-zero stored bits (R24), and for private SRAM, the
boezem and host memory, whose contents at power-on the spec does not give, DESIGN CHOICE, log 6. -/
def Memory.unlisted : Byte := 0

/-- The byte at an address. -/
def Memory.read : Memory → Nat → Byte
  | [], _ => Memory.unlisted
  | (k, b) :: m, a => if a = k then b else Memory.read m a

/-- Write one byte, keeping the canonical form. -/
def Memory.write : Memory → Nat → Byte → Memory
  | [], a, b => if b = Memory.unlisted then [] else [(a, b)]
  | (k, c) :: m, a, b =>
    if a < k then (if b = Memory.unlisted then (k, c) :: m else (a, b) :: (k, c) :: m)
    else if a = k then (if b = Memory.unlisted then m else (a, b) :: m)
    else (k, c) :: Memory.write m a b

/-- The canonical form: addresses strictly rising, no entry equal to the unlisted value. -/
def Memory.wf : Memory → Bool
  | [] => true
  | [(_, b)] => b != Memory.unlisted
  | (a, b) :: (a', b') :: m => b != Memory.unlisted && a < a' && Memory.wf ((a', b') :: m)

/-- Write bytes at consecutive addresses. -/
def Memory.writeList (m : Memory) (a : Nat) : List Byte → Memory
  | [] => m
  | b :: bs => Memory.writeList (m.write a b) (a + 1) bs

/-- Write a list of cells, in order. -/
def Memory.writeCells (m : Memory) : List (Nat × Byte) → Memory
  | [] => m
  | c :: cs => Memory.writeCells (m.write c.1 c.2) cs

/-- Read n bytes. -/
def Memory.readList (m : Memory) (a n : Nat) : List Byte := (List.range n).map fun i => m.read (a + i)

/-- A number kept in a sparse map with unlisted value `dflt`. -/
def NatMap.getD (m : NatMap) (a dflt : Nat) : Nat :=
  match m with
  | [] => dflt
  | (k, v) :: m => if a = k then v else NatMap.getD m a dflt

/-- Put a number into a sparse map with unlisted value `dflt`, keeping the canonical form. -/
def NatMap.put (m : NatMap) (a v dflt : Nat) : NatMap :=
  match m with
  | [] => if v = dflt then [] else [(a, v)]
  | (k, w) :: m =>
    if a < k then (if v = dflt then (k, w) :: m else (a, v) :: (k, w) :: m)
    else if a = k then (if v = dflt then m else (a, v) :: m)
    else (k, w) :: NatMap.put m a v dflt

/-- Add a number to a rising list, and remove one: the poisoned 8-byte words. -/
def setAdd : List Nat → Nat → List Nat
  | [], a => [a]
  | k :: m, a => if a < k then a :: k :: m else if a = k then k :: m else k :: setAdd m a
def setDel (m : List Nat) (a : Nat) : List Nat := m.filter (· != a)

/-- Places of the memories in the one address space of `State.mem`: physical addresses of R12 below 2^52, then the
boezem (R380), the private SRAMs (R194), and host memory (R85). -/
def boezemBase : Nat := 2 ^ 53
def sramBase : Nat := 2 ^ 54
def hostBase : Nat := 2 ^ 60

/-- The gang area of a polder (R151). -/
def areaBase (p area : Nat) : Nat := boezemBase + p * 2 ^ 23 + 7 * 2 ^ 20 + area * 2 ^ 18
/-- First SRAM place of a context's share (R194). -/
def Ctx.shareBase (c : Ctx) : Nat := sramBase + c.id.core * 2 ^ 22 + c.id.slot * c.launch.share

/-- The 8-byte words whose eight bytes are all among the addresses. -/
def wholeWords (addrs : List Nat) : List Nat :=
  (addrs.filter fun a => a % 8 == 0 && (List.range 8).all fun i => addrs.contains (a + i)).map (· / 8)

/-- Whether one of n bytes from an address lies in a poisoned word. -/
def poisonedAt (p : List Nat) (a n : Nat) : Bool := p.any fun w => w * 8 < a + n && a < w * 8 + 8

/-- Whether one of the 64-byte lines that n bytes touch is poisoned: a line is, while one of its words is (R14, log 18). -/
def lineBad (p : List Nat) (a n : Nat) : Bool := poisonedAt p (a / 64 * 64) ((a % 64 + n + 63) / 64 * 64)

/-- The 64 bytes of a key as a little-endian number (R99). -/
def KeyTag.bits : KeyTag → Nat
  | .init => 0
  | .reeve => leNat slot0Key
  | .host => leNat slot1Key
  | .mat m => m.toNat

/-! ### Ranges of numbers -/

/-- Add a range to disjoint ranges in rising order. -/
def addRange : List (Nat × Nat) → Nat → Nat → List (Nat × Nat)
  | [], lo, hi => if lo < hi then [(lo, hi)] else []
  | (a, b) :: r, lo, hi =>
    if hi < a then (lo, hi) :: (a, b) :: r
    else if b < lo then (a, b) :: addRange r lo hi
    else addRange r (min a lo) (max b hi)
/-- Take a range out of ranges. -/
def cutRange (l : List (Nat × Nat)) (lo hi : Nat) : List (Nat × Nat) :=
  l.flatMap fun r =>
    (if r.1 < min lo r.2 then [(r.1, min lo r.2)] else []) ++ (if max hi r.1 < r.2 then [(max hi r.1, r.2)] else [])
def inRanges (l : List (Nat × Nat)) (a : Nat) : Bool := l.any fun r => r.1 ≤ a && a < r.2

/-- Tier 1 and tier 2 of R12. -/
def inTier1 (a : Nat) : Bool := a < 0x18000000000
def inTier2 (a : Nat) : Bool := 0x100000000000 ≤ a && a < 0x1C0000000000

/-! ### Device registers (R7) -/

/-- Reset values of the device registers that do not reset to zero: HOST_MEM (R84), FAB_E2E (R32), SL_CTL, SL_TIME and
SL_ORPHAN (R62), RJ_CTL, RJ_TIME and RJ_OPEN (R179), LQ_PARAM (R180), CE_STEP (R103) and SCHED_SLICE (R157). -/
def regReset (off : Nat) : Nat :=
  if off = 0x0600 then 1
  else if off = 0x0810 then 4096
  else if off = 0x1010 then 200000 + 3 * 2 ^ 32
  else if off = 0x1200 then 8 + 16 * 2 ^ 8 + 32 * 2 ^ 16 + 3 * 2 ^ 26
  else if off = 0x1208 then 20000 + 100000 * 2 ^ 32
  else if off = 0x1210 then 10000 + 1000 * 2 ^ 32
  else if off = 0x1400 then 16 * 2 ^ 5
  else if off = 0x1408 then 1000000 + 60000000 * 2 ^ 32
  else if off = 0x1410 then 600000
  else if off = 0x2070 then 1024
  else if 0x1800 ≤ off ∧ off < 0x1C00 ∧ off % 0x40 = 8 then 120000000 * 2 ^ 32
  else 0

/-- A device register's stored value. -/
def State.reg (s : State) (off : Nat) : Nat := s.regs.getD off (regReset off)
/-- Store a device register's value. -/
def State.setReg (s : State) (off v : Nat) : State := { s with regs := s.regs.put off v (regReset off) }
/-- A field of a device register. -/
def State.regF (s : State) (off lo n : Nat) : Nat := bits (s.reg off) lo n
/-- Replace a field of a device register. -/
def putBits (w lo n v : Nat) : Nat := w - bits w lo n * 2 ^ lo + v % 2 ^ n * 2 ^ lo
def State.setRegF (s : State) (off lo n v : Nat) : State := s.setReg off (putBits (s.reg off) lo n v)

/-- Whether a feature is active (R88, R89). -/
def State.feat (s : State) (b : Nat) : Bool := bit1 (s.reg 0x0120) b

/-- Raise an interrupt vector (R98). -/
def State.raiseIrq (s : State) (v : Nat) : State := { s with irq := s.irq ++ [v] }

/-- Set a cause bit of INT_CAUSE; a bit of [6:1] going from 0 to 1 while unmasked raises vector 9 (R98). -/
def State.setCause (s : State) (b : Nat) : State :=
  if bit1 (s.reg 0x0400) b then s
  else
    let s' := s.setRegF 0x0400 b 1 1
    if 1 ≤ b ∧ b ≤ 6 ∧ bit1 (s.reg 0x0408) b = false then s'.raiseIrq 9 else s'

/-- The causes a counter of R103 sets when it advances; the link counter sets TIER2_LINK and, by R98's words on MEM_ERR,
that too (log 110). -/
def counterCause (off : Nat) : List Nat :=
  if off ∈ [0x2008, 0x2018, 0x2028, 0x2038, 0x2040] then [2]
  else if off = 0x2030 then [2, 4]
  else if off = 0x2048 then [1]
  else []

/-- Advance a counter: saturating at 2^64 − 1, with its cause (R58, R103). -/
def State.count (s : State) (off : Nat) : State :=
  let v := min (s.reg off + 1) (2 ^ 64 - 1)
  let s := s.setReg off v
  if off ∈ [0x2000, 0x2010, 0x2020] then (if v % s.reg 0x2070 = 0 then s.setCause 3 else s)
  else (counterCause off).foldl State.setCause s

/-- Count an uncorrectable error where it is met (R103). -/
def State.countUe (s : State) (a : Nat) : State :=
  s.count (if inTier1 a then 0x2018 else if inTier2 a then 0x2028 else 0x2008)

/-- Count the uncorrectable error that a read of n bytes of a tier meets (R103, log 18). -/
def State.countBad (s : State) (a n : Nat) : State := if lineBad s.poison a n then s.countUe a else s

/-! ### Free values and choices (logs 1 and 2) -/

/-- A key no other read or choice of this step shares. -/
def State.key (s : State) (pos : Nat) : Nat := s.freeCtr * 2 ^ 40 + s.slotNow * 2 ^ 36 + pos
/-- A free value of n bits. -/
def State.free (s : State) (pos n : Nat) : BitVec n := Config.free (s.key pos) n
/-- A choice among n. -/
def State.choose (s : State) (pos n : Nat) : Nat := Config.pick (s.key pos) % n

/-! ### The configuration in force (R29) -/

/-- A field of the configuration record bring-up accepted. -/
def State.cfgF (s : State) (lo n : Nat) : Nat := bits s.cfg lo n
def State.domain (s : State) : Nat := s.cfgF 384 3
def State.dumpBase (s : State) : Nat := s.cfgF 448 64
def State.dumpSize (s : State) : Nat := s.cfgF 512 32 * 65536
/-- The reserved regions lie from the top of tier 1 downwards in the order relay, join table, episode store. -/
def State.relayBase (s : State) : Nat := 0x18000000000 - s.cfgF 544 32 * 65536
def State.joinBase (s : State) : Nat := s.relayBase - s.cfgF 576 32 * 65536
def State.storeBase (s : State) : Nat := s.joinBase - s.cfgF 608 32 * 65536
/-- Whether n bytes from an address touch the dump, relay, join-table or episode-store region. -/
def State.reserved (s : State) (a n : Nat) : Bool :=
  (a < s.dumpBase + s.dumpSize && s.dumpBase < a + n) || (s.storeBase < a + n && a < 0x18000000000)
/-- Context slots of a polder: 1, 2 or 4; with MULTI_CTX inactive one slot of 4 MiB (R29, R89, R134). -/
def State.slotsOf (s : State) (p : Nat) : Nat :=
  if s.feat 20 then 2 ^ (s.cfgF (320 + 2 * p) 2) else 1
/-- Share size of a polder's slots. -/
def State.shareOf (s : State) (p : Nat) : Nat := 2 ^ 22 / s.slotsOf p

/-! ### Tier memory and its keys (R15, R18, R432) -/

/-- Whether a physical address exists: tier 1, or tier 2 while it is in use and its feature is active (R12, R17, R89). -/
def State.paOk (s : State) (a : Nat) : Bool := inTier1 a || (inTier2 a && s.regF 0 23 1 == 1 && s.feat 1)
/-- Whether the tier-2 link of an address is down (R16, R18). -/
def State.linkDown (s : State) (a : Nat) : Bool := inTier2 a && s.regF 0 (19 + bits a 12 2) 1 == 0

/-- The key under which a line was last written. -/
def State.lineKey (s : State) (line : Nat) : KeyTag :=
  ((s.lineKeys.find? fun x => x.1 == line).map Prod.snd).getD .init
/-- Note the key of a line, in rising order of lines. -/
def putKey (line : Nat) (k : KeyTag) : List (Nat × KeyTag) → List (Nat × KeyTag)
  | [] => [(line, k)]
  | (l, j) :: m => if line < l then (line, k) :: (l, j) :: m else if line = l then (line, k) :: m
    else (l, j) :: putKey line k m

/-- The stored bytes of a line as one number. -/
def lineBits (m : Memory) (line : Nat) : Nat := leNat (m.readList (64 * line) 64)
/-- The stored bits of a line: its bytes encrypted under the key it was last written under; after initialisation the bits
themselves (R15, R24, R432). -/
def State.stored (s : State) (line : Nat) : Nat :=
  match s.lineKey line with
  | .init => lineBits s.mem line
  | k => xtsEnc k.bits line (lineBits s.mem line)
/-- A line as it reads under a key: the decryption of the stored bits (R432). -/
def State.lineAs (s : State) (k : KeyTag) (line : Nat) : List Byte :=
  if s.lineKey line = k then s.mem.readList (64 * line) 64 else leBytes (xtsDec k.bits line (s.stored line)) 64
/-- One byte of a line as it reads under a key. -/
def State.tierByte (s : State) (k : KeyTag) (a : Nat) : Byte :=
  if s.lineKey (a / 64) = k then s.mem.read a else ((s.lineAs k (a / 64))[a % 64]?).getD 0
/-- A byte as it reads at a place: any value where the contents are undefined (R3, log 1). -/
def State.seen (s : State) (u : List (Nat × Nat)) (a : Nat) (b : Byte) : Byte :=
  if inRanges u a then s.free (2 ^ 35 + a % 2 ^ 34) 8 else b
/-- Bytes of tier 1 or tier 2 as they read under a key. -/
def State.tierRead (s : State) (k : KeyTag) (a n : Nat) : List Byte :=
  if s.undef.isEmpty then (List.range n).map fun i => s.tierByte k (a + i)
  else (List.range n).map fun i => s.seen s.undef (a + i) (s.tierByte k (a + i))
/-- A little-endian number of n bytes. -/
def State.tierNat (s : State) (k : KeyTag) (a n : Nat) : Nat := leNat (s.tierRead k a n)
/-- Whether a read of n bytes meets poison, or a tier-2 link that is down (R14, R18). -/
def State.tierPoison (s : State) (a n : Nat) : Bool :=
  poisonedAt s.poison a n || (inTier2 a && (List.range ((a % 4096 + n) / 4096 + 1)).any fun i => s.linkDown (a + 4096 * i))
/-- The same for engines that read whole lines of tier 1 or tier 2 (R14). -/
def State.linePoison (s : State) (a n : Nat) : Bool := s.tierPoison (a / 64 * 64) ((a % 64 + n + 63) / 64 * 64)

/-- The same for records the device keeps for itself: the bytes of a line with an uncorrectable error have no stated contents (log
121). -/
def State.recRead (s : State) (k : KeyTag) (a n : Nat) : List Byte :=
  if s.poison.isEmpty then s.tierRead k a n
  else (List.zipIdx (s.tierRead k a n)).map fun x =>
    if lineBad s.poison (a + x.2) 1 then s.free (2 ^ 35 + (a + x.2) % 2 ^ 34) 8 else x.1
def State.recNat (s : State) (k : KeyTag) (a n : Nat) : Nat := leNat (s.recRead k a n)

/-- Write one byte of a line under a key: a read-modify-write where the line's last key is another. A write to a granule whose
tier-2 link is down stores nothing (R18; log 95). -/
def State.tierPut (s : State) (k : KeyTag) (a : Nat) (b : Byte) : State :=
  if s.linkDown a then s
  else
    let s := { s with undef := cutRange s.undef a (a + 1) }
    if s.lineKey (a / 64) = k then { s with mem := s.mem.write a b }
    else
      { s with mem := (s.mem.writeList (a / 64 * 64) (s.lineAs k (a / 64))).write a b
               lineKeys := putKey (a / 64) k s.lineKeys }
/-- Write bytes under a key; words written whole lose their poison, unless their link is down. -/
def State.tierWrite (s : State) (k : KeyTag) (a : Nat) (bytes : List Byte) : State :=
  let s' := (List.zipIdx bytes).foldl (fun s x => s.tierPut k (a + x.2) x.1) s
  { s' with poison := s'.poison.filter fun w => !(a ≤ w * 8 && w * 8 + 8 ≤ a + bytes.length) || s.linkDown (w * 8) }
/-- The contents of n bytes become undefined (R3). -/
def State.undefine (s : State) (a n : Nat) : State := { s with undef := addRange s.undef a (a + n) }
/-- Poison the 8-byte words that n bytes touch (log 18). -/
def State.poisonRange (s : State) (a n : Nat) : State :=
  { s with poison := (List.range ((a % 8 + n + 7) / 8)).foldl (fun p i => setAdd p (a / 8 + i)) s.poison }

/-- The key of a slot: none while it is empty or being destroyed (R99, R101). -/
def State.slotKey (s : State) (n : Nat) : Option KeyTag :=
  (s.keys.find? fun k => k.slot == n && k.st == .loaded).map KeySlot.key

/-! ### What the host reaches (R25, R27) -/

/-- Whether the host link has trained in stage 2, outside a thermal trip: without it the host reaches nothing. -/
def State.hostUp (s : State) : Bool := s.hostLink && 2 ≤ s.regF 0 0 4 && !s.tripped
/-- Whether the device serves its registers: bring-up has ended, with a host link (R25). -/
def State.served (s : State) : Bool := s.hostUp && s.regF 0 16 1 == 1

/-! ### Host memory (R85, R92, R96) -/

/-- Bytes of host memory. -/
def State.hostRead (s : State) (a n : Nat) : List Byte := s.mem.readList (hostBase + a) n
def State.hostNat (s : State) (a n : Nat) : Nat := leNat (s.hostRead a n)
def State.hostWrite (s : State) (a : Nat) (bytes : List Byte) : State :=
  { s with mem := s.mem.writeList (hostBase + a) bytes }

/-! ### Contexts, cores and polders -/

/-- Change the context in the issue stage. -/
def State.setCur (s : State) (f : Ctx → Ctx) : State := { s with cur := f s.cur }

/-- The context of a slot; a slot no context stands for is idle. -/
def State.ctx (s : State) (i : CtxId) : Ctx :=
  if s.cur.id = i then s.cur else (s.ctxs.find? fun c => c.id == i).getD (Ctx.idle i)

/-- Order of context slots. -/
def ctxNum (i : CtxId) : Nat := i.core * 8 + i.slot

/-- Put a context among the others, in order of slots. -/
def putCtx (c : Ctx) : List Ctx → List Ctx
  | [] => [c]
  | d :: ds => if ctxNum c.id < ctxNum d.id then c :: d :: ds else if c.id = d.id then c :: ds else d :: putCtx c ds

/-- Change the context of a slot. -/
def State.mapCtx (s : State) (i : CtxId) (f : Ctx → Ctx) : State :=
  if s.cur.id = i then { s with cur := f s.cur } else { s with ctxs := putCtx (f (s.ctx i)) s.ctxs }

/-- Every context that holds a task. -/
def State.tasks (s : State) : List Ctx := (s.cur :: s.ctxs).filter fun c => c.phase != .idle

/-- Bring another context into the issue stage. -/
def State.bringIn (s : State) (i : CtxId) : State :=
  if s.cur.id = i then s
  else { s with cur := s.ctx i, ctxs := putCtx s.cur (s.ctxs.filter fun c => c.id != i) }

/-- A core, idle if nothing has happened on it. -/
def State.core (s : State) (n : Nat) : CoreSt := (s.cores.find? fun c => c.core == n).getD (CoreSt.idle n)
def putCore (c : CoreSt) : List CoreSt → List CoreSt
  | [] => [c]
  | d :: ds => if c.core < d.core then c :: d :: ds else if c.core = d.core then c :: ds else d :: putCore c ds
def State.mapCore (s : State) (n : Nat) (f : CoreSt → CoreSt) : State :=
  { s with cores := putCore (f (s.core n)) s.cores }

/-- A polder. -/
def State.pol (s : State) (n : Nat) : PolderSt := (s.pols.find? fun c => c.pol == n).getD (PolderSt.idle n)
def putPol (c : PolderSt) : List PolderSt → List PolderSt
  | [] => [c]
  | d :: ds => if c.pol < d.pol then c :: d :: ds else if c.pol = d.pol then c :: ds else d :: putPol c ds
def State.mapPol (s : State) (n : Nat) (f : PolderSt → PolderSt) : State :=
  { s with pols := putPol (f (s.pol n)) s.pols }

/-- The polder of a core (R11). -/
def polOf (core : Nat) : Nat := core / 4

/-! ### CSRs 0x000 to 0x010 (R206) -/

def csrTrapCause : Fin 17 := 0
def csrTrapPc : Fin 17 := 1
def csrTrapVec : Fin 17 := 2
def csrReplayVec : Fin 17 := 3
def csrTrapState : Fin 17 := 4
def csrTrapVal : Fin 17 := 5
def csrTrapProg : Fin 17 := 6
def csrSticky : Fin 17 := 9
def csrFePc : Fin 17 := 10
def csrFeInfo : Fin 17 := 11
def csrSeed : Fin 17 := 12
def csrHashCtr : Fin 17 := 13
def csrLeaseLeft : Fin 17 := 14
def csrSpillDepth : Fin 17 := 15
def csrVgate : Fin 17 := 16

/-- A saved CSR of a context. -/
def Ctx.csrs (c : Ctx) (n : Fin 17) : Word := c.csr[n]
/-- Set a saved CSR of a context. -/
def Ctx.setCsr (c : Ctx) (n : Fin 17) (v : Word) : Ctx := { c with csr := c.csr.set n v }

/-- IN_TRAP of TRAP_STATE (R206). -/
def Ctx.inTrap (c : Ctx) : Bool := (c.csrs csrTrapState).getLsbD 0

/-! ### Results in flight (R189, R191) -/

/-- Whether two destinations are one register or tile; a memory write is no destination register. -/
def sameDest : Dest → Dest → Bool
  | .s a _ _, .s b _ _ => a == b
  | .v a _ _, .v b _ _ => a == b
  | .p a _, .p b _ => a == b
  | .m a _, .m b _ => a == b
  | .k a _, .k b _ => a == b
  | .tile a _, .tile b _ => a == b
  | _, _ => false

/-- Writes to s0, p0 and m0 are discarded (R187). -/
def discarded : Dest → Bool
  | .s 0 _ _ => true
  | .p 0 _ => true
  | .m 0 _ => true
  | _ => false

/-- Put a result in flight. A destination that an earlier operation still has in flight is undefined until the later
of the two bounds and then holds one of the two results (R191). -/
def State.write (s : State) (lat : Nat) (d : Dest) : State :=
  if discarded d then s
  else
    let due := s.cycle + lat
    match s.cur.writes.find? fun w => sameDest w.dest d && s.cycle < w.due with
    | some w =>
      let d' := if s.choose 1 2 = 0 then w.dest else d
      s.setCur fun c =>
        { c with writes := (c.writes.filter fun x => !sameDest x.dest d) ++ [⟨max due w.due, d'⟩] }
    | none => s.setCur fun c => { c with writes := c.writes ++ [⟨due, d⟩] }

/-- Put flags of the executing slot in flight (R207, R215). -/
def State.flag (s : State) (lat : Nat) (f : BitVec 5) : State :=
  if f = 0 then s
  else s.setCur fun c => { c with flags := c.flags ++ [⟨s.cycle + lat, c.pc, s.cycle, s.slotNow, f⟩] }

/-- Whether a register's contents are undefined: marked so, a result in flight, or the destination of an FLD whose bound has
not passed (R3, R52, R189). -/
def Ctx.sBusy (c : Ctx) (n : Nat) : Bool :=
  c.undef.s.getLsbD n || (c.writes.any fun w => sameDest w.dest (.s n 0 false)) || c.late.any fun e => !e.vec && e.reg == n && e.bound.isSome
def Ctx.vBusy (c : Ctx) (n : Nat) : Bool :=
  c.undef.v.getLsbD n || (c.writes.any fun w => sameDest w.dest (.v n 0 false)) || c.late.any fun e => e.vec && e.reg == n && e.bound.isSome
def Ctx.pBusy (c : Ctx) (n : Nat) : Bool :=
  c.undef.p.getLsbD n || (c.writes.any fun w => sameDest w.dest (.p n false)) || c.ep.any fun e => e.pred == n && n != 0
def Ctx.mBusy (c : Ctx) (n : Nat) : Bool := c.undef.m.getLsbD n || c.writes.any fun w => sameDest w.dest (.m n 0)
/-- Whether a k register is undefined: a result in flight, an operation that has not performed, a read that waits, or a remote
result FWAIT has not released (R276, R383, R402, R407). -/
def Ctx.kBusy (c : Ctx) (n : Nat) : Bool :=
  c.undef.k.getLsbD n || (c.writes.any fun w => sameDest w.dest (.k n 0)) || (c.ep.any fun e => e.reg == n)
    || (c.remote.any fun r => r.reg.any fun x => x.1 == n)
    || (c.eng ++ c.engA).any fun e => match e.kind with
      | .look _ r _ => r == n
      | _ => false
def Ctx.tileBusy (c : Ctx) (n : Nat) : Bool := c.undef.acc.getLsbD n || c.writes.any fun w => sameDest w.dest (.tile n Tile.zero)

/-- A tile of free values (R374, log 1). -/
def State.freeTile (s : State) (n : Nat) : Tile :=
  let x := s.free (2 ^ 34 + 8 * n) 131072
  ⟨Vector.ofFn fun r => Vector.ofFn fun e => x.extractLsb' (2048 * r.val + 32 * e.val) 32, s.free (2 ^ 34 + 8 * n + 1) 64,
    s.free (2 ^ 34 + 8 * n + 2) 1 == 1, s.free (2 ^ 34 + 8 * n + 3) 1 == 1⟩

/-- Whether a command on a tile that was issued before an MRDACC that lands in a cycle has not taken effect (R374). -/
def State.tileClash (s : State) (c : Ctx) (n land : Nat) : Bool :=
  (c.mq.any fun m => m.tile == n && m.issued + 8 < land)
    || ((s.pol (c.id.core / 4)).arr.any fun a => a.ctx == c.id && a.tile == n && a.issued + 8 < land)
    || ((s.core c.id.core).store.any fun x => x.ctx == c.id && x.load && x.tile == n && x.issued + 8 < land)

/-- Whether a byte is one of an LQPOP's descriptor bytes, undefined until its result lands (R407). -/
def Ctx.descAt (c : Ctx) (a : Nat) : Bool :=
  c.ep.any fun e => match e.kind with
    | .pop p _ => p ≤ a && a < p + 32
    | _ => false
/-- The undefined places as the loads of a bundle see them (R3, R184). -/
def State.loadUndef (s : State) : List (Nat × Nat) := (s.issueMem.map fun x => x.2.2).getD s.undef
/-- Bytes of private SRAM as a load or an engine of this moment reads them. -/
def State.view (s : State) (m : Memory) (a n : Nat) : List Byte :=
  let l := s.tasks.filter fun c => !c.ep.isEmpty
  let u := s.loadUndef
  if l.isEmpty && u.isEmpty then m.readList a n
  else (List.range n).map fun i =>
    if l.any fun c => c.descAt (a + i) then s.free (2 ^ 35 + 2 ^ 34 + i) 8 else s.seen u (a + i) (m.read (a + i))

/-- A tile takes a defined value. -/
def Ctx.putTile (c : Ctx) (n : Nat) (t : Tile) : Ctx :=
  { c with acc := c.acc.setIfInBounds n t, tileAlt := c.tileAlt.setIfInBounds n none
           undef := { c.undef with acc := c.undef.acc &&& ~~~(1#4 <<< n) } }
/-- A tile becomes undefined. -/
def Ctx.loseTile (c : Ctx) (n : Nat) : Ctx := { c with undef := { c.undef with acc := c.undef.acc ||| (1#4 <<< n) } }

/-- Store one landed write into the context's registers. A vector result that meets a gated bank is lost and leaves
the register undefined; one that meets a waking bank may be lost (R188, R325). A tile on which an earlier command has still to
take effect is undefined until then (R374). -/
def State.landDest (s : State) (c : Ctx) (d : Dest) : Ctx :=
  match d with
  | .s n v b =>
    { c with s := c.s.setIfInBounds n v, undef := { c.undef with s := c.undef.s &&& ~~~(1#32 <<< n) }
             spois := if b then c.spois ||| (1#32 <<< n) else c.spois &&& ~~~(1#32 <<< n) }
  | .v n v b =>
    let gated := (c.csrs csrVgate).getLsbD (n / 8)
    let lost := gated || (s.cycle < (c.wake[n / 8]?.getD 0) && s.choose (16 + n) 2 == 0)
    { c with v := if lost then c.v else c.v.setIfInBounds n v
             undef := { c.undef with v := if lost then c.undef.v ||| (1#32 <<< n) else c.undef.v &&& ~~~(1#32 <<< n) }
             vpois := if b && !lost then c.vpois ||| (1#32 <<< n) else c.vpois &&& ~~~(1#32 <<< n) }
  | .p n b => { c with p := if b then c.p ||| (1#8 <<< n) else c.p &&& ~~~(1#8 <<< n)
                       undef := { c.undef with p := c.undef.p &&& ~~~(1#8 <<< n) } }
  | .m n v => { c with m := c.m.setIfInBounds n v, undef := { c.undef with m := c.undef.m &&& ~~~(1#8 <<< n) } }
  | .k n v => { c with k := c.k.setIfInBounds n v, undef := { c.undef with k := c.undef.k &&& ~~~(1#16 <<< n) } }
  | .tile n t =>
    let c := { c with tileLand := c.tileLand.setIfInBounds n s.cycle }
    if s.tileClash c n s.cycle then { c.loseTile n with tileAlt := c.tileAlt.setIfInBounds n (some t) } else c.putTile n t
  | .mem _ _ | .stat _ _ => c

/-- Store bytes at consecutive places of private SRAM or another memory without keys, clearing the poison of the words
written whole (R314). -/
def State.poke (s : State) (a : Nat) (bytes : List Byte) : State :=
  { s with mem := s.mem.writeList a bytes, undef := cutRange s.undef a (a + bytes.length)
           poison := s.poison.filter fun w => !(a ≤ w * 8 && w * 8 + 8 ≤ a + bytes.length) }

/-- Store cells at once, clearing the poison of the words they cover. -/
def State.pokeCells (s : State) (cells : List (Nat × Byte)) : State :=
  { s with mem := s.mem.writeCells cells, undef := cells.foldl (fun u c => cutRange u c.1 (c.1 + 1)) s.undef
           poison := s.poison.filter fun w => !(wholeWords (cells.map Prod.fst)).contains w }

/-- Set flags of a slot in STICKY (R207). -/
def Ctx.stick (c : Ctx) (slot : Nat) (f : BitVec 5) : Ctx :=
  c.setCsr csrSticky (c.csrs csrSticky ||| (f.setWidth 64 <<< (5 * slot)))

/-- Take the first-event record of flags that land while the feature is active: while it is not VALID, and of operations that
land in one cycle the earliest bundle's, then the first slot's (R208). -/
def Ctx.firstEvent (c : Ctx) (on : Bool) (now issued : Nat) (pc : Word) (slot : Nat) (f : BitVec 5) : Ctx :=
  let sooner := c.feAt.any fun (t, i, n) => t == now && (issued < i || (issued == i && slot < n))
  if on && (!(c.csrs csrFeInfo).getLsbD 0 || sooner) && f != 0 && slot ≤ 5 then
    { (c.setCsr csrFePc pc).setCsr csrFeInfo (1 ||| BitVec.ofNat 64 (slot * 2) ||| (f.setWidth 64 <<< 4)) with
      feAt := some (now, issued, slot) }
  else c

/-- Of flags that land together, the one the first-event record takes: the earliest bundle, then the first slot. -/
def firstFlag : List FlagLand → Option FlagLand
  | [] => none
  | x :: xs =>
    match firstFlag xs with
    | none => some x
    | some y => if y.issued < x.issued || (y.issued == x.issued && y.slot < x.slot) then some y else some x

/-- The status record of R375 at its landing: tile fields as of the MSTAT, and lease, progress and errors as they stand;
the errors start anew. -/
def State.landStat (s : State) (i : CtxId) (a tiles : Nat) : State :=
  let c := s.ctx i
  let k := s.core i.core
  let lease := (match c.lease with
    | .none => 0
    | .held => 1
    | .requested => 2) + (c.csrs csrLeaseLeft).toNat % 512 * 4
  let r := tiles + lease * 2 ^ 8 + k.pipeA.prog * 2 ^ 32 + k.pipeB.prog * 2 ^ 40 + k.pipeA.err * 2 ^ 48 + k.pipeB.err * 2 ^ 52
    + k.errS * 2 ^ 56
  (s.poke a (leBytes r 32)).mapCore i.core fun k =>
    { k with pipeA := { k.pipeA with err := 0 }, pipeB := { k.pipeB with err := 0 }, errS := 0 }

/-- Land every result of a context whose bound has come, with its flags (R189, R207, R208, R374). -/
def State.landDue (s : State) (i : CtxId) : State :=
  let c := s.ctx i
  let now := c.writes.filter fun w => w.due ≤ s.cycle
  let fl := c.flags.filter fun f => f.due ≤ s.cycle
  let c' := now.foldl (fun c w => s.landDest c w.dest) { c with writes := c.writes.filter fun w => s.cycle < w.due }
  let c' := match firstFlag fl with
    | some f => c'.firstEvent (s.feat 19) s.cycle f.issued f.pc f.slot f.flags
    | none => c'
  let c' := fl.foldl (fun c f => c.stick f.slot f.flags) { c' with flags := c'.flags.filter fun f => s.cycle < f.due }
  now.foldl (fun s w => match w.dest with
    | .mem a bytes => s.poke a bytes
    | .stat a tiles => s.landStat i a tiles
    | _ => s) (s.mapCtx i fun _ => c')

/-- Whether exposed-latency results, those of episode and queue operations among them (R189, R407), or peer stores of a context
are in flight (R198, R203). -/
def State.exposed (s : State) (c : Ctx) : Bool :=
  !c.writes.isEmpty || !c.flags.isEmpty || !c.ep.isEmpty || s.peers.any fun p => p.src == c.id

/-- Stores of a context that race with an engine operation issued in a cycle: less than 4 cycles older, or younger, and
not ordered by a FENCE (R246, R252). Each address with the byte it held before. -/
def Ctx.racing (c : Ctx) (issued : Nat) (ws : List Wait) : List (Nat × Byte) :=
  (c.recent.filter fun r => issued < r.2.2.1 + 4 && !ws.any fun w => w.scope.isSome && r.2.2.2 < w.cyc).map fun r => (r.1, r.2.1)

/-! ### The lease (R200) -/

/-- End a lease or withdraw its request. -/
def State.dropLease (s : State) (i : CtxId) : State :=
  let s := s.mapPol (polOf i.core) fun p =>
    { p with holder := if p.holder = some i then none else p.holder
             leaseQ := p.leaseQ.filter fun x => x.1 != i }
  s.mapCtx i fun c => { c with lease := .none }

/-- Enter a request for n array commands at the tail of the lease queue. -/
def State.askLease (s : State) (i : CtxId) (n : Nat) : State :=
  let s := s.mapPol (polOf i.core) fun p => { p with leaseQ := p.leaseQ ++ [(i, n)] }
  s.mapCtx i fun c => { c with lease := .requested }.setCsr csrLeaseLeft (BitVec.ofNat 64 n)

end Sys2Proof.Machine
end

