-- ==== Sys2Proof/Machine/Xlate.lean ====
section
/-! DEFINITION. Address spaces and translation (R109 to R123, R437), and reading and writing memory through them. -/

namespace Sys2Proof.Machine

/-- Kind of access (R112). -/
inductive Acc where
  | read | write | fetch
  deriving DecidableEq, Repr

/-- A translation fault: the code of R121, the walk level and the failing entry (R122). -/
structure XFault where
  code : Nat
  level : Nat
  pte : Word
  deriving DecidableEq, Repr

/-- A leaf a walk found: the first virtual address it maps, its size, its entry, the entry's place and its level. -/
structure Leaf where
  va : Nat
  size : Nat
  pte : Word
  at_ : Nat
  level : Nat
  deriving DecidableEq, Repr

/-- Where an access goes: physical address, key, and whether the page is poisoned or shadow-mapped. -/
structure Phys where
  pa : Nat
  key : KeyTag
  pz : Bool
  sh : Bool
  leaf : Leaf
  deriving DecidableEq, Repr

/-! ### Address-space table entries (R109, R110) -/

/-- The place of an address-space table entry. -/
def State.astPlace (s : State) (asid : Nat) : Nat := s.regF 0x0700 16 36 * 2 ^ 16 + 64 * asid

/-- An address-space table entry as a number; none where it fails its checks. Read under key slot 1 (R15). -/
def State.ast (s : State) (asid : Nat) : Option Nat :=
  let a := s.astPlace asid
  let e := s.tierNat .host a 64
  let root := bits e 64 64
  let fsq := bits e 128 64
  let fsqOk := fsq == 0 || (fsq % 4096 == 0 && 6 ≤ bits e 192 4 && bits e 192 4 ≤ 12
    && fsq + 64 + 64 * 2 ^ bits e 192 4 ≤ 0x18000000000)
  if asid ≤ s.regF 0x0700 0 16 && inTier1 (a + 63) && !poisonedAt s.poison a 64 && bit1 e 0 && bits e 1 15 == 0
    && bits e 30 2 == 0 && bits e 46 18 == 0 && root % 65536 == 0 && inTier1 (root + 65535) && fsqOk
    && bits e 196 60 == 0 && bits e 320 3 == 0 && bits e 448 64 == 0
  then some e else none

/-! ### Page-table walk (R111 to R113, R437) -/

/-- Whether a page-table pointer breaks R113, for a table of n bytes. -/
def ptrBad (e n : Nat) : Bool :=
  bits e 2 10 != 0 || bits e 52 12 != 0 || bits e 12 40 * 4096 % n != 0 || !inTier1 (bits e 12 40 * 4096 + n - 1)

/-- Whether a leaf of a page of n bytes breaks R113. -/
def State.leafBad (s : State) (e n : Nat) : Bool :=
  let r := bit1 e 2; let w := bit1 e 3; let cw := bit1 e 5; let sh := bit1 e 6; let f := bit1 e 11
  let frame := bits e 12 40 * 4096
  let span := if sh then 2 * n else n
  let block := n == 2 ^ 29
  (f && !sh) || (w && !r) || (cw && w) || (cw && sh) || (block && (cw || sh)) || (cw && !s.feat 11) || (sh && !s.feat 12)
    || frame % span != 0 || !((inTier1 (frame + span - 1)) || (inTier2 frame && inTier2 (frame + span - 1)))
    || s.reserved frame span

/-- Read a page-table entry: a poisoned line and an invalid entry fail. -/
def State.pte (s : State) (tkey : KeyTag) (a level : Nat) : Except XFault Nat :=
  if poisonedAt s.poison (a / 64 * 64) 64 then .error ⟨9, level, 0⟩
  else
    let e := s.tierNat tkey a 8
    if bit1 e 0 then .ok e else .error ⟨1, level, BitVec.ofNat 64 e⟩

/-- A FORMAT failure at a level. -/
def fmtFault (level e : Nat) : Except XFault Leaf := .error ⟨8, level, BitVec.ofNat 64 e⟩

/-- The leaf of a virtual address in an address space, or the first fault of R437 up to the leaf's FORMAT check. -/
def State.walk (s : State) (asid va : Nat) : Except XFault Leaf :=
  match s.ast asid with
  | none => .error ⟨10, 0, 0⟩
  | some e =>
    if va ≥ 2 ^ 55 then .error ⟨2, 0, 0⟩
    else
      match s.slotKey (bits e 16 14) with
      | none => .error ⟨7, 0, 0⟩
      | some tk => do
        let e1 ← s.pte tk (bits e 64 64 + 8 * bits va 42 13) 1
        if !bit1 e1 1 || ptrBad e1 65536 then fmtFault 1 e1
        else
          let a2 := bits e1 12 40 * 4096 + 8 * bits va 29 13
          let e2 ← s.pte tk a2 2
          if !bit1 e2 1 then
            if s.leafBad e2 (2 ^ 29) then fmtFault 2 e2
            else .ok ⟨va / 2 ^ 29 * 2 ^ 29, 2 ^ 29, BitVec.ofNat 64 e2, a2, 2⟩
          else if ptrBad e2 65536 then fmtFault 2 e2
          else
            let a3 := bits e2 12 40 * 4096 + 8 * bits va 16 13
            let e3 ← s.pte tk a3 3
            if !bit1 e3 1 then
              if s.leafBad e3 65536 then fmtFault 3 e3
              else .ok ⟨va / 65536 * 65536, 65536, BitVec.ofNat 64 e3, a3, 3⟩
            else if ptrBad e3 4096 then fmtFault 3 e3
            else
              let a4 := bits e3 12 40 * 4096 + 8 * bits va 12 4
              let e4 ← s.pte tk a4 4
              if bit1 e4 1 || s.leafBad e4 4096 then fmtFault 4 e4
              else .ok ⟨va / 4096 * 4096, 4096, BitVec.ofNat 64 e4, a4, 4⟩

/-- Key slot of a leaf (R112). -/
def leafKeyId (e : Nat) : Nat := bits e 52 12 * 4 + bits e 9 2

/-- The checks of R437 at a leaf, and the frame of R117. -/
def State.useLeaf (s : State) (l : Leaf) (va : Nat) (acc : Acc) : Except XFault Phys :=
  let e := l.pte.toNat
  let bad := fun c => Except.error ⟨c, l.level, l.pte⟩
  let prot := match acc with
    | .read => if bit1 e 2 then 0 else 3
    | .write => if bit1 e 3 || bit1 e 5 then 0 else 4
    | .fetch => if bit1 e 4 then 0 else 5
  if prot != 0 then bad prot
  else
    match s.slotKey (leafKeyId e) with
    | none => bad 7
    | some k =>
      if acc = .write ∧ bit1 e 5 = true then bad 6
      else
        let sh := bit1 e 6
        let second := sh && (bit1 e 11 != (acc == .write))
        .ok ⟨bits e 12 40 * 4096 + (if second then l.size else 0) + va % l.size, k, bit1 e 7, sh, l⟩

/-- TLB place of a core's engines, and of the I/O-die engines (R119). The micro-TLBs, L1 and L2 of a polder count as
one store (log 13). -/
def tlbOf (core : Nat) : Nat := polOf core
def tlbIo : Nat := 24

/-- What a walk counts: an uncorrectable error in a table line or in the address-space table, and a table entry at an
address outside tier 1 (R12, R103). -/
def State.walkMet (s : State) (asid : Nat) (r : Except XFault Leaf) : State :=
  let a := s.astPlace asid
  match r with
  | .error f =>
    if f.code = 9 then s.count 0x2018
    else if f.code = 10 ∧ asid ≤ s.regF 0x0700 0 16 then
      (if !inTier1 (a + 63) then s.count 0x2038 else if poisonedAt s.poison a 64 then s.count 0x2018 else s)
    else s
  | .ok _ => s

/-- An undefined translation of a 64 KiB page: any entry (R109, log 96). -/
def State.anyLeaf (s : State) (va : Nat) : Except XFault Leaf :=
  let e := s.free (2 ^ 33 + 2 ^ 32 + va / 65536 % 2 ^ 30) 64
  if !e.getLsbD 0 then .error ⟨1, 3, e⟩
  else if e.getLsbD 1 || s.leafBad e.toNat 65536 then .error ⟨8, 3, e⟩
  else .ok ⟨va / 65536 * 65536, 65536, e, 0, 3⟩

/-- Translate an access. Where the TLB holds an entry that differs from the tables, either is used (R119, log 13). -/
def State.xlate (s : State) (unit asid va : Nat) (acc : Acc) : State × Except XFault Phys :=
  let fresh := s.walk asid va
  let s := s.walkMet asid fresh
  if s.xlt.loose.any fun l => l.isEmpty || l.contains asid then (s, (s.anyLeaf va).bind fun l => s.useLeaf l va acc)
  else if (s.ast asid).isNone || va ≥ 2 ^ 55 then (s, fresh.bind fun l => s.useLeaf l va acc)
  else
    let hits := s.xlt.tlb.filter fun e =>
      e.unit == unit && (e.global || e.asid == asid) && e.va ≤ va && va < e.va + e.size
    let old := hits.filter fun e => match fresh with
      | .ok l => !(l.pte == e.pte && l.size == e.size)
      | .error _ => true
    let i := if old.isEmpty then 0 else s.choose (2 ^ 32 + va / 4096 % 2 ^ 32) (old.length + 1)
    let leaf := match i, old[i - 1]? with
      | 0, _ => fresh
      | _, none => fresh
      | _, some e => .ok ⟨e.va, e.size, e.pte, 0, if e.size = 4096 then 4 else if e.size = 65536 then 3 else 2⟩
    match leaf.bind fun l => s.useLeaf l va acc with
    | .error f => (s, .error f)
    | .ok ph =>
      let e : TlbEntry := ⟨unit, asid, bit1 ph.leaf.pte.toNat 8, ph.leaf.va, ph.leaf.size, ph.leaf.pte⟩
      let s' := if s.xlt.tlb.contains e then s else { s with xlt := { s.xlt with tlb := e :: s.xlt.tlb } }
      (s', .ok ph)

/-! ### Data through translation -/

/-- A byte with its poison. -/
abbrev PByte := Byte × Bool

/-- What a transfer met besides its bytes: poison or a poisoned page, and a tier-2 link that is down. -/
structure Met where
  poison : Bool
  lost : Bool
  deriving DecidableEq, Repr

def Met.none : Met := ⟨false, false⟩
def Met.add (a b : Met) : Met := ⟨a.poison || b.poison, a.lost || b.lost⟩

/-- Bytes of a physical range within one page, with poison. An address the part does not have is a physical address
fault: counted, and the bytes read are free (R12, log 1). An uncorrectable error is counted where a read meets it (R103). -/
def State.physRead (s : State) (ph : Phys) (n : Nat) : State × List PByte × Met :=
  if s.paOk ph.pa then
    let l := (List.zipIdx (s.tierRead ph.key ph.pa n)).map fun x => (x.1, ph.pz || s.linePoison (ph.pa + x.2) 1)
    (if lineBad s.poison ph.pa n then s.countUe ph.pa else s, l, ⟨l.any Prod.snd, s.linkDown ph.pa⟩)
  else (s.count 0x2038, (List.range n).map fun i => (s.free (2 ^ 34 + ph.pa % 2 ^ 20 + i) 8, false), .none)

/-- Write bytes with their poison to a physical range within one page. A poisoned page discards them (R114). -/
def State.physWrite (s : State) (ph : Phys) (bytes : List PByte) : State × Met :=
  if s.paOk ph.pa = false then (s.count 0x2038, .none)
  else if ph.pz then (s, ⟨true, false⟩)
  else
    let s' := s.tierWrite ph.key ph.pa (bytes.map Prod.fst)
    let s' := (List.zipIdx bytes).foldl (fun s x => if x.1.2 then s.poisonRange (ph.pa + x.2) 1 else s) s'
    (s', ⟨false, s.linkDown ph.pa⟩)

/-- A fault of a transfer with the offset it is met at. -/
structure AtFault where
  fault : XFault
  off : Nat
  deriving DecidableEq, Repr

/-- Read n bytes through translation, page by page. -/
def State.vRead (s : State) (unit asid : Nat) (acc : Acc) : Nat → Nat → Nat → State × Except AtFault (List PByte × Met)
  | 0, _, _ => (s, .ok ([], .none))
  | fuel + 1, va, n =>
    if n = 0 then (s, .ok ([], .none))
    else
      let k := min n (4096 - va % 4096)
      match s.xlate unit asid va acc with
      | (s, .error f) => (s, .error ⟨f, 0⟩)
      | (s, .ok ph) =>
        let (s, l, m) := s.physRead ph k
        match State.vRead s unit asid acc fuel (va + k) (n - k) with
        | (s, .error f) => (s, .error { f with off := f.off + k })
        | (s, .ok (l', m')) => (s, .ok (l ++ l', m.add m'))

/-- Write bytes through translation, page by page; what was written before a fault stays (R124). -/
def State.vWrite (s : State) (unit asid : Nat) : Nat → Nat → List PByte → State × Except AtFault Met
  | 0, _, _ => (s, .ok .none)
  | fuel + 1, va, bytes =>
    if bytes.isEmpty then (s, .ok .none)
    else
      let k := min bytes.length (4096 - va % 4096)
      match s.xlate unit asid va .write with
      | (s, .error f) => (s, .error ⟨f, 0⟩)
      | (s, .ok ph) =>
        let (s, m) := s.physWrite ph (bytes.take k)
        match State.vWrite s unit asid fuel (va + k) (bytes.drop k) with
        | (s, .error f) => (s, .error { f with off := f.off + k })
        | (s, .ok m') => (s, .ok (m.add m'))

/-- The contents of n bytes become undefined where a write would put them (R3); what a write could not reach stays. -/
def State.vUndef (s : State) (unit asid : Nat) : Nat → Nat → Nat → State
  | 0, _, _ => s
  | fuel + 1, va, n =>
    if n = 0 then s
    else
      let k := min n (4096 - va % 4096)
      let s := match s.xlate unit asid va .write with
        | (s, .ok ph) => if s.paOk ph.pa && !ph.pz then s.undefine ph.pa k else s
        | (s, .error _) => s
      State.vUndef s unit asid fuel (va + k) (n - k)

/-- Pages a range may touch: the fuel of a transfer. -/
def pagesOf (n : Nat) : Nat := n / 4096 + 2

/-- Read and write n bytes from an address. -/
def State.vGet (s : State) (unit asid va n : Nat) := s.vRead unit asid .read (pagesOf n) va n
def State.vPut (s : State) (unit asid va : Nat) (bytes : List PByte) := s.vWrite unit asid (pagesOf bytes.length) va bytes

/-! ### Copy-on-write fills (R115, R116) -/

/-- The frame of the next fill of an address space with entry e, and whether it is taken from the pool; none where R116
sends the fault to the ring: an exhausted pool, whatever is left of the last frame, or a bad entry. -/
def State.cowFrame (s : State) (asid e : Nat) (small : Bool) : Option (Nat × Bool) :=
  let next := bits e 416 32
  if next = bits e 384 32 then none
  else
    match if small then s.xlt.cowPart.find? fun x => x.1 == asid && x.2.2 < 16 else none with
    | some x => some (x.2.1 + 4096 * x.2.2, false)
    | none =>
      let at_ := bits e 320 64 + 8 * next
      if !inTier1 (at_ + 7) || lineBad s.poison at_ 8 then none
      else
        let f := s.tierNat .host at_ 8
        if f % 65536 = 0 ∧ inTier1 (f + 65535) = true then some (f, true) else none

/-- The leaf of a page to fill, its entry, its frame and the keys of the copy; none where R116 sends the fault to the ring, and
where the page is not copy-on-write. -/
def State.cowPlan (s : State) (asid va : Nat) : Option (Leaf × Nat × (Nat × Bool) × KeyTag × KeyTag) :=
  match s.walk asid va, s.ast asid with
  | .ok l, some e =>
    match s.cowFrame asid e (l.size == 4096), s.slotKey (bits e 32 14), s.slotKey (leafKeyId l.pte.toNat) with
    | some f, some kc, some kl => if l.pte.getLsbD 5 then some (l, e, f, kc, kl) else none
    | _, _, _ => none
  | _, _ => none

/-- What the reeve counts when it finds no frame for a page: a pool entry at an address outside the map, or in a line with an
uncorrectable error (R12, R103). -/
def State.cowMet (s : State) (asid va : Nat) : State :=
  match s.walk asid va, s.ast asid with
  | .ok l, some e =>
    let next := bits e 416 32
    let at_ := bits e 320 64 + 8 * next
    let part := l.size == 4096 && s.xlt.cowPart.any fun x => x.1 == asid && x.2.2 < 16
    if !l.pte.getLsbD 5 || part || next = bits e 384 32 then s
    else if !s.paOk at_ then s.count 0x2038
    else s.countBad at_ 8
  | _, _ => s

/-- Forget the translations of a page in package scope (R115, R120). -/
def State.dropPage (s : State) (asid : Nat) (l : Leaf) : State :=
  { s with xlt := { s.xlt with tlb := s.xlt.tlb.filter fun t =>
    !((t.global || t.asid == asid) && t.va < l.va + l.size && l.va < t.va + t.size) } }

/-- Fill a copy-on-write page as the reeve does (R115): a pool frame, the copy, the leaf written again, invalidation. The
copy reads as any engine does: a poisoned line and a granule whose link is down give poison. None where R116 sends the fault
to the ring. `va` is any virtual address of the page. -/
def State.cowFill (s : State) (asid va : Nat) : Option State :=
  (s.cowPlan asid va).map fun (l, e, (f, taken), kc, kl) =>
    let pte := l.pte.toNat
    let s := if taken then s.tierWrite .host (s.astPlace asid + 52) (leBytes (bits e 416 32 + 1) 4) else s
    let part := s.xlt.cowPart
    let used := part.map fun x => if x.1 = asid ∧ x.2.2 < 16 then (x.1, x.2.1, x.2.2 + 1) else x
    let part := if l.size ≠ 4096 then part else if taken then part ++ [(asid, f, 1)] else used
    let s : State := { s with xlt := { s.xlt with cowPart := part } }
    let (s, page, _) := s.physRead ⟨bits pte 12 40 * 4096, kl, false, false, l⟩ l.size
    let s := (s.physWrite ⟨f, kc, false, false, l⟩ page).1
    let key := bits e 32 14
    let pte' := putBits (putBits (putBits (putBits (putBits pte 12 40 (f / 4096)) 52 12 (key / 4)) 9 2 key) 3 1 1) 5 1 0
    let s := match s.slotKey (bits e 16 14) with
      | some tk => s.tierWrite tk l.at_ (leBytes pte' 8)
      | none => s
    (s.count 0x2088).dropPage asid l

/-- Resolve a copy-on-write fault: a page that has become private meanwhile, whose stale translations go, needs no fill; else it is
filled. None where the fault goes to the ring. -/
def State.cowResolve (s : State) (asid va : Nat) : Option State :=
  match s.walk asid va with
  | .ok l => if l.pte.getLsbD 5 then s.cowFill asid va else some (s.dropPage asid l)
  | .error _ => none

/-- Translate an access as a unit whose copy-on-write faults are not held: the reeve fills the page and the access goes on
(R48, R115). -/
def State.xlateFill (s : State) (unit asid va : Nat) (acc : Acc) : State × Except XFault Phys :=
  match s.xlate unit asid va acc with
  | (s, .error f) =>
    if f.code = 6 then
      match s.cowResolve asid va with
      | some s => s.xlate unit asid va acc
      | none => (s.cowMet asid va, .error f)
    else (s, .error f)
  | r => r

/-! ### Held faults (R121, R122) -/

/-- A tag no outstanding fault has; which one is the part's choice (log 2). -/
def freshTag (used : List Nat) (start : Nat) : Nat :=
  ((List.range 65536).map fun i => (start + i) % 65536).find? (fun t => !used.contains t) |>.getD 0

/-- Whether a fault of an engine is held. -/
def State.engHeld (s : State) (engine core : Nat) : Bool :=
  s.xlt.held.any fun x => x.engine == engine && x.core == core && !x.queued

/-- Hold an engine at a fault. An engine holds one fault at a time: another of its accesses waits behind it (R122). -/
def State.hold (s : State) (h : Holder) (f : XFault) (write : Bool) (engine core slot asid va progress : Nat) :
    State × Nat :=
  let tag := freshTag (s.xlt.held.map HeldFault.tag) (s.choose 3 65536)
  let r : HeldFault := ⟨tag, h, f.code, f.level, write, engine, core, slot, asid, va, progress, f.pte, s.ftime, false, false,
    s.engHeld engine core, 0⟩
  ({ s with xlt := { s.xlt with held := s.xlt.held ++ [r] } }, tag)
/-- Hold an engine at a fault unless it holds one already: its access is then made again later. -/
def State.holdOne (s : State) (h : Holder) (f : XFault) (write : Bool) (engine core slot asid va progress : Nat) : State :=
  if s.engHeld engine core then s else (s.hold h f write engine core slot asid va progress).1

/-- Engine codes of a fault record (R122). -/
def engStore : Nat := 4
def engOverlay : Nat := 5
def engSeq : Nat := 6
/-- CORE of an I/O-die engine (R122). -/
def coreIo : Nat := 127

/-- Whether a holder has a held fault. -/
def State.isHeld (s : State) (h : Holder) : Bool := s.xlt.held.any fun x => x.holder == h

/-- Forget the faults a predicate names: their engines have gone. -/
def State.unhold (s : State) (p : HeldFault → Bool) : State :=
  { s with xlt := { s.xlt with held := s.xlt.held.filter fun h => !p h } }

/-- Add 1 to a counter in memory, under a key (R384). -/
def State.bumpCounter (s : State) (k : KeyTag) (a : Nat) : State :=
  s.tierWrite k a (leBytes (s.tierNat k a 8 + 1) 8)

end Sys2Proof.Machine
end

