-- ==== Sys2Proof/Machine/Objects.lean ====
section
/-! DEFINITION. Completion objects (R249, R384, R385), the boezem's segments (R380, R381), and reading and writing the
places an operand address can name. -/

namespace Sys2Proof.Machine

/-! ### Unkeyed and keyed places -/

/-- Bytes of a place: private SRAM and boezem have no key. -/
def State.rawRead (s : State) (k : Option KeyTag) (a n : Nat) : List Byte :=
  match k with
  | none => s.view s.mem a n
  | some k => s.tierRead k a n
def State.rawWrite (s : State) (k : Option KeyTag) (a : Nat) (b : List Byte) : State :=
  match k with
  | none => s.poke a b
  | some k => s.tierWrite k a b

/-- Which of the racing stores to a place an engine's read sees: those before this one (R246). -/
def State.racyPick (s : State) (racy : List (Nat × Byte)) (a : Nat) : Nat :=
  s.choose (2 ^ 35 + a % 2 ^ 32) ((racy.countP fun r => r.1 == a) + 1)
/-- One byte an engine reads at a place: each racing store is seen or not, and none without those before it (R244, R246). -/
def State.racyByte (s : State) (racy : List (Nat × Byte)) (a : Nat) (b : Byte) : Byte :=
  match racy.filter fun r => r.1 == a with
  | [] => b
  | l => ((l.map Prod.snd)[s.racyPick racy a]?).getD b
/-- Bytes written at a place: one that races with a store ends with either. -/
def State.racyWrite (s : State) (racy : List (Nat × Byte)) (a : Nat) (bytes : List Byte) : List Byte :=
  (List.zipIdx bytes).map fun x =>
    if (racy.any fun r => r.1 == a + x.2) && s.choose (2 ^ 35 + 2 ^ 32 + (a + x.2) % 2 ^ 32) 2 != 0 then s.mem.read (a + x.2) else x.1

/-- The update of a completion object at a place: add to the counter, OR into the status word. A word that holds an
uncorrectable error stays as it is and is counted (R249); a word whose tier-2 link is down stays too (R18), and an undefined
one stays undefined. `racy` holds the stores it races with (R246). -/
def State.objBump (s : State) (k : Option KeyTag) (a add st : Nat) (racy : List (Nat × Byte) := []) : State :=
  let word := fun (s : State) (a : Nat) (f : Nat → Nat) =>
    if poisonedAt s.poison a 8 then s.countUe a
    else if s.tierPoison a 8 || (List.range 8).any (fun i => inRanges s.undef (a + i)) then s
    else
      let old := (List.zipIdx (s.rawRead k a 8)).map fun x => s.racyByte racy (a + x.2) x.1
      s.rawWrite k a (s.racyWrite racy a (leBytes (f (leNat old)) 8))
  word (word s a (· + add)) (a + 8) (· ||| st)

/-- The update through translation; the fault it meets otherwise. -/
def State.objVirt (s : State) (unit asid va add st : Nat) : State × Option XFault :=
  match s.xlate unit asid va .write with
  | (s, .error f) => (s, some f)
  | (s, .ok ph) => if !s.paOk ph.pa then (s.count 0x2038, none) else if ph.pz then (s, none)
    else (s.objBump (some ph.key) ph.pa add st, none)

/-- An increment that takes no held fault (R434): made, or lost and counted. A copy-on-write page is filled first (R115). DESIGN
CHOICE, log 119: one whose object lies on a page marked poisoned, or at an address outside the map, is lost and counted too. -/
def State.objTry (s : State) (unit asid va st : Nat) : State :=
  if va % 16 ≠ 0 then s.count 0x1340
  else
    match s.xlateFill unit asid va .write with
    | (s, .error _) => s.count 0x1340
    | (s, .ok ph) =>
      if !s.paOk ph.pa then (s.count 0x2038).count 0x1340
      else if ph.pz || s.linePoison ph.pa 16 then
        (if lineBad s.poison ph.pa 16 then s.countUe ph.pa else s).count 0x1340
      else s.objBump (some ph.key) ph.pa 1 st

/-- What a read of a completion object's word meets that keeps it from the word: the counter of the error, or 0 where it has
none (R12, R18, R114, R249). -/
def State.unread (s : State) (ph : Phys) : Option Nat :=
  if !s.paOk ph.pa then some 0x2038
  else if poisonedAt s.poison ph.pa 8 then some (if inTier1 ph.pa then 0x2018 else 0x2028)
  else if ph.pz || s.tierPoison ph.pa 8 then some 0
  else none
/-- Advance the counter of an error, where it has one. -/
def State.countAt (s : State) (off : Nat) : State := if off = 0 then s else s.count off

/-- The counter of an object through translation; the counter of the error that keeps it from being read otherwise (R249). -/
def State.objCounter (s : State) (unit asid va : Nat) : State × Except XFault (Except Nat Nat) :=
  match s.xlate unit asid va .read with
  | (s, .error f) => (s, .error f)
  | (s, .ok ph) =>
    match s.unread ph with
    | some o => (s, .ok (.error o))
    | none => (s, .ok (.ok (s.tierNat ph.key ph.pa 8)))

/-! ### The boezem -/

/-- Whether every byte of a boezem range is open to an address space (R381). -/
def State.boezOpen (s : State) (asid a n : Nat) : Bool :=
  (List.range ((a % 2 ^ 23 + n + 2 ^ 23 - 1) / 2 ^ 23)).all fun i =>
    let seg := a / 2 ^ 23 + i
    let hi := min (a + n) ((seg + 1) * 2 ^ 23)
    seg < 24 && s.regF (0x3600 + 8 * seg) 16 1 == 1 && s.regF (0x3600 + 8 * seg) 0 16 == asid && hi ≤ seg * 2 ^ 23 + 7 * 2 ^ 20

/-! ### Places of operand addresses -/

/-- An engine operation that has moved nothing yet. -/
def newOp (seq : Nat) (slot : Bool) (start : Nat) (kind : EngKind) (done : Option Addr) (phase : EngPhase) : EngOp :=
  ⟨seq, slot, start, kind, done, phase, 0, [], [], 0, [], 0, 255, [], 0, [], 0, 0, false, false, false, 0, 0⟩

/-- Whether a binding owes its tensor descriptor an update: it has written an element (R226). -/
def Binding.owesDesc (b : Binding) : Bool :=
  b.kind == .write && bit1 b.pat.toNat 65 && !bit1 b.pat.toNat 70 && (b.pos != 0 || b.census != 255 || b.tstat != 0)

/-- The update of a binding is due once, with its descriptor's, and after the fences before the binding (R252, R385, R392). `start` is
the first cycle it may act in. -/
def Ctx.bindUpdate (c : Ctx) (q : QNo) (start : Nat := 0) : Ctx :=
  let b := c.q[q]
  if b.updated then c
  else
    let e : EngOp := { newOp c.nextSeq b.culvert start (if b.owesDesc then .closing b else .update) (some b.done)
        (if b.waits.isEmpty then .updating else .waiting) with
      status := b.status, census := b.census, waits := b.waits, racy := b.racy, pc := b.pc, issued := b.issued
      last := if b.kind = .write ∨ b.kind = .scatter then b.last else 0 }
    let c := { c with q := c.q.set q { b with updated := true }, nextSeq := c.nextSeq + 1 }
    if b.culvert then { c with engA := c.engA ++ [e] } else { c with eng := c.eng ++ [e] }

/-- A binding marked failed at its check: the first bundle that names it traps XLATE with value and progress 0 (R392),
and the engine code of its culvert (R122, R206). -/
def Binding.fail (b : Binding) (st : BitVec 18) : Binding :=
  { b with failed := true, failVal := 0, failProg := if b.culvert then 1 else 0, status := b.status ||| st }

/-- The two operation lists of a context. -/
def Ctx.ops (c : Ctx) : List EngOp := c.eng ++ c.engA
/-- Whether a context has culvert work in flight: an operation, or a stream whose update is still to come. -/
def Ctx.culvertWork (c : Ctx) : Bool := !c.ops.isEmpty || c.q.toList.any fun b => b.kind != .unbound && !b.updated
/-- A pipe whose queue has changed: the load that has come to its head is the pipe's latest, and row progress starts
(R360, R364, R365). `head` holds the cycle plus one. -/
def Pipe.setHead (p : Pipe) (now : Nat) : Pipe :=
  match p.q with
  | [] => p
  | l :: rest =>
    if l.head ≠ 0 then p
    else
      let p := { p with q := { l with head := now + 1 } :: rest }
      if l.fill.isSome then p else { p with last := l.spec, prog := bits l.spec.toNat 24 8 }

/-- The load at the head of a pipe is the pipe's latest: its context's task has had one (R365). -/
def State.noteHead (s : State) (core : Nat) (b : Bool) : State :=
  match (if b then (s.core core).pipeB else (s.core core).pipeA).q with
  | [] => s
  | l :: _ => if l.fill.isSome then s else s.mapCtx l.ctx fun c => { c with pipeUsed := c.pipeUsed ||| (1#2 <<< b.toNat) }

/-- Members of a context's gang, rank by rank. -/
def Ctx.memberOf (c : Ctx) (rank : Nat) : CtxId := (c.launch.members[rank]?).getD c.id

/-- The first SRAM place of a slot of a core (R194). -/
def State.slotBase (s : State) (i : CtxId) : Nat := sramBase + i.core * 2 ^ 22 + i.slot * s.shareOf (polOf i.core)

/-- The multicast window of a polder that is open to an address space and contains n bytes at an offset (R197). Window w has its
register at 0x3000 + 0x40 p + 8 w. -/
def State.mcwNo (s : State) (p asid off n : Nat) : Option Nat :=
  (List.range 8).find? fun w =>
    let r := s.reg (0x3000 + 0x40 * p + 8 * w)
    bit1 r 48 && bits r 32 16 == asid && bits r 0 10 * 4096 ≤ off && off + n ≤ (bits r 0 10 + bits r 10 10 + 1) * 4096
/-- Its register. -/
def State.mcw (s : State) (p asid off n : Nat) : Option Nat :=
  (s.mcwNo p asid off n).map fun w => s.reg (0x3000 + 0x40 * p + 8 * w)

/-- The slots a window targets (R197). -/
def mcwTargets (p r : Nat) : List CtxId :=
  ((List.range 4).filter fun i => bit1 r (20 + i)).map fun i => ⟨4 * p + i, bits r (24 + 2 * i) 2⟩

/-- SRAM place of an offset in a context's share. -/
def Ctx.place (c : Ctx) (off : Nat) : Nat := c.shareBase + off

end Sys2Proof.Machine
end

