-- ==== Sys2Proof/Machine/Net.lean ====
section
/-! DEFINITION. The scale-up fabric's shared operations: ranks and routes (R30 to R36, R433), sending and answering
packets (R44 to R47), the reply cache (R50), and what a request does at its target (R48, R49). -/

namespace Sys2Proof.Machine

/-! ### Addresses, ranks and links -/

/-- This package's fabric address, job and pod (R30, R32). -/
def State.self (s : State) : Nat := s.regF 0x1000 0 15
def podOf (a : Nat) : Nat := bits a 9 6
def posOf (a : Nat) : Nat := bits a 0 9
def State.pods (s : State) : Nat := s.regF 0x1000 16 6
def State.job (s : State) : Nat := s.regF 0x1000 32 16
def State.jobSize (s : State) : Nat := s.regF 0x1000 48 16 + 1

/-- Whether a fabric address names a package of the system (R31). -/
def State.addrOk (s : State) (a : Nat) : Bool :=
  podOf a ≤ s.pods && bits a 0 3 ≤ s.regF 0x1000 22 3 && bits a 3 3 ≤ s.regF 0x1000 25 3 && bits a 6 3 ≤ s.regF 0x1000 28 3

/-- The fabric address of a job rank; none where the operation completes with RANK (R31). -/
def State.rankAddr (s : State) (rank : Nat) : State × Option Nat :=
  if rank ≥ s.jobSize then (s, none)
  else
    let a := s.regF 0x1008 0 52 + 2 * rank
    if !inTier1 (a + 1) then (s.count 0x2038, none)
    else if poisonedAt s.poison (a / 64 * 64) 64 then (s.count 0x2018, none)
    else
      let e := s.tierNat .host a 2
      if bit1 e 15 || !s.addrOk e then (s, none) else (s, some e)

/-- Whether the link classes a destination needs are active (R433). -/
def State.linksOk (s : State) (dst : Nat) : Bool :=
  if dst = s.self then true
  else if podOf dst = podOf s.self then s.feat 2
  else s.feat 3 && (posOf dst == posOf s.self || s.feat 2)

/-- Residency domain of a key slot. -/
def State.keyDomain (s : State) (slot : Nat) : Nat := ((s.keys.find? fun k => k.slot == slot).map KeySlot.domain).getD 0

/-! ### The rotor (R33 to R36) -/

/-- The port a port meets in a matching (R33). -/
def partner (k i : Nat) : Nat := if i = 63 then k else if i = k then 63 else (2 * k + 63 - i) % 63

/-- Slot of a plane at a fabric time (R34). -/
def slotAt (t plane : Nat) : Nat := (t - plane * 128) / 4096

/-- Planes that are up at a pod as known here. -/
def State.planesAt (s : State) (pod : Nat) : BitVec 24 :=
  if pod = podOf s.self then s.fab.planesUp
  else ((s.fab.peerPlanes.find? fun x => x.1 == pod).map Prod.snd).getD (BitVec.allOnes 24)

/-- The lowest plane that joins two pods of the system in a slot (R34, R36). -/
def State.joining (s : State) (a b t : Nat) : Option Nat :=
  let both := s.planesAt a &&& s.planesAt b
  (List.range 24).find? fun n => a ≤ s.pods && b ≤ s.pods && both.getLsbD n && partner ((t + n) % 63) a == b
/-- The first slot not before s0 in which two pods share a link (R36). -/
def State.meet (s : State) (a b s0 : Nat) : Option Nat :=
  ((List.range 63).map fun i => s0 + i).find? fun t => (s.joining a b t).isSome

/-- A route of R36: directly in a slot, now through a pod on a plane, or wait and choose again. -/
inductive Route where
  | direct (slot : Nat)
  | via (pod plane : Nat)
  | wait
  deriving DecidableEq, Repr

/-- Relay credits of a plane in a slot: the beacon of the slot's guard grants them for that slot alone (R37). -/
def State.creditFor (s : State) (slot n : Nat) : Nat := if s.fab.creditSlot.getD n 0 = slot + 1 then s.fab.credits.getD n 0 else 0

/-- The better of a route and the relays over planes whose slot it is and that `ok` allows: the earliest slot in which the
relay's pod meets the destination (R36). -/
def State.routeVia (s : State) (ok : Nat → Bool) (b slot : Nat) (start : Nat × Route) : Route :=
  let a := podOf s.self
  let step := fun (best : Nat × Route) n =>
    let c := partner ((slot + n) % 63) a
    if (s.planesAt a).getLsbD n && c ≤ s.pods && c != b && slotAt s.ftime n == slot && ok n then
      match s.meet c b (slot + 1) with
      | some t => if t < best.1 then (t, .via c n) else best
      | none => best
    else best
  ((List.range 24).foldl step start).2
/-- The route of a packet to another pod, chosen in a slot (R36); a slot that does not exist ranks last. -/
def State.route (s : State) (ok : Nat → Bool) (b slot : Nat) : Route :=
  match s.meet (podOf s.self) b slot with
  | some t => if t = slot then .direct slot else s.routeVia ok b slot (t, .direct t)
  | none => s.routeVia ok b slot (slot + 10000, .wait)

/-- Link numbers of `State.tx`: torus +x, −x, +y, −y, +z, −z as 0 to 5, then rotor plane n as 6 + n. -/
def linkOf (plane : Nat) : Nat := 6 + plane

/-- Whether one of the four fibre pairs of a torus neighbour is up (R19, R43). -/
def State.torusUp (s : State) (l : Nat) : Bool := bits s.fab.pairsUp.toNat (4 * l) 4 != 0

/-- The torus link a packet takes next inside the pod, and whether a break has turned it round: dimension order, the shorter way,
+ when equal, and where the link is down the other way of the same dimension. A packet keeps its way in a dimension; one that
has been turned and meets a second break is dropped there (R35, R43, log 105). No link while TORUS is inactive (R433). -/
def State.torusLink (s : State) (p : Packet) : Option (Nat × Bool) :=
  match (List.range 3).find? fun d => bits p.dst (3 * d) 3 != bits s.self (3 * d) 3 with
  | none => none
  | some d =>
    let size := s.regF 0x1000 (22 + 3 * d) 3 + 1
    let fwd := (bits p.dst (3 * d) 3 + size - bits s.self (3 * d) 3) % size
    let short := if 2 * fwd ≤ size then 2 * d else 2 * d + 1
    let (way, turned) := match p.heading with
      | some (l, t) => if l / 2 = d then (l, t) else (short, false)
      | none => (short, false)
    let back := if way % 2 = 0 then way + 1 else way - 1
    if !s.feat 2 then none
    else if s.torusUp way then some (way, turned)
    else if !turned && s.torusUp back then some (back, true)
    else none

/-! ### Sending (R44, R47) -/

/-- A packet of this package with its header fields filled (R44). -/
def State.mkPacket (s : State) (cls op dst : Nat) : Packet :=
  { cls := cls, op := op, dst := dst, src := s.self, job := s.job, sdom := s.domain, reqid := 0, ctx := ⟨0, 0⟩, engine := 0
    va := 0, opa := 0, opb := 0, tag := 0, status := 0, relayed := false, rotorDone := false, inter := 0, time := s.ftime
    data := [], crcOk := true, mbzOk := true, heading := none }

/-- Hand a packet to injection: it leaves when its route allows (R36, R38). -/
def State.send (s : State) (p : Packet) : State := { s with fab := { s.fab with waiting := s.fab.waiting ++ [p] } }

/-- Put a packet on a link. -/
def State.emit (s : State) (link : Nat) (p : Packet) : State := { s with tx := s.tx ++ [(link, p)] }

/-- The arrival of a packet as an event. -/
def arrival (p : Packet) : Instr :=
  match p.cls with
  | 0 => .reqRd p
  | 1 => .reqWr p
  | 2 => .reqAt p
  | 3 => .resp p
  | 4 => .msg p
  | 5 =>
    match p.op with
    | 1 => .rts p
    | 2 => .accept p
    | 3 => .full p
    | 4 => .token p
    | 5 => .ack p
    | 6 => .renew p
    | 7 => .returnPkt p
    | 8 => .cancel p
    | 9 => .done p
    | 10 => .purge p
    | _ => .msg p
  | 6 => if p.op = 2 then .pull p else .spill p
  | 7 => .rwpostArrival p
  | 8 => .collChunk p
  | 9 => .sig p
  | _ => .msg p

/-- Put a packet on the torus link it takes next, or drop it: at a broken ring it is counted (R35, R43, R433). -/
def State.torusOut (s : State) (p : Packet) : State :=
  match s.torusLink p with
  | some h => s.emit h.1 { p with heading := some h }
  | none => if s.feat 2 then s.count 0x1120 else s

/-- A packet for this package arrives by itself: the sluice and the join take it in the next cycle, in the order of their own
rules (R76, R171). -/
def State.arrives (s : State) (p : Packet) : State := { s with inputs := s.inputs ++ [(s.cycle + 1, .event (arrival p))] }

/-- Take one more step of a packet's way from this package, outside the rotor: to this package itself or over the torus. A
packet for another pod waits for its rotor slot. -/
def State.forward (s : State) (p : Packet) : State :=
  if p.dst = s.self then s.arrives p
  else if podOf p.dst = podOf s.self then s.torusOut p
  else s.send p

/-- A request under end-to-end retransmission: it takes the next request ID (R44, R47). -/
def State.request (s : State) (p : Packet) (owner : ReqOwner) : State :=
  let p := { p with reqid := s.fab.reqCtr }
  let r : Request := ⟨s.fab.reqCtr, p, s.ftime + s.regF 0x1010 0 32, 0, owner⟩
  { s with fab := { s.fab with reqCtr := s.fab.reqCtr + 1, out := s.fab.out ++ [r] } : State }.send p

/-- What of a message is under retransmission: its RTS, RETURN and CANCEL go on apart from each other (R67). -/
inductive Retx where
  | rts | ret | cancel
  deriving DecidableEq, Repr

/-- The key of a sluice control packet under retransmission. -/
def sluiceKey (msgid : Nat) (k : Retx) : Nat :=
  2 ^ 64 + 4 * msgid + match k with
    | .rts => 0
    | .ret => 1
    | .cancel => 2
/-- Send a control packet and keep it under retransmission; a later one for the same key takes its place. -/
def State.sendRetx (s : State) (p kept : Packet) (msgid : Nat) (k : Retx) : State :=
  let r : Request := ⟨sluiceKey msgid k, kept, s.ftime + s.regF 0x1010 0 32, 0, .host⟩
  { s with fab := { s.fab with out := (s.fab.out.filter fun x : Request => x.key != r.key) ++ [r] } : State }.send p
/-- End the retransmission of a key. -/
def State.endRetx (s : State) (key : Nat) : State :=
  { s with fab := { s.fab with out := s.fab.out.filter fun x : Request => x.key != key } }
/-- End every retransmission of a message. -/
def State.endRetxAll (s : State) (msgid : Nat) : State :=
  { s with fab := { s.fab with out := s.fab.out.filter fun x : Request => x.key / 4 != 2 ^ 62 + msgid } }

/-! ### Answering (R46, R50) -/

/-- The response to a request. -/
def State.response (s : State) (p : Packet) (status : Nat) (opa opb : Word) (data : List Byte) : Packet :=
  { s.mkPacket 3 p.op p.src with reqid := p.reqid, ctx := p.ctx, engine := p.engine, tag := p.tag, status := status
                                 opa := opa, opb := opb, data := data }

/-- Whether a packet that passes ECRC may be executed (R46). -/
def State.pktOk (s : State) (p : Packet) (opOk : Bool) : Bool :=
  p.mbzOk && opOk && p.job == s.job && p.data.length ≤ (if p.cls = 6 ∨ p.cls = 8 then 4096 else 256)

/-- Whether arriving packets are taken at all: not after a fatal error (R104). -/
def State.fabricOn (s : State) : Bool := s.fatal.isNone && !s.tripped

/-- Handle an arriving packet of a request class: ECRC, MALFORMED, then the operation. -/
def State.onRequest (s : State) (p : Packet) (opOk : Bool) (run : State → State) : State :=
  if !s.fabricOn then s
  else if !p.crcOk then s.count 0x1110
  else if !s.pktOk p opOk then (s.count 0x1138).send (s.response p 9 0 0 [])
  else run s

/-- The oldest entry of the reply cache. -/
def oldest : List Cached → Option Cached
  | [] => none
  | c :: cs =>
    match oldest cs with
    | none => some c
    | some d => if d.time < c.time then some d else some c

/-- The exactly-once rule (R50) around an operation that yields a response. -/
def State.once (s : State) (p : Packet) (run : State → State × Packet) : State :=
  match s.fab.cache.find? fun c => c.src == p.src && c.reqid == p.reqid with
  | some c => (s.count 0x1128).send c.resp
  | none =>
    if p.reqid ≤ s.fab.hwm.getD p.src 0 then (s.count 0x1130).send (s.response p 8 0 0 [])
    else
      let full := s.fab.cache.length ≥ 4096
      let young := match oldest s.fab.cache with
        | some c => s.ftime < c.time + 64000
        | none => false
      if full && young then s.send (s.response p 10 0 0 [])
      else
        let s := if full then
            match oldest s.fab.cache with
            | some c => { s with fab := { s.fab with
                cache := s.fab.cache.erase c
                hwm := s.fab.hwm.put c.src (max (s.fab.hwm.getD c.src 0) c.reqid) 0 } }
            | none => s
          else s
        let (s, r) := run s
        { s with fab := { s.fab with cache := s.fab.cache ++ [⟨p.src, p.reqid, r, s.ftime⟩] } : State }.send r

/-! ### The target's accesses (R48, R49, R115, R116) -/

/-- The address space of remote operations; none while it is not valid (R109). -/
def State.fabAsid (s : State) : Option Nat := if s.regF 0x0708 16 1 = 1 then some (s.regF 0x0708 0 16) else none

/-- Status of R51 for a translation fault at a target (R48). -/
def targetStatus (f : XFault) : Nat := if f.code = 3 ∨ f.code = 4 then 3 else 2

/-- Translate a target access; a copy-on-write page is filled first (R48). -/
def State.targetXlate (s : State) (va : Nat) (acc : Acc) : State × Except Nat Phys :=
  match s.fabAsid with
  | none => (s, .error 2)
  | some asid =>
    match s.xlateFill tlbIo asid va acc with
    | (s, .error f) => (s, .error (targetStatus f))
    | (s, .ok ph) => (s, .ok ph)

/-- A target access to an address the part does not have is counted (R12). -/
def State.targetMet (s : State) (ph : Phys) : State := if s.paOk ph.pa then s else s.count 0x2038

/-- The checks of R48 that follow translation, in the table's order. `scan` asks for the domain check of a load or an
atomic. -/
def State.targetOk (s : State) (p : Packet) (ph : Phys) (atomic scan : Bool) (n : Nat) : Nat :=
  let key := leafKeyId ph.leaf.pte.toNat
  if !s.paOk ph.pa || (atomic && (inTier2 ph.pa || ph.sh)) then 5
  else if scan && s.keyDomain key != 0 && s.keyDomain key != p.sdom then 6
  else if 0 < n && ((n ≤ 8 && p.va % n != 0) || p.va / 256 != (p.va + n - 1) / 256 || (atomic && n != 4 && n != 8)) then 4
  else 0

/-- The new value of an atomic and whether it saturated (R49). -/
def atomicNew (op w : Nat) (old a b : Nat) : Option (Nat × Bool) :=
  let m := 2 ^ w
  let old := old % m; let a := a % m; let b := b % m
  let so := sext old w; let sa := sext a w
  match op with
  | 0 => some (a, false)
  | 1 => some ((old + a) % m, false)
  | 2 => let y := so + sa; some ((sat y w % m).toNat, sat y w != y)
  | 3 => some (if so ≤ sa then old else a, false)
  | 4 => some (if so ≤ sa then a else old, false)
  | 5 => some (min old a, false)
  | 6 => some (max old a, false)
  | 7 => some (old &&& a, false)
  | 8 => some (old ||| a, false)
  | 9 => some (old ^^^ a, false)
  | 10 => some (if old = a then b else old, false)
  | _ => none

end Sys2Proof.Machine
end

