-- ==== Sys2Proof/Machine/Sluice.lean ====
section
/-! DEFINITION. The sluice: receiver-driven transfers (R59 to R82, R434), both ends, and the meanings of its packets and
timers. -/

namespace Sys2Proof.Machine

/-! ### Statuses and ranges -/

/-- The status-word bits of a status code of R51 (R384). -/
def statusBits (code : Nat) : Nat :=
  match code with
  | 1 => 2 ^ 1
  | 2 => 2 ^ 6
  | 3 => 2 ^ 7
  | 4 => 2 ^ 16
  | 5 => 2 ^ 10
  | 6 => 2 ^ 9
  | 7 => 2 ^ 11
  | 8 => 2 ^ 17
  | 9 => 2 ^ 12
  | 11 => 2 ^ 3
  | _ => 0

/-- Status-word bits this chapter names (R384). -/
def stPoison : Nat := 2 ^ 1
def stLost : Nat := 2 ^ 3
def stLinkLost : Nat := 2 ^ 4
def stOrphaned : Nat := 2 ^ 13
def stCancelled : Nat := 2 ^ 14

/-- Bytes the ranges hold. -/
def rangeSize (r : List (Nat × Nat)) : Nat := (r.map fun x => x.2 - x.1).sum

/-- The pieces of a range, as offset and length (R67). -/
def pieceOf (lo len i : Nat) : Nat × Nat := (lo + 4096 * i, min 4096 (len - 4096 * i))
def pieceCount (len : Nat) : Nat := (len + 4095) / 4096

/-- Bytes of a token that have not landed. -/
def tokenLeft (t : Token) : Nat := t.len - (t.got.map fun i => (pieceOf t.lo t.len i).2).sum
/-- Whether every piece of a token has landed. -/
def tokenDone (t : Token) : Bool := t.got.length == pieceCount t.len

/-! ### Fields and registers -/

def sendRank (d : BitVec 512) : Nat := bits d.toNat 0 16
def sendLen (d : BitVec 512) : Nat := bits d.toNat 32 40
def sendSrc (d : BitVec 512) : Nat := bits d.toNat 128 64
def sendDst (d : BitVec 512) : Nat := bits d.toNat 192 64
def sendLdone (d : BitVec 512) : Nat := bits d.toNat 256 64
def sendRdone (d : BitVec 512) : Nat := bits d.toNat 320 64

/-- Whether a field of a send descriptor is malformed (R65). -/
def sendBad (d : BitVec 512) : Bool :=
  let n := d.toNat
  bits n 19 13 != 0 || bits n 72 56 != 0 || bits n 384 128 != 0 || sendLen d == 0 || sendSrc d % 64 != 0
    || sendSrc d ≥ 2 ^ 55 || sendDst d % 64 != 0 || sendDst d ≥ 2 ^ 55 || sendLdone d % 16 != 0 || sendRdone d % 16 != 0
    || sendSrc d + sendLen d > 2 ^ 55

def State.slEnabled (s : State) : Bool := s.regF 0x1200 32 1 == 1
def State.orphanNs (s : State) : Nat := s.regF 0x1210 0 32 * 1000
def State.tokenLife (s : State) : Nat := s.regF 0x1208 0 32

/-- Granted bytes that have not arrived (R62, R71). -/
def State.inUse (s : State) : Nat := (s.slu.reqs.map fun r => (r.tokens.map tokenLeft).sum).sum

/-! ### Tables -/

def State.setSlu (s : State) (f : SluiceSt → SluiceSt) : State := { s with slu := f s.slu }
def State.mapSend (s : State) (msgid : Nat) (f : SlSend → SlSend) : State :=
  s.setSlu fun u => { u with sends := u.sends.map fun e => if e.msgid = msgid then f e else e }
def State.sendOf (s : State) (msgid : Nat) : Option SlSend := s.slu.sends.find? fun e => e.msgid == msgid
def State.mapReq (s : State) (src msgid : Nat) (f : SlReq → SlReq) : State :=
  s.setSlu fun u => { u with reqs := u.reqs.map fun e => if e.src = src ∧ e.msgid = msgid then f e else e }
def State.reqOf (s : State) (src msgid : Nat) : Option SlReq :=
  s.slu.reqs.find? fun e => e.src == src && e.msgid == msgid
def State.dropReq (s : State) (src msgid : Nat) : State :=
  s.setSlu fun u => { u with reqs := u.reqs.filter fun e => !(e.src == src && e.msgid == msgid) }

/-- A control packet for a message (R66). -/
def State.slPkt (s : State) (op dst msgid : Nat) : Packet :=
  { s.mkPacket 5 op dst with opa := BitVec.ofNat 64 msgid }

/-- Free a send-table entry without an increment; nothing of its message is retransmitted for it any more (log 104). -/
def State.freeSend (s : State) (msgid : Nat) : State :=
  (s.setSlu fun u => { u with sends := u.sends.filter fun x => x.msgid != msgid }).endRetxAll msgid

/-- Free a send-table entry, with the one LDONE increment of its message (R77, R81, R434). -/
def State.endSend (s : State) (msgid st : Nat) : State :=
  match s.sendOf msgid with
  | none => s
  | some e => (s.objTry tlbIo e.asid (sendLdone e.desc) st).freeSend msgid

/-- Restart the time-out of a key (R47). -/
def State.restartRetx (s : State) (key : Nat) : State :=
  let later := fun (r : Request) => if r.key == key then { r with deadline := s.ftime + s.regF 0x1010 0 32 } else r
  { s with fab := { s.fab with out := s.fab.out.map later } }

/-! ### The sender (R64 to R69, R77 to R80) -/

/-- Read a piece of a message's source, in the address space bound to the fabric job (R61). The pages' key domains are none,
or all 0, or the one other domain met. The first failure is a status code (R69, R77). -/
def State.readPiece (s : State) (e : SlSend) (off n : Nat) : State × Except Nat (List PByte × List Nat) :=
  match s.fabAsid with
  | none => (s, .error 2)
  | some asid =>
    let va := sendSrc e.desc + off
    let chk := fun (s : State) (a : Nat) => match s.xlate tlbIo asid a .read with
      | (s, .error f) => (s, Except.error (targetStatus f))
      | (s, .ok ph) => (s, .ok (s.keyDomain (leafKeyId ph.leaf.pte.toNat)))
    match chk s va with
    | (s, .error c) => (s, .error c)
    | (s, .ok d0) =>
      match chk s (va + n - 1) with
      | (s, .error c) => (s, .error c)
      | (s, .ok d1) =>
        match s.vGet tlbIo asid va n with
        | (s, .error f) => (s, .error (targetStatus f.fault))
        | (s, .ok (l, _)) => (s, .ok (l, [d0, d1]))

/-- The data packet of a piece (R66). -/
def State.piecePkt (s : State) (e : SlSend) (op off ticket : Nat) (l : List PByte) : Packet :=
  { s.mkPacket 6 op e.dst with
    va := sendDst e.desc + off, opa := BitVec.ofNat 64 e.msgid, opb := BitVec.ofNat 64 ticket
    status := if l.any Prod.snd then 1 else 0, data := l.map Prod.fst }

/-- Send the spillway's pieces until one fails (R69). -/
def State.sendSpill (s : State) (e : SlSend) (lo len : Nat) : Nat → Nat → State
  | 0, _ => s
  | fuel + 1, i =>
    if i ≥ pieceCount len then s
    else
      let (off, n) := pieceOf lo len i
      match s.readPiece e off n with
      | (s, .error _) => s
      | (s, .ok (l, doms)) =>
        if doms.all (· == 0) then State.sendSpill (s.send (s.piecePkt e 1 off 0 l)) e lo len fuel (i + 1) else s

/-- The RTS of an entry with a spillway of n bytes (R66). -/
def State.rtsPkt (s : State) (e : SlSend) (n : Nat) : Packet :=
  { s.slPkt 1 e.dst e.msgid with
    va := sendDst e.desc, opa := BitVec.ofNat 64 (e.msgid + bits e.desc.toNat 16 3 * 2 ^ 48)
    opb := BitVec.ofNat 64 (sendLen e.desc)
    data := leBytes (sendRdone e.desc) 8 ++ leBytes e.start 8 ++ leBytes n 8 ++ leBytes 0 8 }

/-- Post a message whose entry is in the send table: RTS, then the spillway (R59, R68, R69). -/
def State.postSend (s : State) (msgid : Nat) : State :=
  match s.sendOf msgid with
  | none => s
  | some e =>
    let n := min (sendLen e.desc - e.start) (s.regF 0x1200 0 7 * 1024)
    let s := s.mapSend msgid fun e => { e with st := .posted, spillSent := true, lastSent := s.ftime }
    -- a retransmitted RTS carries SPILL = 0 (R67)
    let s := s.sendRetx (s.rtsPkt e n) (s.rtsPkt e 0) msgid .rts
    s.sendSpill e e.start n (pieceCount n + 1) 0

/-- Judge a descriptor that has been read and start the message, or complete it at once (R65, R433). -/
def State.startSend (s : State) (msgid : Nat) : State :=
  match s.sendOf msgid with
  | none => s
  | some e =>
    if !s.slEnabled then s.endSend msgid (statusBits 5)
    else if sendBad e.desc then s.endSend msgid (statusBits 9)
    else
      match s.rankAddr (sendRank e.desc) with
      | (s, none) => s.endSend msgid (statusBits 7)
      | (s, some a) =>
        if !s.linksOk a then s.endSend msgid (statusBits 5)
        else (s.mapSend msgid fun e => { e with dst := a }).postSend msgid

/-- The CANCEL of an entry (R66). -/
def State.cancelPkt (s : State) (dst msgid rdone : Nat) : Packet :=
  { s.slPkt 8 dst msgid with data := leBytes rdone 8 }

/-- Send a CANCEL and keep it under retransmission (R67). -/
def State.sendCancel (s : State) (dst msgid rdone : Nat) : State :=
  let p := s.cancelPkt dst msgid rdone
  s.sendRetx p p msgid .cancel

/-- Cancel an entry: it enters CANCELLING with the error its LDONE will carry, and its RTS is no longer retransmitted (R67,
R77). -/
def State.cancelSend (s : State) (msgid : Nat) (err : Option Nat) : State :=
  match s.sendOf msgid with
  | none => s
  | some e =>
    ((s.mapSend msgid fun e => { e with st := .cancelling, err := err, tokens := [] }).endRetxAll msgid).sendCancel
      e.dst msgid (sendRdone e.desc)

/-- Send the next piece of an entry's live tokens, in ticket order and then in offset order; tokens past their expiry
are dropped with what they have left (R69, R72, R77). -/
def State.pumpSend (s : State) (msgid : Nat) : State :=
  match s.sendOf msgid with
  | none => s
  | some e =>
    let live := e.tokens.filter fun t => s.ftime ≤ t.expiry && !tokenDone t
    match live with
    | [] => s.mapSend msgid fun e => { e with tokens := [] }
    | t :: rest =>
      let i := t.got.length
      let (off, n) := pieceOf t.lo t.len i
      match s.readPiece e off n with
      | (s, .error c) => s.cancelSend msgid (some (statusBits c))
      | (s, .ok (l, doms)) =>
        let bad := doms.any fun d => d != 0 && e.domain != some d
        if bad && e.domain.isSome then s.cancelSend msgid (some (statusBits 6))
        else if bad then s.mapSend msgid fun e => { e with tokens := live }
        else
          let s := s.send (s.piecePkt e 2 off t.ticket l)
          s.mapSend msgid fun e => { e with tokens := { t with got := t.got ++ [i] } :: rest, lastSent := s.ftime }

/-- The acknowledged offset of an entry (R77). -/
def ackedEnd (e : SlSend) : Nat :=
  match e.acked.find? fun r => r.1 ≤ e.start && e.start ≤ r.2 with
  | some r => max e.start r.2
  | none => e.start

/-- The saved record of an entry at a pre-emption (R78). -/
def savedRecord (e : SlSend) : Nat :=
  e.desc.toNat % 2 ^ 384 + e.msgid * 2 ^ 384 + ackedEnd e * 2 ^ 432 + 2 ^ 472

/-- A send descriptor has been read: its message is judged and started (R64, R65). One in a line with an uncorrectable error has
no stated contents (log 115). -/
def State.descRead (s : State) (msgid : Nat) (l : List PByte) : State :=
  let d : BitVec 512 := if l.any Prod.snd then s.free 310 512 else BitVec.ofNat 512 (leNat (l.map Prod.fst))
  (s.mapSend msgid fun e => { e with desc := d }).startSend msgid

/-- Read the descriptor of a send whose context has gone, with the engine, core and slot of its FRTS; a fault is held until it is
retried or aborted (R122, R406; log 98). -/
def State.readSend (s : State) (msgid engine core slot : Nat) : State :=
  match s.sendOf msgid with
  | none => s
  | some e =>
    let va := (e.descVa.getD 0).toNat
    match s.vGet (tlbOf core) e.asid va 64 with
    | (s, .error f) => (s.hold (.send msgid) f.fault false engine core slot e.asid (va + f.off) 0).1
    | (s, .ok (l, _)) => s.descRead msgid l

/-- Pre-empt the sends of a context: RETURN is sent and the record is written at `base + 64 j` (R78). -/
def State.returnSends (s : State) (c : CtxId) (base : Nat) : State :=
  let es := s.slu.sends.filter fun e => e.owner = c && (e.st == .posted || e.st == .queued)
  (List.zipIdx es).foldl (fun s x =>
    let e := x.1
    let at_ := base + 64 * x.2
    let s := s.tierWrite .reeve at_ (leBytes (savedRecord e) 64)
    let s := s.mapSend e.msgid fun e => { e with st := .returning, tokens := [], record := some at_ }
    let p := s.slPkt 7 e.dst e.msgid
    s.sendRetx p p e.msgid .ret) s

/-- End a RETURNING entry: RET_OK into its saved record (R78). -/
def State.endReturn (s : State) (msgid : Nat) (ok : Bool) : State :=
  match s.sendOf msgid with
  | none => s
  | some e =>
    let s := match e.record with
      | some a => s.tierWrite .reeve (a + 59) (leBytes (1 + 2 * ok.toNat) 1)
      | none => s
    s.freeSend msgid

/-- Post the records of a restored context again (R79), with the addresses their descriptors were read from, which the record
does not hold (R406, log 116). DESIGN CHOICE, log 104: where the rank no longer maps, the packet goes to fabric address 0; ENABLE
and the link classes, judged when the message was accepted, are not judged again. -/
def State.repostSends (s : State) (c : CtxId) (asid base : Nat) (vas : List (Option Word)) : State :=
  (List.range 8).foldl (fun s j =>
    let r := s.recNat .reeve (base + 64 * j) 64
    if !bit1 r 472 then s
    else
      let d := BitVec.ofNat 512 (r % 2 ^ 384)
      let msgid := bits r 384 48
      let (s, a) := s.rankAddr (sendRank d)
      let e : SlSend := ⟨c, asid, d, (vas[j]?).join, msgid, bits r 432 40, none, [], false, [], none, .posted, a.getD 0, s.ftime, 0, none⟩
      let s := s.setSlu fun u => { u with sends := u.sends ++ [e] }
      if bit1 r 473 then s.postSend msgid else s.cancelSend msgid none) s

/-- Cancel the sends of a saved context that is discarded (R80): the entries belong to no context. DESIGN CHOICE, log 118: each
such CANCEL has an entry in the send table, which counts in SENDS and towards the 2,048. DESIGN CHOICE, log 104: an entry that
is still RETURNING is freed at once, with its retransmission, and the CANCEL takes its place; a rank that no longer maps stands
for fabric address 0. -/
def State.discardSends (s : State) (asid base : Nat) : State :=
  (List.range 8).foldl (fun s j =>
    let r := s.recNat .reeve (base + 64 * j) 64
    if !bit1 r 472 then s
    else
      let d := BitVec.ofNat 512 (r % 2 ^ 384)
      let msgid := bits r 384 48
      let (s, a) := s.rankAddr (sendRank d)
      let e : SlSend :=
        ⟨⟨127, 0⟩, asid, d, none, msgid, 0, none, [], false, [], none, .cancelling, a.getD 0, s.ftime, 0, none⟩
      let s := (s.freeSend msgid).setSlu fun u => { u with sends := u.sends ++ [e] }
      s.cancelSend msgid none) s

/-- Forget the owner of a killed context's sends: they go on, and no context waits for them (log 20). A descriptor that is still to
be read is read now, or its held fault stays with the entry (log 98). -/
def State.orphanSends (s : State) (c : CtxId) : State :=
  let mine := s.slu.sends.filter fun e => e.owner = c
  let s := s.setSlu fun u => { u with sends := u.sends.map fun e => if e.owner = c then { e with owner := ⟨127, 0⟩ } else e }
  (mine.filter fun e => e.st == .reading).foldl (fun s e =>
    if s.isHeld (.eng c e.seq) then
      let keep := fun (h : HeldFault) => if h.holder = .eng c e.seq then { h with holder := .send e.msgid } else h
      { s with xlt := { s.xlt with held := s.xlt.held.map keep } }
    else s.readSend e.msgid ((s.ctx c).engA.any fun o => o.seq == e.seq).toNat c.core c.slot) s

/-! ### The receiver (R68 to R76) -/

/-- Put a closed entry on the closed list; the oldest makes room (R74). -/
def State.closeEntry (s : State) (src msgid : Nat) (final : Packet) : State :=
  let s := s.dropReq src msgid
  let s := if s.slu.closed.length ≥ 4096 then
      let old := s.slu.closed.head?
      let s := match old with
        | some c => if s.ftime < c.time + s.regF 0x1208 32 32 * 1000 then s.count 0x1338 else s
        | none => s
      s.setSlu fun u => { u with closed := u.closed.drop 1 }
    else s
  (s.setSlu fun u => { u with closed := u.closed ++ [⟨src, msgid, final, s.ftime⟩] }).send final

/-- The DONE packet (R66). -/
def State.donePkt (s : State) (src msgid status flags : Nat) : Packet :=
  { s.slPkt 9 src msgid with opb := BitVec.ofNat 64 flags, status := status }

/-- The RDONE increment (R74, R434). -/
def State.rdone (s : State) (va st : Nat) : State :=
  if va = 0 then s
  else
    match s.fabAsid with
    | some asid => s.objTry tlbIo asid va st
    | none => s.count 0x1340

/-- Flags of a request for DONE and for RDONE: they tell of the pieces that landed, however the request ends (R73; DESIGN
CHOICE for a request that CANCEL, a failed write or the orphan rule ends, log 104). -/
def reqFlags (r : SlReq) : Nat := r.poison.toNat * 2 + r.linkLost.toNat * 4
def reqBits (r : SlReq) : Nat := r.poison.toNat * stPoison + r.linkLost.toNat * stLinkLost

/-- Close a request if every byte of [START, LENGTH) has landed (R74). -/
def State.maybeClose (s : State) (src msgid : Nat) : State :=
  match s.reqOf src msgid with
  | none => s
  | some r =>
    if rangeSize r.landed < r.length - r.start then s
    else (s.rdone r.rdone (reqBits r)).closeEntry src msgid (s.donePkt src msgid 0 (reqFlags r))

/-- End a request with an error (R75): RDONE gains one, and DONE carries the status. -/
def State.failReq (s : State) (src msgid code : Nat) : State :=
  match s.reqOf src msgid with
  | none => s
  | some r =>
    (s.rdone r.rdone (statusBits code ||| reqBits r)).closeEntry src msgid (s.donePkt src msgid code (reqFlags r))

/-- ACCEPT (R66). -/
def State.acceptPkt (s : State) (r : SlReq) (paused : Bool) : Packet :=
  { s.slPkt 2 r.src r.msgid with
    opa := BitVec.ofNat 64 (r.msgid + s.domain * 2 ^ 48 + paused.toNat * 2 ^ 51), opb := BitVec.ofNat 64 r.ticket }

/-- Return every live token and the spillway of a request to its ungranted range (R71, R75; their order: log 119). -/
def returnTokens (r : SlReq) : SlReq :=
  let ts := r.tokens ++ r.spill.toList
  { r with ungranted := ts.foldl (fun u t => (t.lo, t.lo + t.len) :: u) r.ungranted, tokens := [], spill := none }

/-- Write a piece at its place, page by page, after every page has been checked (R73); a poisoned page discards its bytes and
says so, and bytes for a link that is down are lost (R18, R114). -/
def State.landBytes (s : State) (va : Nat) (bytes : List PByte) : State × Except Nat Met :=
  match s.targetXlate va .write with
  | (s, .error c) => (s, .error c)
  | (s, .ok p0) =>
    let k := min bytes.length (4096 - va % 4096)
    match s.targetXlate (va + bytes.length - 1) .write with
    | (s, .error c) => (s, .error c)
    | (s, .ok p1) =>
      if !s.paOk p0.pa || !s.paOk p1.pa then (s.count 0x2038, .error 5)
      else
        let (s, m0) := s.physWrite p0 (bytes.take k)
        if k = bytes.length then (s, .ok m0)
        else
          let (s, m1) := s.physWrite { p1 with pa := p1.pa / 4096 * 4096 } (bytes.drop k)
          (s, .ok (m0.add m1))

/-- A piece lands under a token or spillway (R73 to R75). `which` is the ticket, none for the spillway. -/
def State.landPiece (s : State) (r : SlReq) (t : Token) (which : Option Nat) (i : Nat) (p : Packet) : State :=
  let (off, n) := pieceOf t.lo t.len i
  let bytes := p.data.map fun b => (b, p.status == 1)
  match s.landBytes p.va bytes with
  | (s, .error c) => s.failReq r.src r.msgid c
  | (s, .ok met) =>
    let t' := { t with got := t.got ++ [i] }
    let s := s.mapReq r.src r.msgid fun r =>
      { r with landed := addRange r.landed off (off + n), poison := r.poison || p.status == 1 || met.poison
               linkLost := r.linkLost || met.lost, orphanAt := s.ftime + s.orphanNs
               tokens := match which with
                 | some k => (r.tokens.map fun x => if x.ticket = k then t' else x).filter fun x => !tokenDone x
                 | none => r.tokens
               spill := match which with
                 | some _ => r.spill
                 | none => if tokenDone t' then none else some t' }
    let s := if tokenDone t' then
        s.send { s.slPkt 5 r.src r.msgid with
          va := t.lo, opa := BitVec.ofNat 64 (r.msgid + (t.len - 1) % 65536 * 2 ^ 48)
          opb := BitVec.ofNat 64 (which.getD r.ticket) }
      else s
    s.maybeClose r.src r.msgid

/-! ### Arrivals -/

/-- MSGID of a packet. -/
def msgidOf (p : Packet) : Nat := bits p.opa.toNat 0 48
/-- Word j of a packet's data. -/
def dataWord (p : Packet) (j : Nat) : Nat := leNat ((p.data.drop (8 * j)).take 8)

/-- Take a sluice packet: ECRC, enable, form, then the rule (R46, R62, R66). -/
def State.onSluice (s : State) (p : Packet) (form : Bool) (run : State → State) : State :=
  if !s.fabricOn then s
  else if !p.crcOk then s.count 0x1110
  else if !s.pktOk p (form && p.tag == 0) then s.count 0x1138
  else if !s.slEnabled then s
  else run s

/-- Form checks of control packets (R66): data length, and the fields that must be zero. -/
def slForm (p : Packet) (len opaBits : Nat) (va opb st : Bool) : Bool :=
  p.data.length == len && p.opa.toNat < 2 ^ opaBits && (va || p.va == 0) && (opb || p.opb == 0) && (st || p.status == 0)

def execRts (p : Packet) (s : State) : Out :=
  .next <|
  s.onSluice p (slForm p 32 51 true true false && p.opb.toNat < 2 ^ 40 && dataWord p 3 == 0) fun s =>
    let id := msgidOf p
    let start := dataWord p 1
    let n := dataWord p 2
    let len := p.opb.toNat
    let spill : Option Token := if n = 0 then none else some ⟨0, start, n, s.ftime + s.tokenLife, []⟩
    match s.slu.closed.find? fun c => c.src == p.src && c.msgid == id with
    | some c => s.send c.final
    | none =>
      match s.reqOf p.src id with
      | some r =>
        -- a request with nothing left to land closes at once (R74; log 117)
        if r.st = .paused then
          let r' := { r with st := .waiting, start := start
                             ungranted := if start + n < len then [(start + n, len)] else [], spill := spill, tokens := []
                             landed := [], orphanAt := s.ftime + s.orphanNs }
          ((s.mapReq p.src id fun _ => r').send (s.acceptPkt r' false)).maybeClose p.src id
        else (s.mapReq p.src id fun r => { r with orphanAt := s.ftime + s.orphanNs }).send (s.acceptPkt r false)
      | none =>
        if s.slu.reqs.length ≥ 4096 then (s.count 0x1318).send (s.slPkt 3 p.src id)
        else
          let r : SlReq := ⟨p.src, id, bits p.opa.toNat 48 3, p.va, start, len, dataWord p 0, s.slu.ticketCtr
            , .waiting, if start + n < len then [(start + n, len)] else [], [], spill
            , [], false, false, s.ftime + s.orphanNs⟩
          ((s.setSlu fun u => { u with reqs := u.reqs ++ [r], ticketCtr := u.ticketCtr + 1 }).send (s.acceptPkt r false)).maybeClose p.src id

def execAccept (p : Packet) (s : State) : Out :=
  .next <|
  s.onSluice p (slForm p 0 52 false true false) fun s =>
    let id := msgidOf p
    let paused := bit1 p.opa.toNat 51
    match s.sendOf id with
    | none => s
    | some e =>
      match e.st, paused with
      | .posted, false | .queued, false =>
        (s.mapSend id fun e => { e with st := .queued, domain := some (bits p.opa.toNat 48 3) }).endRetx (sluiceKey id .rts)
      | .returning, false => s.endRetx (sluiceKey id .rts)
      | .returning, true => s.endReturn id true
      | _, _ => s

def execFull (p : Packet) (s : State) : Out :=
  .next <|
  s.onSluice p (slForm p 0 48 false false false) fun s =>
    let id := msgidOf p
    match s.sendOf id with
    | some e => if e.st = .posted then s.restartRetx (sluiceKey id .rts) else s
    | none => s

def execToken (p : Packet) (s : State) : Out :=
  .next <|
  s.onSluice p (slForm p 8 64 true true false) fun s =>
    let id := msgidOf p
    let t : Token := ⟨p.opb.toNat, p.va, bits p.opa.toNat 48 16 + 1, dataWord p 0, []⟩
    match s.sendOf id with
    | none => s.sendCancel p.src id 0
    | some e =>
      if t.expiry < s.ftime then s
      else if e.st = .posted ∨ e.st = .queued then
        let before := e.tokens.filter fun x => x.ticket < t.ticket
        let after := e.tokens.filter fun x => t.ticket < x.ticket
        s.mapSend id fun e => { e with st := .queued, tokens := before ++ [t] ++ after }
      else s

def execAck (p : Packet) (s : State) : Out :=
  .next <|
  s.onSluice p (slForm p 0 64 true true false) fun s =>
    let id := msgidOf p
    s.mapSend id fun e => { e with acked := addRange e.acked p.va (p.va + bits p.opa.toNat 48 16 + 1) }

/-- The final packet of a closed entry, where there is one (R74). -/
def State.answerClosed (s : State) (src id : Nat) (k : State → State) : State :=
  match s.slu.closed.find? fun c => c.src == src && c.msgid == id with
  | some c => s.send c.final
  | none => k s

def execRenew (p : Packet) (s : State) : Out :=
  .next <|
  s.onSluice p (slForm p 0 48 false false false) fun s =>
    let id := msgidOf p
    s.answerClosed p.src id fun s =>
      match s.reqOf p.src id with
      | some _ => s.mapReq p.src id fun r => { r with orphanAt := s.ftime + s.orphanNs }
      | none => s.send (s.slPkt 10 p.src id)

def execReturnPkt (p : Packet) (s : State) : Out :=
  .next <|
  s.onSluice p (slForm p 0 48 false false false) fun s =>
    let id := msgidOf p
    s.answerClosed p.src id fun s =>
      match s.reqOf p.src id with
      | some r => (s.mapReq p.src id fun r => { returnTokens r with st := .paused }).send (s.acceptPkt r true)
      | none => s.send (s.slPkt 10 p.src id)

def execCancel (p : Packet) (s : State) : Out :=
  .next <|
  s.onSluice p (slForm p 8 48 false false false) fun s =>
    let id := msgidOf p
    s.answerClosed p.src id fun s =>
      match s.reqOf p.src id with
      | some r =>
        ((s.rdone r.rdone (stCancelled ||| reqBits r)).count 0x1328).closeEntry p.src id
          (s.donePkt p.src id 0 (1 + reqFlags r))
      | none => (s.rdone (dataWord p 0) stCancelled).closeEntry p.src id (s.donePkt p.src id 0 1)

/-- Status bits DONE brings (R66, R77). -/
def doneBits (p : Packet) : Nat :=
  let f := p.opb.toNat
  statusBits p.status ||| bits f 0 1 * stCancelled ||| bits f 1 1 * stPoison ||| bits f 2 1 * stLinkLost

def execDone (p : Packet) (s : State) : Out :=
  .next <|
  s.onSluice p (slForm p 0 48 false true true && p.opb.toNat < 8) fun s =>
    let id := msgidOf p
    match s.sendOf id with
    | none => s.endRetxAll id
    | some e =>
      match e.st with
      | .cancelling => s.endSend id (stCancelled ||| e.err.getD 0)
      | .returning =>
        let s := match e.record with
          | some a => s.tierWrite .reeve (a + 59) [0]
          | none => s
        s.endSend id (doneBits p)
      | _ => s.endSend id (doneBits p)

def execPurge (p : Packet) (s : State) : Out :=
  .next <|
  s.onSluice p (slForm p 0 48 false false false) fun s =>
    let id := msgidOf p
    match s.sendOf id with
    | none => s.endRetxAll id
    | some e =>
      match e.st with
      | .posted | .queued => s.endSend id stOrphaned
      | .cancelling => s.endSend id (stCancelled ||| e.err.getD 0)
      | .returning => s.endReturn id false
      | .reading => s

/-- A data packet for a live token or spillway (R67, R69). -/
def State.dataPiece (s : State) (p : Packet) (spill : Bool) : State :=
  let id := msgidOf p
  match s.reqOf p.src id with
  | none => s.count 0x1320
  | some r =>
    let t? := if spill then r.spill else r.tokens.find? fun t => t.ticket == p.opb.toNat
    match t? with
    | none => s.count 0x1320
    | some t =>
      match (List.range (pieceCount t.len)).find? fun i => pieceOf t.lo t.len i == (p.va - r.dst, p.data.length) with
      | none => s.count 0x1138
      | some i =>
        if p.va < r.dst then s.count 0x1138
        else if t.got.contains i then s.mapReq p.src id fun r => { r with orphanAt := s.ftime + s.orphanNs }
        else s.landPiece r t (if spill then none else some t.ticket) i p

def execSpill (p : Packet) (s : State) : Out :=
  .next <|
  s.onSluice p (p.op == 1 && p.opa.toNat < 2 ^ 48 && p.opb == 0 && p.status ≤ 1) fun s => s.dataPiece p true
def execPull (p : Packet) (s : State) : Out :=
  .next <|
  s.onSluice p (p.op == 2 && p.opa.toNat < 2 ^ 48 && p.status ≤ 1) fun s => s.dataPiece p false

/-! ### Grants and timers -/

/-- Whether a request is eligible (R70). -/
def State.eligible (s : State) (r : SlReq) : Bool :=
  r.st == .waiting && !r.ungranted.isEmpty && r.tokens.length < s.regF 0x1200 26 3 + 1

/-- The order of R70. -/
def grantBefore (a b : SlReq) : Bool :=
  if a.prio != b.prio then b.prio < a.prio
  else if rangeSize a.ungranted != rangeSize b.ungranted then rangeSize a.ungranted < rangeSize b.ungranted
  else a.ticket < b.ticket

/-- The first request in an order. -/
def firstBy {α : Type} (lt : α → α → Bool) : List α → Option α
  | [] => none
  | x :: xs =>
    match firstBy lt xs with
    | none => some x
    | some y => if lt y x then some y else some x

/-- One decision of the grant scheduler (R70 to R72), at most every 4 ns: `lastGrant` is the time from which the next may be
made. -/
def execGrantDecision (s : State) : Out :=
  .next <|
  if s.ftime < s.slu.lastGrant then s
  else
  match firstBy grantBefore (s.slu.reqs.filter s.eligible) with
  | none => s
  | some r =>
    match r.ungranted with
    | [] => s
    | (lo, hi) :: more =>
      let free := (s.regF 0x1200 16 10 * 65536 - s.inUse) / 4096 * 4096
      let front := hi - lo
      let len := min (min (s.regF 0x1200 8 5 * 4096) front) free
      let s := s.setSlu fun u => { u with lastGrant := s.ftime + 4 }
      if len < min 4096 front then s.count 0x1330
      else
        let slot := slotAt s.ftime 0
        let w := if podOf r.src = podOf s.self then 0
          else (((s.meet (podOf s.self) (podOf r.src) slot).map fun t => t - slot).getD 63) * 4096
        let t : Token := ⟨s.slu.ticketCtr, lo, len, s.ftime + s.tokenLife + w, []⟩
        let rest := if lo + len < hi then (lo + len, hi) :: more else more
        let s := s.setSlu fun u => { u with ticketCtr := u.ticketCtr + 1 }
        let s := s.mapReq r.src r.msgid fun r =>
          { r with ungranted := rest, tokens := r.tokens ++ [t], st := if rest.isEmpty then .draining else .waiting }
        (s.count 0x1300).send { s.slPkt 4 r.src r.msgid with
          va := lo, opa := BitVec.ofNat 64 (r.msgid + (len - 1) * 2 ^ 48), opb := BitVec.ofNat 64 t.ticket
          data := leBytes t.expiry 8 }

/-- Tokens and the spillway of a request whose time is over (R69, R75). DESIGN CHOICE, log 119: of several ranges that return at
one moment the spillway's, then the last token's, comes to the front. -/
def execTokenExpiry (src msgid : Nat) (s : State) : Out :=
  .next <|
  match s.reqOf src msgid with
  | none => s
  | some r =>
    let gone := r.tokens.filter fun t => t.expiry ≤ s.ftime
    let sp := r.spill.toList.filter fun t => t.expiry ≤ s.ftime
    let s := (gone ++ sp).foldl (fun s _ => s.count 0x1308) s
    if (gone ++ sp).isEmpty then s
    else s.mapReq src msgid fun r =>
      { r with ungranted := (gone ++ sp).foldl (fun u t => (t.lo, t.lo + t.len) :: u) r.ungranted
               tokens := r.tokens.filter fun t => s.ftime < t.expiry
               spill := if sp.isEmpty then r.spill else none, st := .waiting }

/-- The orphan rule (R75). -/
def execOrphanTimeout (src msgid : Nat) (s : State) : Out :=
  .next <|
  match s.reqOf src msgid with
  | none => s
  | some r =>
    if s.ftime < r.orphanAt then s
    else
      let s := s.count 0x1310
      let final := s.slPkt 10 src msgid
      if r.st = .paused then (s.dropReq src msgid).send final
      else (s.rdone r.rdone (stOrphaned ||| reqBits r)).closeEntry src msgid final

/-- The sender's renewal (R77). -/
def execRenewInterval (msgid : Nat) (s : State) : Out :=
  .next <|
  match s.sendOf msgid with
  | some e =>
    if e.st = .queued ∧ e.lastSent + s.regF 0x1210 32 32 * 1000 ≤ s.ftime then
      (s.mapSend msgid fun e => { e with lastSent := s.ftime }).send (s.slPkt 6 e.dst msgid)
    else s
  | none => s

/-- A sluice packet under retransmission is given up (R77, R78). -/
def State.sluiceGiveUp (s : State) (msgid kind : Nat) : State :=
  match s.sendOf msgid with
  | none => s
  | some e =>
    match e.st, kind with
    | .posted, 0 => s.endSend msgid stLost
    | .cancelling, 2 => s.endSend msgid (stCancelled ||| stLost ||| e.err.getD 0)
    | .returning, 1 => s.endReturn msgid false
    | _, _ => s

end Sys2Proof.Machine
end

