-- ==== Sys2Proof/Machine/Join.lean ====
section
/-! DEFINITION. The reward join and the backward scan (R158 to R182). -/

namespace Sys2Proof.Machine

/-! ### The store (R158 to R160) -/

def State.jEnabled (s : State) : Bool := s.regF 0x1400 0 1 == 1
def State.slotBytes (s : State) : Nat := 2 ^ s.regF 0x1400 5 5
/-- Capacity of an episode (R158). -/
def State.epCap (s : State) : Nat := (s.slotBytes - 64) / 32
/-- Number of episode slots (R158). -/
def State.epSlots (s : State) : Nat := min (s.cfgF 608 32 * 65536 / s.slotBytes) 1048576
def State.slotPlace (s : State) (i : Nat) : Nat := s.storeBase + i * s.slotBytes

/-- The episode header and a step record as numbers, under key slot 0. -/
def State.header (s : State) (slot : Nat) : Nat := s.tierNat .reeve (s.slotPlace slot) 64
/-- A header changed in some of its fields: what its line held as poison stays poison (R14). -/
def State.setHeader (s : State) (slot h : Nat) : State :=
  { s.tierWrite .reeve (s.slotPlace slot) (leBytes h 64) with poison := s.poison }
def State.stepPlace (s : State) (slot t : Nat) : Nat := s.slotPlace slot + 64 + 32 * t
def State.stepRec (s : State) (slot t : Nat) : Nat := s.tierNat .reeve (s.stepPlace slot t) 32
def State.setStep (s : State) (slot t v : Nat) : State := s.tierWrite .reeve (s.stepPlace slot t) (leBytes v 32)
/-- The join unit writes only REWARD and RP of a step record, and the scan only ADV and RET (R159). -/
def State.putReward (s : State) (slot t r : Nat) : State :=
  let a := s.stepPlace slot t
  (s.tierWrite .reeve (a + 20) (leBytes r 4)).tierWrite .reeve (a + 11) (leBytes (putBits (s.tierNat .reeve (a + 11) 1) 1 1 1) 1)
def State.putAdv (s : State) (slot t adv ret : Nat) : State :=
  s.tierWrite .reeve (s.stepPlace slot t + 24) (leBytes (adv + ret * 2 ^ 32) 8)

/-- Header fields (R160). -/
def hExp (h : Nat) : Int := sext (bits h 96 8) 8
def hMode (h : Nat) : Nat := bits h 104 2
def hSteps (h : Nat) : Nat := bits h 128 32
def hRewards (h : Nat) : Nat := bits h 160 32
/-- FLAGS of the header: 0 INCOMPLETE, 1 SAT_IN, 2 SAT_DELTA, 3 SAT_ADV, 4 SAT_RET, 5 OVERFLOW, 6 CUT, 7 POISON. -/
def hFlag (h b : Nat) : Nat := putBits h (256 + b) 1 1
def hFlagIf (h b : Nat) (c : Bool) : Nat := if c then hFlag h b else h

/-- Bucket of a key; the hash of R161 is the finaliser of R232. -/
def bucketOf (key : Nat) : Nat := (hashFin (BitVec.ofNat 64 key)).toNat % 65536

/-- The registers of a learner queue (R180). -/
def lqReg (q : Nat) : Nat := 0x1800 + 0x40 * q

/-! ### Entries -/

def State.jEntry (s : State) (e : Nat) : Option JEntry := s.join.find? fun x => x.idx == e
def State.jKey (s : State) (key : Nat) : Option JEntry := s.join.find? fun x => x.key == key
def State.mapJ (s : State) (e : Nat) (f : JEntry → JEntry) : State :=
  { s with join := s.join.map fun x => if x.idx = e then f x else x }
/-- The handle of an entry (R162). -/
def State.handleOf (s : State) (e : Nat) : Nat := e + s.reuse.getD e 0 % 4096 * 2 ^ 20
/-- The entry a handle is current for (R162). -/
def State.current (s : State) (h : Nat) : Option JEntry :=
  match s.jEntry (bits h 0 20) with
  | some x => if s.reuse.getD x.idx 0 % 4096 = bits h 20 12 then some x else none
  | none => none

/-- The lowest number below n that a list does not hold. -/
def firstFree (used : List Nat) (n : Nat) : Option Nat :=
  (List.range (min n (used.length + 1))).find? fun i => !used.contains i

/-- Bring a reward to the episode exponent (R165). -/
def alignReward (r e exp : Int) : Int × Bool :=
  let d := e - exp
  if d ≥ 0 then let y := r * 2 ^ d.toNat; (sat y 32, sat y 32 != y)
  else (rneShr r (min (-d).toNat 63), false)

/-- A 32-bit field's bits of an integer. -/
def u32 (x : Int) : Nat := (x % 2 ^ 32).toNat
def i32 (x : Nat) : Int := sext x 32

/-- Enter DONE: the episode slot is freed and LINGER starts (R167). -/
def State.jDone (s : State) (e : Nat) : State :=
  s.mapJ e fun x => { x with st := .done, slot := none, deadline := some (s.ftime + s.regF 0x1408 32 32 * 1000) }

/-- Drop the held rewards of a key, each counted in a counter. -/
def State.dropHeld (s : State) (key ctr : Nat) : State :=
  let n := (s.orphans.filter fun o => o.key == key).length
  let s := { s with orphans := s.orphans.filter fun o => o.key != key }
  (List.range n).foldl (fun s _ => s.count ctr) s

/-- Move an entry to COMPLETE (R166). -/
def State.jComplete (s : State) (e : Nat) : State :=
  match s.jEntry e with
  | none => s
  | some x =>
    let s := s.mapJ e fun x => { x with st := .complete, completed := s.ftime, deadline := none }
    match x.slot with
    | none => s
    | some sl =>
      let h := s.header sl
      if hMode h = 1 ∧ bit1 h 264 = true then
        s.putReward sl (hSteps h - 1) (bits h 224 32)
      else s

/-- The completion test of a CLOSED entry (R166). -/
def State.jTest (s : State) (e : Nat) : State :=
  match s.jEntry e with
  | some x =>
    match x.st, x.slot with
    | .closed, some sl =>
      let h := s.header sl
      if (hMode h = 1 ∧ bit1 h 264 = true) ∨ (hMode h ≠ 1 ∧ hRewards h = hSteps h) then s.jComplete e else s
    | _, _ => s
  | none => s

/-- Store a reward in its step (R167). -/
def State.storeStep (s : State) (sl t : Nat) (r e : Int) : State :=
  let h := s.header sl
  let (v, st) := alignReward r e (hExp h)
  let s := s.putReward sl t (u32 v)
  s.setHeader sl (hFlagIf (putBits h 160 32 (hRewards h + 1)) 1 st)
/-- Store a terminal reward (R167). -/
def State.storeTerminal (s : State) (sl : Nat) (r e : Int) : State :=
  let h := s.header sl
  let (v, st) := alignReward r e (hExp h)
  s.setHeader sl (hFlagIf (putBits (putBits h 224 32 (u32 v)) 264 1 1) 1 st)

/-- Hold a reward (R163): HELD, or FULL. -/
def State.holdReward (s : State) (key step : Nat) (r e : Int) : State × Nat :=
  if s.orphans.length ≥ 65536 then (s.count 0x1538, 5)
  else
    let o : Orphan := ⟨key, step, r, e, s.ftime, s.ftime + s.regF 0x1408 0 32 * 1000⟩
    (({ s with orphans := s.orphans ++ [o] } : State).count 0x1520, 2)

/-- A reward reaches the join table: the state after, and the outcome of R168 (R167). -/
def State.reward (s : State) (key step : Nat) (r e : Int) : State × Nat :=
  if !s.jEnabled then (s.count 0x1548, 6)
  else
    match s.jKey key with
    | none => s.holdReward key step r e
    | some x =>
      match x.st, x.slot with
      | .complete, _ | .done, _ | _, none => (s.count 0x1518, 3)
      | st, some sl =>
        let h := s.header sl
        if hMode h = 1 then
          if bit1 h 264 then (s.count 0x1510, 1) else ((s.storeTerminal sl r e).jTest x.idx, 0)
        else if step < hSteps h then
          if bit1 (s.stepRec sl step) 89 then (s.count 0x1510, 1) else ((s.storeStep sl step r e).jTest x.idx, 0)
        else if step < s.epCap ∧ st = .opn then s.holdReward key step r e
        else (s.count 0x1540, 4)

/-! ### Episode operations (R167, R169, R170): the state after, and the result word -/

/-- Apply the earliest held reward a predicate names with f, and drop the others as duplicates. -/
def State.matchHeld (s : State) (p : Orphan → Bool) (f : State → Orphan → State) : State :=
  match s.orphans.filter p with
  | [] => s
  | o :: os =>
    let s := { s with orphans := s.orphans.filter fun o => !p o }
    let s := (f s o).count 0x1528
    os.foldl (fun s _ => s.count 0x1510) s

def State.epOpen (s : State) (key par : Nat) : State × Nat :=
  let res := fun (s : State) st => (s, st * 2 ^ 32)
  let mode := bits par 40 2
  let tag := bits par 42 4
  let lq := lqReg tag
  let used := s.join.filterMap fun x => x.slot
  let b := bucketOf key
  let ways := (s.join.filter fun x => x.idx / 16 == b).map fun x => x.idx % 16
  if !s.jEnabled then res s 9
  else if key = 0 ∨ mode = 3 ∨ s.reg (lq + 0x20) = 0 then res s 10
  else if (s.jKey key).isSome then res s 4
  else
    match firstFree ways 16 with
    | none => res (s.count 0x1500) 5
    | some w =>
      match firstFree used s.epSlots with
      | none => res (s.count 0x1508) 5
      | some sl =>
        if s.regF lq 0 1 = 0 then res s 6
        else
          let lim := s.regF 0x1410 0 32
          let x : JEntry := ⟨16 * b + w, key, .opn, some sl, tag,
            if lim = 0 then none else some (s.ftime + lim * 1000000), 0, false, false⟩
          let h := key + bits par 0 32 * 2 ^ 64 + bits par 32 8 * 2 ^ 96 + mode * 2 ^ 104 + tag * 2 ^ 106 + s.ftime * 2 ^ 320
          let s := ({ s with join := s.join ++ [x] } : State).tierWrite .reeve (s.slotPlace sl) (leBytes h 64)
          let s := if mode = 1 then s.matchHeld (fun o => o.key == key) fun s o => s.storeTerminal sl o.value o.exp else s
          (s, s.handleOf x.idx)

def State.epStep (s : State) (handle val act obs : Nat) : State × Nat :=
  if !s.jEnabled then (s, 9)
  else
    match s.current (bits handle 0 32) with
    | none => (s, 1)
    | some x =>
      match x.st, x.slot with
      | .opn, some sl =>
        let h := s.header sl
        let t := hSteps h
        if t = s.epCap then ((s.setHeader sl (hFlag h 5)).count 0x1570, 3)
        else
          let s := s.setStep sl t (val + bits act 0 25 * 2 ^ 64 + obs * 2 ^ 96)
          let s := s.setHeader sl (putBits h 128 32 (t + 1))
          let s := if hMode h = 1 then s
            else s.matchHeld (fun o => o.key == x.key && o.step == t) fun s o => s.storeStep sl t o.value o.exp
          (s, 0)
      | _, _ => (s, 2)

def State.epClose (s : State) (handle w : Nat) : State × Nat :=
  if !s.jEnabled then (s, 9)
  else
    match s.current (bits handle 0 32) with
    | none => (s, 1)
    | some x =>
      match x.st, x.slot with
      | .opn, some sl =>
        let h := s.header sl
        if hSteps h = 0 then ((s.jDone x.idx).count 0x1568, 0)
        else
          let kind := bits w 0 1
          let h := putBits (putBits (putBits h 110 1 kind) 192 32 (if kind = 1 then bits w 32 32 else 0)) 384 64 s.ftime
          let s := (s.setHeader sl h).dropHeld x.key 0x1540
          let len := s.regF (lqReg x.tag + 8) 32 32 * 1000
          let s := s.mapJ x.idx fun x => { x with st := .closed, deadline := some (s.ftime + len) }
          (s.jTest x.idx, 0)
      | _, _ => (s, 2)

/-! ### Learner queues (R173 to R178) -/

def State.lq (s : State) (q : Nat) : LQueue := (s.lqs.find? fun x => x.q == q).getD ⟨q, [], [], [], 1, false, false⟩
def putLq (x : LQueue) : List LQueue → List LQueue
  | [] => [x]
  | y :: ys => if x.q < y.q then x :: y :: ys else if x.q = y.q then x :: ys else y :: putLq x ys
def State.mapLq (s : State) (q : Nat) (f : LQueue → LQueue) : State := { s with lqs := putLq (f (s.lq q)) s.lqs }

/-- LQPOP (R175): the state after, the status and the descriptor. -/
def State.lqPop (s : State) (q : Nat) : State × Nat × Nat :=
  if !s.jEnabled then (s, 9, 0)
  else if s.regF (lqReg q) 0 1 = 0 then (s, 7, 0)
  else
    match (s.lq q).ready with
    | [] => (s, 7, 0)
    | d :: ds => (s.mapLq q fun x => { x with ready := ds, out := x.out ++ [d] }, 0, d.1.toNat)

/-- SEQ of a descriptor (R178). -/
def descSeq (d : BitVec 256) : Nat := bits d.toNat 160 32

/-- LQACK (R176). -/
def State.lqAck (s : State) (q sq gen : Nat) : State × Nat :=
  if !s.jEnabled then (s, 9)
  else
    let cur := s.regF (lqReg q + 0x10) 0 32
    let held := (s.lq q).out.any fun d => descSeq d.1 == bits sq 0 32
    let s := s.mapLq q fun x => { x with out := x.out.filter fun d => descSeq d.1 != bits sq 0 32 }
    let g := bits gen 0 32
    let s := if g ≠ 0 ∧ sext ((g : Int) - cur) 32 > 0 then s.setRegF (lqReg q + 0x10) 0 32 g else s
    (s, if held then 0 else 8)

/-- The head of a queue's release order, among the episodes that completed in an I/O cycle that has ended (R173). -/
def State.lqHead (s : State) (q : Nat) : Option JEntry :=
  firstBy (fun a b => if a.completed != b.completed then a.completed < b.completed else a.key < b.key)
    (s.join.filter fun x => x.tag == q && x.st == .complete && x.completed < s.ftime)

/-- Free delivery slot of a queue, the lowest (R173). -/
def State.lqSlot (s : State) (q : Nat) : Option Nat :=
  let x := s.lq q
  firstFree ((x.pend ++ x.ready ++ x.out).map Prod.snd) (s.regF (lqReg q + 0x20) 0 17)

/-- Write delivered bytes page by page, filling copy-on-write pages (R174): none where they could not all be written, else whether
a page marked poisoned discarded some (R114). -/
def State.deliver (s : State) (asid : Nat) : Nat → Nat → List PByte → State × Option Bool
  | 0, _, _ => (s, some false)
  | fuel + 1, va, bytes =>
    if bytes.isEmpty then (s, some false)
    else
      let k := min bytes.length (4096 - va % 4096)
      let go := fun (s : State) => match s.xlate tlbIo asid va .write with
        | (s, .error f) => (s, Except.error f.code)
        | (s, .ok ph) =>
          if s.paOk ph.pa then let (s, m) := s.physWrite ph (bytes.take k); (s, .ok m.poison) else (s.count 0x2038, .error 0)
      let (s, r) := match go s with
        | (s, .error 6) =>
          match s.cowResolve asid va with
          | some s => go s
          | none => (s.cowMet asid va, .error 6)
        | r => r
      match r with
      | .error _ => (s, none)
      | .ok pz =>
        let (s, r) := State.deliver s asid fuel (va + k) (bytes.drop k)
        (s, r.map fun p => p || pz)

/-- Release the head of a queue's order: staleness, then delivery (R173, R174). A head that cannot be released is
counted once. -/
def execRelease (q : KNo) (s : State) : Out :=
  .next <|
  let q := q.val
  match s.lqHead q with
  | none => s
  | some x =>
    match x.scanned, x.slot with
    | true, some sl =>
      let h := s.header sl
      match s.regF (lqReg q) 0 1, s.lqSlot q with
      | 0, _ | _, none => if x.counted then s else (s.mapJ x.idx fun x => { x with counted := true }).count 0x1578
      | _, some j =>
        let lag := sext ((s.regF (lqReg q + 0x10) 0 32 : Int) - bits h 64 32) 32
        if lag > s.regF (lqReg q) 32 32 then (s.jDone x.idx).count 0x1560
        else
          let va := s.regF (lqReg q + 0x18) 0 55 + j * s.slotBytes
          let n := 64 + 32 * hSteps h
          let a := s.slotPlace sl
          let pz := (List.range n).map fun i => lineBad s.poison (a + i) 1
          let h' := hFlagIf h 7 (pz.any id)
          let bytes := (leBytes h' 64 ++ (s.tierRead .reeve a n).drop 64).zip pz
          let met := fun (s : State) => if pz.any id then s.countUe a else s
          let asid := s.regF (lqReg q) 16 16
          match s.deliver asid (pagesOf n) va bytes with
          | (s, none) => ((met (s.jDone x.idx)).mapLq q fun l => { l with error := true }).count 0x1588
          | (s, some lost) =>
            -- lines of a page marked poisoned read as poisoned: header and descriptor say so (R114, R178)
            let h' := hFlagIf h' 7 (lost || pz.any id)
            let s := if lost then (s.deliver asid 2 va ((leBytes h' 64).zip pz)).1 else s
            let d := bits h 0 64 + hSteps h * 2 ^ 64 + bits h 64 32 * 2 ^ 96 + bits h 96 8 * 2 ^ 128 + q * 2 ^ 136
              + bits h' 256 8 * 2 ^ 140 + va * 2 ^ 192
            (met (s.jDone x.idx)).mapLq q fun l => { l with pend := l.pend ++ [(BitVec.ofNat 256 d, j)] }
    | _, _ => s

/-- The descriptor joins READY with the queue's next SEQ (R173). -/
def execDescriptorReady (q : KNo) (s : State) : Out :=
  .next <|
  match (s.lq q.val).pend with
  | [] => s
  | (d, j) :: ds =>
    let x := s.lq q.val
    let d' := BitVec.ofNat 256 (putBits d.toNat 160 32 x.seq)
    (s.mapLq q.val fun l => { l with pend := ds, ready := l.ready ++ [(d', j)], seq := (l.seq + 1) % 2 ^ 32 }).count 0x1580

/-- FLUSH (R177). -/
def execLqFlush (q : KNo) (s : State) : Out :=
  .next <|
  if (s.lq q.val).flush then s.mapLq q.val fun l => { l with ready := [], out := [], flush := false } else s

/-! ### Timers of entries (R167) -/

def due (s : State) : Option Nat → Bool
  | some d => d ≤ s.ftime
  | none => false

def execJoinTimeout (e : Nat) (s : State) : Out :=
  .next <|
  match s.jEntry e with
  | some x =>
    match x.st, x.slot, due s x.deadline with
    | .closed, some sl, true =>
      let h := s.header sl
      if hMode h = 2 then s.jComplete e
      else if s.regF (lqReg x.tag) 1 1 = 1 then (s.jDone e).count 0x1558
      else ((s.setHeader sl (hFlag h 0)).count 0x1550).jComplete e
    | _, _, _ => s
  | none => s

def execOpenLimit (e : Nat) (s : State) : Out :=
  .next <|
  match s.jEntry e with
  | some x => if x.st = .opn ∧ due s x.deadline = true then ((s.dropHeld x.key 0x1540).jDone e).count 0x1568 else s
  | none => s

def execOrphanWindowExpiry (s : State) : Out :=
  .next <|
  let n := (s.orphans.filter fun o => o.deadline ≤ s.ftime).length
  (List.range n).foldl (fun s _ => s.count 0x1530) { s with orphans := s.orphans.filter fun o => s.ftime < o.deadline }

def execLingerExpiry (e : Nat) (s : State) : Out :=
  .next <|
  match s.jEntry e with
  | some x => if x.st = .done ∧ due s x.deadline = true then
      { s with join := s.join.filter fun y => y.idx != e, reuse := s.reuse.put e ((s.reuse.getD e 0 + 1) % 4096) 0 }
    else s
  | none => s

/-! ### The backward scan (R172) -/

def rnd16 (p : Int) : Int := sat (rneShr p 16) 32

/-- Values the scan carries from step to step. -/
structure ScanAcc where
  v : Int
  a : Int
  g : Int
  delta : Bool
  adv : Bool
  ret : Bool
  poison : Bool

/-- Scan step t, with the rest of the steps below it. -/
def State.scanSteps (s : State) (sl : Nat) (gamma gl : Int) : Nat → ScanAcc → State × ScanAcc
  | 0, acc => (s, acc)
  | t + 1, acc =>
    let r := s.stepRec sl t
    let pz := lineBad s.poison (s.stepPlace sl t) 32
    let nd : Int := 1 - bits r 88 1
    let rew := i32 (bits r 160 32)
    let v := i32 (bits r 0 32)
    let x := rew + rnd16 (gamma * acc.v * nd)
    let d := sat x 32 - v
    let delta := sat d 32
    let a := delta + rnd16 (gl * acc.a)
    let g := rew + rnd16 (gamma * acc.g * nd)
    let acc := ⟨v, sat a 32, sat g 32, acc.delta || sat x 32 != x || sat d 32 != d, acc.adv || sat a 32 != a,
      acc.ret || sat g 32 != g, acc.poison || pz⟩
    let p0 := s.poison
    let s := s.putAdv sl t (u32 acc.a) (u32 acc.g)
    let s := if pz then { s with poison := p0 } else s
    State.scanSteps s sl gamma gl t acc

/-- Whether every episode that completed before an entry has been scanned: they enter the unit in that order, after the I/O cycle
of their completion (R172, R173). -/
def State.scanNext (s : State) (x : JEntry) : Bool :=
  x.completed < s.ftime && s.join.all fun y => y.st != .complete || y.scanned || x.completed ≤ y.completed

/-- Scan a COMPLETE episode, after those that completed before it (R172). -/
def execBackwardScan (e : Nat) (s : State) : Out :=
  .next <|
  match s.jEntry e with
  | some x =>
    match x.st, x.slot, !x.scanned && s.scanNext x with
    | .complete, some sl, true =>
      let h := s.header sl
      let cut := bit1 h 110
      let par := s.reg (lqReg x.tag + 8)
      let (s, a) := s.scanSteps sl (bits par 0 16) (bits par 16 16) (hSteps h)
        ⟨if cut then i32 (bits h 192 32) else 0, 0, 0, false, false, false, false⟩
      let h := hFlagIf (hFlagIf (hFlagIf (hFlagIf (hFlagIf h 2 a.delta) 3 a.adv) 4 a.ret) 6 cut) 7 a.poison
      (if a.poison then (s.setHeader sl h).countUe (s.slotPlace sl) else s.setHeader sl h).mapJ e fun x => { x with scanned := true }
    | _, _, _ => s
  | none => s

/-! ### Posts (R164, R181) -/

/-- A reward packet (R164): malformed posts count twice. -/
def execRwpostArrival (p : Packet) (s : State) : Out :=
  .next <|
  let form := p.op == 1 && p.va == 0 && bits p.opb.toNat 40 24 == 0 && p.data.length == 8 && leNat (p.data.drop 4) == 0
    && p.opa != 0
  let s := if s.fabricOn && p.crcOk && !form then s.count 0x1548 else s
  s.onRequest p form fun s => s.once p fun s =>
    let (s, o) := s.reward p.opa.toNat (bits p.opb.toNat 0 32) (i32 (leNat (p.data.take 4))) (sext (bits p.opb.toNat 32 8) 8)
    (s, s.response p 0 (BitVec.ofNat 64 o) 0 [])

/-- A host post, from the values last written (R181). -/
def execHostRewardPost (v : Word) (s : State) : Out :=
  .next <|
  let key := s.reg 0x1418
  let st := s.reg 0x1420
  if !s.served then s
  else if key = 0 ∨ bits st 40 24 ≠ 0 ∨ bits v.toNat 32 32 ≠ 0 then s.count 0x1548
  else (s.reward key (bits st 0 32) (i32 (bits v.toNat 0 32)) (sext (bits st 32 8) 8)).1

end Sys2Proof.Machine
end

