-- ==== Sys2Proof/Machine/Sched.lean ====
section
/-! DEFINITION. Task graphs, instances and launches (R94 to R98, R126 to R138, R435, R436): what the front end, the
walkers and the dispatcher share, and killing a task. -/

namespace Sys2Proof.Machine

/-! ### Graph images (R126 to R132) -/

def State.graphOf (s : State) (handle : Nat) : Option Graph := s.graphs.find? fun g => g.handle == handle
/-- A node entry: the copy of a source node, or the image in tier 1. -/
def State.nodeEntry (s : State) (g : Graph) (i : Nat) : Nat :=
  match g.copies.find? fun c => c.1 == i with
  | some c => c.2.1.toNat
  | none => s.tierNat .host (g.image + 64 + 64 * i) 64
def nodeKind (e : Nat) : Nat := bits e 0 3
def nodeSuccCount (e : Nat) : Nat := bits e 16 16
/-- Successors of a node. -/
def State.succs (s : State) (g : Graph) (i : Nat) : List Nat :=
  let e := s.nodeEntry g i
  let off := bits (s.tierNat .host g.image 64) 96 32
  (List.range (nodeSuccCount e)).map fun j => bits (s.tierNat .host (g.image + off + 2 * (bits e 32 32 + j)) 2) 0 12
/-- The launch record of a LAUNCH node. -/
def State.launchRec (s : State) (g : Graph) (i : Nat) : Nat :=
  match g.copies.find? fun c => c.1 == i with
  | some c => c.2.2.toNat
  | none => s.tierNat .host (g.image + bits (s.nodeEntry g i) 64 64) 256

/-- Launch-record fields (R131). -/
def lrImage (r rank : Nat) : Nat := if rank = 0 then bits r 0 64 else bits r (1088 + 64 * (rank - 1)) 64
def lrDims (r : Nat) : Nat := bits r 128 3 + 1
def lrGang (r : Nat) : Nat := bits r 139 2
def lrOrdered (r : Nat) : Bool := bit1 r 133
def lrTiles (r d : Nat) : Nat :=
  let t := bits r (448 + 16 * d) 16
  if t = 0 then 0 else (bits r (256 + 32 * d) 32 + t - 1) / t
def lrPerm (r j : Nat) : Nat := bits r (544 + 3 * j) 3
/-- Number of coordinates (R135). -/
def lrCount (r : Nat) : Nat := (List.range (lrDims r)).foldl (fun n d => n * lrTiles r d) 1
/-- Semaphore entry i (R132). -/
def lrSem (r i : Nat) : Nat := bits r (576 + 128 * i) 128
def semKind (e : Nat) : Nat := bits e 112 3
def semValue (e : Nat) : Nat := bits e 64 48
/-- Pipe definition n (R151). -/
def lrPipe (r n : Nat) : PipeDef :=
  let e := bits r (1280 + 64 * n) 64
  ⟨bit1 e 4, bits e 0 2, bits e 2 2, bits e 16 10, bits e 26 16⟩

/-! ### Traversal (R135) -/

/-- Bits 0, 2, 4, … of a number, packed. -/
def evenBits (m : Nat) : Nat := (List.range 17).foldl (fun x i => x + bits m (2 * i) 1 * 2 ^ i) 0

/-- morton_point: the i-th in-range point from m on. -/
def mortonFrom (nx ny : Nat) : Nat → Nat → Nat → Nat × Nat
  | 0, _, _ => (0, 0)
  | fuel + 1, m, i =>
    let x := evenBits m
    let y := evenBits (m / 2)
    if x < nx ∧ y < ny then (if i = 0 then (x, y) else mortonFrom nx ny fuel (m + 1) (i - 1))
    else mortonFrom nx ny fuel (m + 1) i

/-- The digits of q in the tile counts of the positions from j on. -/
def digitsFrom (n : Nat → Nat) : Nat → Nat → Nat → List Nat
  | 0, _, _ => []
  | left + 1, j, q => q % n j :: digitsFrom n left (j + 1) (q / n j)

/-- coord(k): the tile indices idx[0] to idx[5] (R135). -/
def coord (r k : Nat) : List Nat :=
  let rank := lrDims r
  let n := fun j => lrTiles r (lrPerm r j)
  let curve := bits r 131 2
  let d :=
    if curve = 1 then
      let p := n 0 * n 1
      let w := max (bitLen (n 0 - 1)) (bitLen (n 1 - 1))
      let (x, y) := mortonFrom (n 0) (n 1) (4 ^ w + 1) 0 (k % p)
      x :: y :: digitsFrom n (rank - 2) 2 (k / p)
    else
      let d := digitsFrom n rank 0 k
      if curve = 2 then
        (List.zipIdx d).map fun x =>
          let b := (List.range (x.2 + 1)).foldl (fun b j => b * n j) 1
          if x.2 + 1 < rank ∧ k / b % 2 = 1 then n x.2 - 1 - x.1 else x.1
      else d
  (List.range 6).map fun dim =>
    ((List.zipIdx d).find? fun x => lrPerm r x.2 == dim).elim 0 Prod.fst

/-! ### Kernel images (R133, R286) -/

/-- Image descriptor and task header of a handle in an address space, read through translation as whole numbers, wherever the
descriptor says the header lies (R286, R287); none where an uncorrectable error or a link that is down keeps them from being
read; the fault and its address otherwise. -/
def State.imageGet (s : State) (asid handle : Nat) : State × Except (Nat × XFault) (Option (Nat × Nat)) :=
  match s.vGet tlbIo asid handle 128 with
  | (s, .error f) => (s, .error (handle + f.off, f.fault))
  | (s, .ok (l, m)) =>
    if m.poison then (s, .ok none)
    else
      let d := leNat (l.map Prod.fst)
      let va := bits d 128 64
      match s.vGet tlbIo asid va 64 with
      | (s, .error f) => (s, .error (va + f.off, f.fault))
      | (s, .ok (h, m')) => (s, .ok (if m'.poison then none else some (d, leNat (h.map Prod.fst))))
/-- The images of a list of handles; none where one of them cannot be read. -/
def State.imagesGet (s : State) (asid : Nat) : List Nat → State × Except (Nat × XFault) (Option (List (Nat × Nat)))
  | [] => (s, .ok (some []))
  | h :: hs =>
    match s.imageGet asid h with
    | (s, .error f) => (s, .error f)
    | (s, .ok none) => (s, .ok none)
    | (s, .ok (some x)) =>
      match State.imagesGet s asid hs with
      | (s, .ok (some l)) => (s, .ok (some (x :: l)))
      | r => r

def imgCode (d : Nat) : Nat := bits d 64 32
def hdrSram (h : Nat) : Nat := bits h 48 11
def hdrStreams (h : Nat) : Nat := bits h 60 4
def hdrAccs (h : Nat) : Nat := bits h 64 3
def hdrSpill (h : Nat) : Nat := bits h 72 8
/-- Whether a task fits a share of z bytes (R134). -/
def fits (d h z : Nat) : Bool := 4096 * hdrSram h + 8 * hdrSpill h + imgCode d ≤ z

/-- The allowed set of a launch whose member images are known (R137). -/
def State.allowed (s : State) (r : Nat) (imgs : List (Nat × Nat)) : BitVec 24 :=
  (List.range 24).foldl (fun m p =>
    let z := s.shareOf p
    let cls := bits r 134 2
    let ok := bit1 r (160 + p) && (cls == 0 || (cls == 1 && 2 ^ 21 ≤ z) || (cls == 2 && z == 2 ^ 22))
      && imgs.all fun i => fits i.1 i.2 z
    if ok then m ||| (1#24 <<< p) else m) 0#24

/-! ### Instances -/

def State.inst (s : State) (n : Nat) : Option Inst := s.insts.find? fun i => i.num == n
def State.mapInst (s : State) (n : Nat) (f : Inst → Inst) : State :=
  { s with insts := s.insts.map fun i => if i.num = n then f i else i }
def State.mapNode (s : State) (n idx : Nat) (f : NodeSt → NodeSt) : State :=
  s.mapInst n fun i => { i with nodes := i.nodes.map fun x => if x.idx = idx then f x else x }
def Inst.nodeSt (i : Inst) (idx : Nat) : Option NodeSt := i.nodes.find? fun x => x.idx == idx
/-- The allowed set of a LAUNCH node, and the descriptor and task header of a member's image (R137, log 97). -/
def Inst.allowed (i : Inst) (node : Nat) : BitVec 24 := ((i.nodeSt node).map NodeSt.allowed).getD 0
def Inst.image (i : Inst) (node rank : Nat) : Nat × Nat :=
  ((i.nodeSt node).bind fun x => x.images[rank]?).elim (0, 0) fun x => (x.1.toNat, x.2.toNat)

/-- An address with its REL bit (R128). -/
def relAddr (args a : Nat) (rel : Bool) : Nat := if rel then args + a else a

/-- Write a completion record and raise its vector (R96, R98). -/
def State.writeRecord (s : State) (i : Inst) : State :=
  let r := i.seq + i.handle * 2 ^ 32 + i.line * 2 ^ 48 + i.status * 2 ^ 56 + i.node * 2 ^ 64 + i.preempts * 2 ^ 96
    + i.tStart * 2 ^ 128 + s.ftime * 2 ^ 192 + i.cookie * 2 ^ 256
  (s.hostWrite i.crec (leBytes r 64)).raiseIrq (i.line / 32)

/-- Write the record of an instance that has ended and has no node running, and free its number (R94, R97). -/
def State.maybeRecord (s : State) (n : Nat) (sink : Bool) : State :=
  match s.inst n with
  | none => s
  | some i =>
    if s.fatal.isSome then s
    else if sink || (i.status != 0 && i.nodes.all fun x => x.st != .started) then
      { s.writeRecord i with insts := s.insts.filter fun x => x.num != n }
    else s

/-- Free a walker whose range is done (R136). -/
def State.reapWalkers (s : State) : State :=
  { s with walkers := s.walkers.filter fun w => !(w.cursor == w.last && w.retired == w.emitted) }

/-- Free a gang area when none of its members is left (R151). -/
def State.freeAreas (s : State) (p : Nat) : State :=
  let used := (s.tasks.filter fun c => polOf c.id.core == p && c.launch.gang > 0).map fun c => c.launch.gangArea
  s.mapPol p fun x => { x with areas := x.areas.filter fun a => used.contains a.1, tried := false }

/-- What is queued for a context in its core's pipes and store path, and its steps in the array, goes. -/
def State.dropWork (s : State) (i : CtxId) : State :=
  let s := s.mapCore i.core fun k =>
    { k with pipeA := ({ k.pipeA with q := k.pipeA.q.filter fun l => l.ctx != i } : Pipe).setHead s.cycle
             pipeB := ({ k.pipeB with q := k.pipeB.q.filter fun l => l.ctx != i } : Pipe).setHead s.cycle
             store := k.store.filter fun l => l.ctx != i }
  ((s.noteHead i.core false).noteHead i.core true).mapPol (polOf i.core) fun p => { p with arr := p.arr.filter fun a => a.ctx != i }

/-- Empty a context slot: the code and address space it held are remembered for dispatch, the code only where its region was
filled (R143, R144). -/
def State.freeSlot (s : State) (i : CtxId) : State :=
  let c := s.ctx i
  let s := s.dropLease i
  let s := s.unhold fun h => match h.holder with
    | .eng c _ | .stream c _ | .overlay c | .stall c | .read c _ => c == i
    | .pipe n b => (((if b then (s.core n).pipeB else (s.core n).pipeA).q.head?).any fun l => l.ctx == i)
    | .store n => ((s.core n).store.head?).any fun x => x.ctx == i
    | .coll _ _ | .send _ => false
  let others := fun (m : List (Nat × Nat)) => m.filter fun x => x.1 != i.slot
  let keep := fun (m : List (Nat × Nat)) v => (i.slot, v) :: others m
  let s := s.mapCore i.core fun k =>
    let held := c.launch.code ≤ c.filled || (k.lastAsid.contains (i.slot, c.launch.asid) && k.lastImage.contains (i.slot, c.launch.image))
    { k with lastImage := if held then keep k.lastImage c.launch.image else others k.lastImage, lastAsid := keep k.lastAsid c.launch.asid
             run := if k.run = some i.slot then none else k.run }
  let s := s.dropWork i
  let lost := fun (r : Request) => match r.owner with
    | .late c _ | .remote c _ => c == i
    | _ => false
  let s := { s with fab := { s.fab with out := s.fab.out.map fun (r : Request) => if lost r then { r with owner := .host } else r } }
  (s.mapCtx i fun _ => Ctx.idle i).freeAreas (polOf i.core)

/-- Whether a task of a coordinate is still there: in a slot, in a queue or saved. -/
def State.coordLive (s : State) (w index : Nat) : Bool :=
  (s.tasks.any fun c => c.launch.walker == w && c.launch.index == index)
    || (s.pols.any fun p => p.runQ.any fun e => e.2.walker == w && e.2.index == index)
    || s.saves.any fun v => v.walker == w && v.index == index

/-- A tile task has ended: at the last of its coordinate, the walker's RETIRED is credited, and the SIGNAL_EACH adds are
due unless a member was killed (R132, R136, R436). -/
def State.credit (s : State) (l : Launch) (killed : Bool) : State :=
  if s.coordLive l.walker l.index then s
  else
    let s := { s with walkers := s.walkers.map fun (w : Walker) =>
      if w.num = l.walker then { w with retired := w.retired + 1 } else w }
    let due := if killed then [] else
      match s.inst l.inst with
      | some i =>
        match s.graphOf i.handle with
        | some g => ((List.range 4).filter fun k => semKind (lrSem (s.launchRec g l.node) k) == 3).map fun k => (k, 1)
        | none => []
      | none => []
    (s.mapNode l.inst l.node fun x => { x with adds := x.adds ++ due }).reapWalkers

/-- The physical address of save record i (R157). -/
def State.saveBase (s : State) (i : Nat) : Nat := s.regF 0x0800 14 38 * 2 ^ 14 + 4538368 * i

/-- Discard the saved tasks of an instance (R436): records freed, sends cancelled. -/
def State.discardSaves (s : State) (n : Nat) : State :=
  let mine := s.saves.filter fun v => v.inst == n && v.full
  let s := mine.foldl (fun s v => s.discardSends v.launch.asid (s.saveBase v.num + 0x0A00)) s
  let s := { s with saves := s.saves.filter fun v => !(v.inst == n && v.full)
                    resumeWait := s.resumeWait.filter fun e => e.inst != n
                    pols := s.pols.map fun p => { p with runQ := p.runQ.filter fun e => !(e.2.inst == n && e.2.record.isSome) } }
  (mine.filter fun v => v.rank == 0).foldl (fun s v => s.credit v.launch true) s

/-- The members of a context's gang that still hold their slots; a slot of a member that has retired may hold another task. -/
def State.gangOf (s : State) (c : Ctx) : List CtxId :=
  if c.launch.gang = 0 then [c.id]
  else c.launch.members.filter fun m =>
    let x := s.ctx m
    x.phase != .idle && x.launch.walker == c.launch.walker && x.launch.index == c.launch.index

/-- A context goes on after its stop: its sends are posted again from its save record once they have returned (R78, R79, R81,
log 98). -/
def State.sendsBack (s : State) (m : CtxId) (r : Nat) : State :=
  { s with saves := s.saves.map fun (v : Save) => if v.num = r then { v with back := some m } else v }
/-- Records kept for the sends of a context that went on and has gone now: those sends are cancelled. -/
def State.dropBack (s : State) (m : CtxId) : State :=
  let mine := s.saves.filter fun v => v.back = some m
  let s := mine.foldl (fun s v => s.discardSends v.launch.asid (s.saveBase v.num + 0x0A00)) s
  { s with saves := s.saves.filter fun v => v.back != some m }

/-- Drop the pre-emption marks of a context's gang; members that had stopped go on, and one that had not started goes back
to its start waits (R150). -/
def State.dropMarks (s : State) (c : Ctx) : State :=
  (s.gangOf c).foldl (fun s m =>
    match (s.ctx m).victim with
    | some r =>
      let lease := ((s.saves.find? fun v => v.num == r).map Save.lease).getD false
      let waits := (s.saves.find? fun v => v.num == r).any fun v => !v.launch.waits.isEmpty
      let stopped := (s.ctx m).phase == .saving
      let s := if stopped && !waits then s.sendsBack m r else { s with saves := s.saves.filter fun v => v.num != r }
      let go : Phase := if waits then .loading else .ready
      let s := s.mapCtx m fun x => { x with victim := none, phase := if stopped then go else x.phase }
      let left := ((s.ctx m).csrs csrLeaseLeft).toNat
      if lease && left != 0 then s.askLease m left else s
    | none => s) s

/-- End an instance early (R97, R436): its nodes that have not started end, its walkers stop, and its run-queue entries
and saved tasks go. The first status stands. -/
def State.endInst (s : State) (n status node : Nat) : State :=
  match s.inst n with
  | none => s
  | some i =>
    if i.status ≠ 0 then s
    else
      let s := s.mapInst n fun i =>
        { i with status := status, node := node
                 nodes := i.nodes.map fun x => if x.st = .pending ∨ x.st = .judging ∨ x.st = .ready then { x with st := .ended } else x }
      let off := fun m k => m == n && (i.nodeSt k).all fun x => x.st != .started
      let s := { s with colls := s.colls.filter fun c => !off c.inst c.node }
      let s := s.unhold fun h => match h.holder with
        | .coll m k => off m k
        | _ => false
      let dropped := fun w => ((s.pols.map fun p =>
        (p.runQ.filter fun e => e.2.inst == n && e.2.record.isNone && e.2.walker == w).length).sum)
      let s := { s with walkers := s.walkers.map fun (w : Walker) =>
        if w.inst = n then ({ w with last := w.cursor, emitted := w.emitted - dropped w.num } : Walker) else w }
      let clear := fun (p : PolderSt) =>
        { p with runQ := p.runQ.filter fun e => !(e.2.inst == n && e.2.record.isNone), tried := false }
      let s := { s with pols := s.pols.map clear }
      ((s.discardSaves n).reapWalkers).maybeRecord n false

/-- Remove one task as killed, without its gang (R148, R204). The sends it had when it stopped as a victim are cancelled, as
for a saved context (R80, R81, log 98). -/
def State.killOne (s : State) (i : CtxId) : State :=
  let c := s.ctx i
  let s := match c.victim with
    | some r =>
      let s := if c.phase == Phase.saving then s.discardSends c.launch.asid (s.saveBase r + 0x0A00) else s
      { s with saves := s.saves.filter fun v => v.num != r }
    | none => s
  ((s.dropBack i).orphanSends i |>.freeSlot i).credit c.launch true

/-- The reeve kills a task: its whole gang goes, but for members that have reached TEND, and the instance ends KILLED (R97,
R147, R148, R204, R436). What is left of the gang retires as part of a killed coordinate. -/
def State.kill (s : State) (i : CtxId) : State :=
  let c := s.ctx i
  let gang := s.gangOf c
  let who := gang.filter fun m => m = i || (s.ctx m).phase != .ended
  let s := gang.foldl (fun s m => s.mapCtx m fun x => { x with launch := { x.launch with spoilt := true } }) s
  let s := who.foldl (fun s m => s.killOne m) s
  (s.endInst c.launch.inst 2 c.launch.node)

end Sys2Proof.Machine
end

