-- ==== Sys2Proof/Machine/Ops.lean ====
section
/-! DEFINITION. Taking a trap and returning from one (R202 to R205), transfers of control with the loops they end
(R291, R299), and the static facts a slot operation asks of its context. -/

namespace Sys2Proof.Machine

/-! ### Trap causes (R202) -/

def causeIllegal : Nat := 1
def causeGated : Nat := 2
def causeXlate : Nat := 3
def causePoison : Nat := 4
def causeGap : Nat := 5
def causeBudget : Nat := 6
def causeAddress : Nat := 7
def causeStream : Nat := 8
def causeLease : Nat := 9
def causeRlimit : Nat := 10
def causeStack : Nat := 11
def causeTrap : Nat := 12
def causeDouble : Nat := 13

/-! ### Traps (R203 to R205) -/

/-- Mark the destinations of open FLDs poisoned, and their replies late (R54). -/
def Ctx.lateAll (c : Ctx) : Ctx :=
  let opn := c.late.filter fun e => e.bound.isSome
  { c with spois := opn.foldl (fun m e => if e.vec || e.reg == 0 then m else m ||| (1#32 <<< e.reg)) c.spois
           vpois := opn.foldl (fun m e => if e.vec then m ||| (1#32 <<< e.reg) else m) c.vpois
           late := c.late.map fun e => { e with bound := none, late := e.late || e.bound.isSome } }

/-- The statuses of remote operations other than FLD end at a drain point: results not yet released are written
(R405). -/
def Ctx.endStatuses (c : Ctx) : Ctx :=
  { c with k := c.remote.foldl (fun v r => match r.status, r.reg with
             | some _, some (n, x) => v.setIfInBounds n x
             | _, _ => v) c.k
           remote := c.remote.filter fun r => r.status.isNone }

/-- RFT and the reeve's resume: the next bundle is the one at TRAP_PC, IN_TRAP ends, a lease lost at entry is asked for
again, and suspended loops go on, a LOOPN with the bundle at TRAP_PC (R204, R205, R299, R300). -/
def State.rftResume (s : State) : State :=
  let st := s.cur.csrs csrTrapState
  let left := s.cur.csrs csrLeaseLeft
  let s := s.setCur fun c =>
    { c.setCsr csrTrapState (st &&& ~~~3#64) with
      pc := c.csrs csrTrapPc, npc := none, suspended := false
      nest := if c.suspended then c.nest.map fun l => { l with pc := c.csrs csrTrapPc } else c.nest }
  if st.getLsbD 1 && left != 0 then s.askLease s.cur.id left.toNat else s

/-- The reeve's part of a trap (R204): BUDGET refills while refills are left; everything else kills. -/
def State.toReeve (s : State) (cause : Nat) : State :=
  if cause = causeBudget ∧ 0 < s.cur.refills then
    ((s.setCur fun c => { c with budget := c.launch.budget, refills := c.refills - 1 }).count 0x2118).rftResume
  else s.kill s.cur.id

/-- take_trap of R203, once every exposed result has landed. -/
def State.takeTrap (s : State) (t : Trap) : State :=
  let s := if t.cause = causePoison then s.count 0x2050 else s
  let s := if t.cause = causeGap then s.count 0x2120 else s
  let s := s.setCur Ctx.lateAll
  let leased := s.cur.lease != .none
  let s := if leased then s.dropLease s.cur.id else s
  let st := s.cur.csrs csrTrapState
  let double := st.getLsbD 0
  let st' := (if leased then st ||| 2#64 else st) &&& 3#64 ||| (BitVec.ofNat 64 t.slot <<< 2)
  let s := s.setCur fun c =>
    { ((((c.setCsr csrTrapCause (BitVec.ofNat 64 (if double then causeDouble + 256 * t.cause else t.cause))).setCsr
        csrTrapPc t.pc).setCsr csrTrapVal t.val).setCsr csrTrapProg t.prog).setCsr csrTrapState st' with
      trap := none, stalled := false, npc := none
      suspended := c.suspended || c.block.isSome || c.nest.isSome }
  if double then s.toReeve causeDouble
  else
    let h := if t.cause = causePoison ∧ s.cur.csrs csrReplayVec ≠ 0 then s.cur.csrs csrReplayVec else s.cur.csrs csrTrapVec
    if t.cause = causeGap ∨ t.cause = causeBudget ∨ h = 0 then s.toReeve t.cause
    else s.setCur fun c => { c.setCsr csrTrapState (st' ||| 1#64) with pc := h }

/-- Raise a trap: issue stops, and the entry runs at once unless exposed results are in flight (R203). -/
def State.raiseAt (s : State) (t : Trap) : State :=
  let s := { s with raised := some t }
  if s.exposed s.cur then s.setCur fun c => { c with trap := some t, stalled := false } else s.takeTrap t

/-- Raise a cause that suppresses the bundle, at the bundle's own PC. -/
def State.raise (s : State) (cause : Nat) (val prog : Word) : State :=
  s.raiseAt ⟨cause, val, prog, s.slotNow, s.cur.pc⟩

/-! ### The launch's limits (R144) -/

/-- Whether a context's header allows an accumulator tile, a stream, a valid pipe. -/
def Ctx.accOk (c : Ctx) (a : AccNo) : Bool := a.val < c.launch.accs
def Ctx.qOk (c : Ctx) (q : QNo) : Bool := q.val < c.launch.streams
def Ctx.pipeOk (c : Ctx) (n : Fin 4) : Bool :=
  c.launch.gang > 0 && (c.launch.pipes[n.val]?).elim false PipeDef.valid

/-- First and last byte after the code region (R134). -/
def Ctx.inCode (c : Ctx) (pc : Nat) : Bool :=
  c.launch.share - c.launch.code ≤ pc && pc < c.launch.share && pc % 32 == 0

/-! ### Transfers (R291 to R299) -/

/-- End every active loop: LIVE is cleared, INDEX and VALUE stay (R299). -/
def Ctx.endLoops (c : Ctx) : Ctx :=
  let kill := fun (v : Vector Iter 8) (n : Nat) => v.setIfInBounds n { (v[n]?).getD Iter.zero with live := false }
  let its := match c.nest with
    | some l => (List.range l.dims).foldl (fun v i => kill v (l.first + i)) c.it
    | none => c.it
  { c with block := none, nest := none, suspended := false, it := its }

/-- Discard suspended loops before a loop instruction or TEND (R299). -/
def Ctx.dropSuspended (c : Ctx) : Ctx := if c.suspended then c.endLoops else c

/-- A transfer to a target: loops that are active end, and the next bundle is the target's (R291, R299). A target
outside the code region raises ADDRESS (R183, R291, log 22). -/
def State.jump (s : State) (target : Nat) : State :=
  if s.cur.inCode target then
    s.setCur fun c => { (if c.suspended then c else c.endLoops) with npc := some (BitVec.ofNat 64 target) }
  else s.raise causeAddress (BitVec.ofNat 64 target) 0

/-- The PC a signed bundle count away (R265). -/
def pcPlus (pc : Word) (off : Int) : Nat := (((pc.toNat : Int) + 32 * off) % 2 ^ 64).toNat

/-! ### The return stack (R209, R292) -/

/-- A return-stack entry (R292). -/
def stackEntry (pc : Nat) : Word := BitVec.ofNat 64 (pc % 2 ^ 22 + 2 ^ 63)

/-- Place of a call-spill entry in a context's share (R134, R209). -/
def Ctx.spillPlace (c : Ctx) (i : Nat) : Nat := c.place (4096 * c.launch.sram + 8 * i)

/-- Push a return PC, spilling the oldest entry when eight are on chip; STACK when the spill area is full (R209). -/
def State.pushReturn (s : State) (pc : Nat) (k : State → State) : State :=
  let c := s.cur
  let depth := (c.csrs csrSpillDepth).toNat
  if c.rstack.length < 8 then k (s.setCur fun c => { c with rstack := stackEntry pc :: c.rstack })
  else if depth ≥ c.launch.spill then s.raise causeStack 0 0
  else
    let old := (c.rstack.getLast?).getD 0
    let s := s.poke (c.spillPlace depth) (leBytes old.toNat 8)
    k (s.setCur fun c =>
      { c.setCsr csrSpillDepth (BitVec.ofNat 64 (depth + 1)) with rstack := stackEntry pc :: c.rstack.dropLast })

/-- The memory the reads of a bundle see (R184, log 10). -/
def State.loadMemory (s : State) : Memory := (s.issueMem.map Prod.fst).getD s.mem
/-- Pop a return PC, refilling the newest spilled entry; STACK when there is none (R209). -/
def State.popReturn (s : State) (k : State → Nat → State) : State :=
  let c := s.cur
  let depth := (c.csrs csrSpillDepth).toNat
  match c.rstack with
  | [] =>
    if depth = 0 then s.raise causeStack 0 0
    else
      let e := leNat (s.view s.loadMemory (c.spillPlace (depth - 1)) 8)
      k (s.setCur fun c => c.setCsr csrSpillDepth (BitVec.ofNat 64 (depth - 1))) (bits e 0 22)
  | e :: rest =>
    if depth = 0 then k (s.setCur fun c => { c with rstack := rest }) (bits e.toNat 0 22)
    else
      let back := BitVec.ofNat 64 (leNat (s.view s.loadMemory (c.spillPlace (depth - 1)) 8))
      k (s.setCur fun c => { c.setCsr csrSpillDepth (BitVec.ofNat 64 (depth - 1)) with rstack := rest ++ [back] })
        (bits e.toNat 0 22)

end Sys2Proof.Machine
end

