-- ==== Sys2Proof/Machine/Operands.lean ====
section
/-! DEFINITION. Operands: reading registers (R187 to R191), what each slot operation reads, writes and needs (R186, R202,
R264), the traps that follow, and local addresses with their loads and stores (R107, R108, R195 to R199, R313). -/

namespace Sys2Proof.Machine

/-! ### Reading registers -/

/-- The context as operands read it: as it stood at the bundle's issue (R184, log 10). -/
def State.rd (s : State) : Ctx := s.issueCur.getD s.cur
/-- An s register; while a result is in flight it is undefined (R189). -/
def State.readS (s : State) (n : Nat) : Word :=
  if n = 0 then 0 else if s.rd.sBusy n then s.free (100 + n) 64 else (s.rd.s[n]?).getD 0
/-- A predicate. -/
def State.readP (s : State) (n : Nat) : Bool :=
  if n = 0 then true else if s.rd.pBusy n then s.free (140 + n) 1 == 1 else s.rd.p.getLsbD n
/-- A vector register; undefined in flight, and in a bank that wakes (R188, R189). -/
def State.readV (s : State) (n : Nat) : VWord :=
  if s.rd.vBusy n || s.cycle < (s.rd.wake[n / 8]?).getD 0 then s.free (200 + n) 1024 else (s.rd.v[n]?).getD 0
/-- A lane mask. -/
def State.readM (s : State) (n : Nat) : MWord :=
  if n = 0 then BitVec.allOnes 128 else if s.rd.mBusy n then s.free (150 + n) 128 else (s.rd.m[n]?).getD 0
/-- A k register (R383). -/
def State.readK (s : State) (n : Nat) : Word :=
  if s.rd.kBusy n then s.free (160 + n) 64 else (s.rd.k[n]?).getD 0

/-- Whether a register that is not in flight is marked poisoned. -/
def Ctx.sPois (c : Ctx) (n : Nat) : Bool := n != 0 && !c.sBusy n && c.spois.getLsbD n
def Ctx.vPois (c : Ctx) (n : Nat) : Bool := !c.vBusy n && c.vpois.getLsbD n
/-- Whether a vector register lies in a gated bank (R188). -/
def Ctx.gated (c : Ctx) (n : Nat) : Bool := (c.csrs csrVgate).getLsbD (n / 8)

/-! ### What an operation uses -/

/-- A destination for the check of R186. -/
inductive DstName where
  | s (n : Nat) | p (n : Nat) | v (n : Nat) | m (n : Nat) | k (n : Nat) | acc (n : Nat)
  deriving DecidableEq, Repr

/-- Which operand position of a slot a vector consumer is (R186). -/
inductive VPos where
  | a | b
  deriving DecidableEq, Repr

/-- A use of a stream by a slot: its width and whether it pushes (R192). -/
structure QUse where
  q : QNo
  w : VW
  push : Bool
  deriving DecidableEq, Repr

/-- What a slot operation uses, by its encoding alone: s registers read; vector registers read through a port with
their positions; vector registers read besides (the accumulate path, MOVX); all destinations; streams popped or
pushed; accumulator tiles, streams and pipes named; and the feature it belongs to. -/
structure Uses where
  sr : List Nat
  ports : List (VPos × Nat)
  vr : List Nat
  dst : List DstName
  qs : List QUse
  accs : List AccNo
  qn : List QNo
  feat : List Nat
  deriving DecidableEq, Repr

def Uses.none : Uses := ⟨[], [], [], [], [], [], [], []⟩
def usesS (dst : List DstName) (sr : List Nat) : Uses := { Uses.none with dst := dst, sr := sr }
/-- The q number in an operand field (R269). -/
def qOf (n : Nat) : QNo := Fin.ofNat 8 n
/-- Destination names of a vector destination. -/
def vDst (str : Str) (pair : Bool) (d : Nat) : List DstName :=
  if str = .d then [] else if pair then [.v d, .v (d + 1)] else [.v d]
/-- Stream uses of a vector operation with its fields. -/
def vStreams (str : Str) (w : VW) (d a b : Nat) : List QUse :=
  match str with
  | .none => []
  | .a => [⟨qOf a, w, false⟩]
  | .b => [⟨qOf b, w, false⟩]
  | .d => [⟨qOf d, w, true⟩]
def usesTwo (o : VTwo) (pair acc : Bool) (feat : List Nat) : Uses :=
  let qs := vStreams o.str o.w o.d.val o.a.val o.b.val
  { Uses.none with
    ports := (if o.str = .a then [] else [(.a, o.a.val)]) ++ (if o.str = .b then [] else [(.b, o.b.val)])
    vr := if acc then (if pair then [o.d.val, o.d.val + 1] else [o.d.val]) else []
    dst := vDst o.str pair o.d.val, qs := qs, qn := qs.map QUse.q, feat := feat }
def usesImm (o : VImm) (feat : List Nat) : Uses :=
  let qs := vStreams o.str o.w o.d.val o.a.val 0
  { Uses.none with ports := if o.str = .a then [] else [(.a, o.a.val)], dst := vDst o.str false o.d.val, qs := qs
                   qn := qs.map QUse.q, feat := feat }
def usesOne (o : VOne) (pair : Bool) (feat : List Nat) : Uses :=
  let qs := vStreams o.str o.w o.d.val o.a.val 0
  { Uses.none with ports := if o.str = .a then [] else [(.a, o.a.val)], dst := vDst o.str pair o.d.val, qs := qs
                   qn := qs.map QUse.q, feat := feat }
def usesLdf (o : VLdf) : Uses := { Uses.none with ports := [(.a, o.a.val)], dst := [.v o.d.val] }
def usesStf (o : VStf) : Uses := { Uses.none with ports := [(.a, o.a.val), (.b, o.b.val)] }

/-- Feature numbers of R89 that operations need. -/
def fSluice : Nat := 5
def fRemote : Nat := 6
def fMessages : Nat := 7
def fReward : Nat := 8
def fShadow : Nat := 12
def fOffload : Nat := 13
def fBlock : Nat := 14
def fRfgate : Nat := 23

/-- What each slot operation uses. -/
def uses : Instr → Uses
  | .add d a b | .sub d a b | .mul d a b | .mulh d a b | .mulhn d a b | .div d a b | .divn d a b | .rem d a b
  | .remn d a b | .and d a b | .or d a b | .xor d a b | .shl d a b | .shr d a b | .shra d a b | .min d a b | .max d a b
  | .minn d a b | .maxn d a b => usesS [.s d.val] [a.val, b.val]
  | .sel d a b _ => usesS [.s d.val] [a.val, b.val]
  | .clz d a | .ctz d a | .popc d a => usesS [.s d.val] [a.val]
  | .addi d a _ | .andi d a _ | .ori d a _ | .xori d a _ => usesS [.s d.val] [a.val]
  | .shlImm d a _ | .shrImm d a _ | .shraImm d a _ => usesS [.s d.val] [a.val]
  | .ext d a _ _ _ => usesS [.s d.val] [a.val]
  | .lil d _ => usesS [.s d.val] []
  | .lih d _ => usesS [.s d.val] [d.val]
  | .pcmp pd a b _ => usesS [.p pd.val] [a.val, b.val]
  | .plog pd _ _ _ => usesS [.p pd.val] []
  | .ld d base _ _ => usesS [.s d.val] [base.val]
  | .st d base _ _ => usesS [] [d.val, base.val]
  | .ld2 d base _ => usesS [.s d.val, .s (d.val + 1)] [base.val]
  | .st2 d base _ => usesS [] [d.val, d.val + 1, base.val]
  | .movxV d r _ => { usesS [.s d.val] [] with vr := [r.val] }
  | .movxK d _ => usesS [.s d.val] []
  | .csrr d _ => usesS [.s d.val] []
  | .csrw a _ => usesS [] [a.val]
  | .rand d => usesS [.s d.val] []
  | .vmulw o => usesTwo o true false []
  | .vmac o => usesTwo o false true []
  | .vmacw o => usesTwo o true true []
  | .vadd o | .vsub o | .vadds o | .vsubs o | .vmin o | .vmax o | .vmul o | .vmulh o | .vand o | .vor o | .vxor o
  | .vshl o | .vshr o | .vshra o | .vshrrRne o | .vshrrRtz o | .vshrrRsto o | .vsel o | .vperm o | .vpack4 o =>
    usesTwo o false false []
  | .vshrsRne o | .vshrsRtz o | .vshrsRsto o | .vnarrowRne o | .vnarrowRtz o | .vnarrowRsto o | .vbcast o | .vslide o
  | .vunpack4 o => usesImm o []
  | .vbsenc o | .vbsdec o | .vsgnapply o => usesImm o [fBlock]
  | .vwiden o => usesOne o true []
  | .vneg o | .vabs o | .vredadd o | .vredmax o | .vredmin o | .vclz o | .vcensus o | .vexp2 o | .vlog2 o | .vrsqrt o
  | .vrecip o | .vgather o => usesOne o false []
  | .vsgnmap o => usesOne o false [fBlock]
  | .vscan o =>
    let qs := vStreams o.str o.w o.d.val o.a.val 0
    { Uses.none with ports := if o.str = .a then [] else [(.a, o.a.val)], dst := vDst o.str false o.d.val, qs := qs
                     qn := qs.map QUse.q }
  | .vmpop o => { Uses.none with dst := [.v o.d.val] }
  | .vcmp o =>
    let qs := vStreams o.str o.w 0 o.a.val o.b.val
    { Uses.none with
      ports := (if o.str = .a then [] else [(.a, o.a.val)]) ++ (if o.str = .b then [] else [(.b, o.b.val)])
      dst := [.m o.md.val], qs := qs, qn := qs.map QUse.q }
  | .vmlog o => { Uses.none with dst := [.m o.md.val] }
  | .vld o | .vlds o => usesLdf o
  | .vst o | .vsts o | .vscatter o => usesStf o
  | .vmovx o => { usesS [.v o.d.val] [o.sa.val] with vr := [] }
  | .vrfgate _ => { Uses.none with feat := [fRfgate] }
  | .mspec _ v => { Uses.none with ports := [(.a, v.val)] }
  | .mzero a => { Uses.none with dst := [.acc a.val], accs := [a] }
  | .mmac _ _ a => { Uses.none with dst := [.acc a.val], accs := [a] }
  | .mmacq _ _ => { Uses.none with dst := [.acc 0, .acc 1, .acc 2, .acc 3], accs := [0, 1, 2, 3] }
  | .mrdacc _ d a => { Uses.none with dst := [.acc d.val], accs := [d, a] }
  | .mshrd _ _ _ a => { Uses.none with accs := [a] }
  | .mstacc _ a => { Uses.none with accs := [a] }
  | .mldacc _ a => { Uses.none with dst := [.acc a.val], accs := [a] }
  | .mscale _ _ a => { Uses.none with dst := [.acc a.val], accs := [a] }
  | .cdesc _ _ q | .ccopya _ _ q | .cbind _ _ _ _ q | .cunbind q | .ceos q | .cidx _ q => { Uses.none with qn := [q] }
  | .cgather _ _ _ _ _ q | .cscatter _ _ _ _ _ q => { Uses.none with qn := [q] }
  | .ccnt _ d _ | .cstat _ d _ => { Uses.none with dst := [.k d.val] }
  | .publ _ _ _ => { Uses.none with feat := [fShadow] }
  | .coffl _ _ _ _ _ f _ _ => { Uses.none with feat := if f = .full then [fOffload] else [fOffload, fBlock] }
  | .crest _ _ _ _ _ f _ _ => { Uses.none with feat := if f = .full then [fOffload] else [fOffload, fBlock] }
  | .fld _ _ r vec _ => { Uses.none with dst := if vec then [.v r.val] else [.s r.val], feat := [fRemote] }
  | .fst _ _ r vec _ => { Uses.none with ports := if vec then [(.a, r.val)] else [], feat := [fRemote] }
  | .fatom _ _ _ d _ _ => { Uses.none with dst := [.k d.val], feat := [fRemote] }
  | .fcas _ _ _ d _ => { Uses.none with dst := [.k d.val], feat := [fRemote] }
  | .fwait _ d => { Uses.none with dst := [.k d.val] }
  | .fmsg _ _ _ _ _ | .fsig _ _ _ => { Uses.none with feat := [fMessages] }
  | .frts _ | .fcancel _ => { Uses.none with feat := [fSluice] }
  | .epopen _ _ d => { Uses.none with dst := [.k d.val], feat := [fReward] }
  | .epstep _ _ _ _ st => { Uses.none with dst := [.k st.val], feat := [fReward] }
  | .epclose _ _ st => { Uses.none with dst := [.k st.val], feat := [fReward] }
  | .rwpost _ _ _ o => { Uses.none with dst := [.k o.val], feat := [fReward] }
  | .lqpop _ d p _ => { Uses.none with dst := [.k d.val, .p p.val], feat := [fReward] }
  | .lqack _ _ st _ => { Uses.none with dst := [.k st.val], feat := [fReward] }
  | .loopn dims first => usesS [] ((List.range (dims.val + 1)).map fun i => 24 + first.val + i)
  | .loops _ q p => { Uses.none with dst := [.p p.val], qn := [q] }
  | _ => Uses.none

/-- CSR numbers CSRW may write (R206, R316). -/
def csrWritable (n : Nat) : Bool := n ≤ 9 || (11 ≤ n && n ≤ 13)

/-- Pairs of operand types the array accepts (R228). -/
def pairOk (a b : Elem) : Bool :=
  match a, b with
  | .i4, .i4 | .i8, .i8 | .i16, .i8 | .i16, .i16 => true
  | _, _ => false
/-- The type of a buffer as a context's array commands see it: i8 while it has not been loaded (R367). -/
def Ctx.bufType (c : Ctx) (ix : Nat) : Elem := ((c.bufT[ix]?).getD none).getD .i8

/-- The rows of R264 that depend on one operation and the context's launch. -/
def State.illegalForm (s : State) (i : Instr) : Bool :=
  let u := uses i
  let c := s.cur
  !i.wf || u.feat.any (fun f => !s.feat f) || u.accs.any (fun a => !c.accOk a) || u.qn.any (fun q => !c.qOk q) ||
    match i with
    | .fdrain | .fwait _ _ => !(s.feat fRemote || s.feat fMessages || s.feat fReward)
    | .barw n => !c.pipeOk n
    | .rft => !c.inTrap
    | .keyop _ _ | .tlbinv _ _ => !s.reeveRun
    | _ => false
/-- What is illegal besides where the operation takes effect: CSRW's number (R316), and an array command's buffer types (R367,
R368; log 83). -/
def State.illegalUse (s : State) (i : Instr) : Bool :=
  let t := s.cur.bufType
  match i with
  | .csrw _ n => !csrWritable n.toNat
  | .mmac b a _ => !pairOk (t a.toNat) (t (2 + b.toNat))
  | .mmacq _ _ => t 0 != t 1 || t 2 != t 3 || !pairOk (t 0) (t 2)
  | _ => false
/-- Whether an operation that takes effect is illegal. -/
def State.illegal (s : State) (i : Instr) : Bool := s.illegalForm i || s.illegalUse i

/-- Whether an operation names a register of a gated bank (R188). -/
def State.gatedOp (s : State) (i : Instr) : Bool :=
  let u := uses i
  let named := u.ports.map Prod.snd ++ u.vr ++ u.dst.filterMap fun d => match d with
    | .v n => some n
    | _ => none
  named.any fun n => s.rd.gated n

/-- Poison marks of an operation's sources: s registers, v registers, and heads of popped streams (R324). -/
def State.poisOp (s : State) (i : Instr) : BitVec 32 × BitVec 32 × BitVec 8 :=
  let u := uses i
  let c := s.rd
  (u.sr.foldl (fun m n => if c.sPois n then m ||| (1#32 <<< n) else m) 0,
    (u.ports.map Prod.snd ++ u.vr).foldl (fun m n => if c.vPois n then m ||| (1#32 <<< n) else m) 0,
    u.qs.foldl (fun m x => if !x.push && ((s.cur.q[x.q].entries.head?).elim false SEntry.poison)
      then m ||| (1#8 <<< x.q.val) else m) 0)

/-- Streams an operation uses: it pops, pushes, loops over, ends or gives indices to them. Operations that end or replace a
binding do not use it (DEDUCED, log 37). -/
def streamsOf (i : Instr) : List QNo :=
  match i with
  | .ceos q | .cidx _ q | .loops _ q _ => [q]
  | _ => (uses i).qs.map QUse.q

/-- A failed stream that an operation names (R193, R392). -/
def State.failedOp (s : State) (i : Instr) : Option Binding :=
  ((streamsOf i).map fun q => s.rd.q[q]).find? fun b => b.kind != .unbound && b.failed

/-- The traps of causes 1 to 4 for one operation, in priority order, around its effect (R202). A bundle's issue judges
them for all its slots before any slot; a meaning on its own judges its own. -/
def State.op (s : State) (i : Instr) (k : State → State) : State :=
  if s.illegal i then s.raise causeIllegal 0 0
  else if s.gatedOp i then s.raise causeGated 0 0
  else
    match s.rd.xlate, s.failedOp i with
    | some (v, p), _ => (s.setCur fun c => { c with xlate := none }).raise causeXlate v p
    | none, some b => s.raise causeXlate b.failVal b.failProg
    | none, none =>
      let (ps, pv, pq) := s.poisOp i
      if ps != 0 || pv != 0 || pq != 0 then
        s.raise causePoison (ps.setWidth 64) (pv.setWidth 64 ||| (pq.setWidth 64 <<< 32))
      else k s

/-- Stall the bundle (R190). -/
def State.stall (s : State) : State := s.setCur fun c => { c with stalled := true }

/-! ### Local addresses (R107, R108, R313) -/

/-- The checks of R108 on a local address for n bytes; `load` for a load, a stream read or a culvert source. -/
def State.localOk (s : State) (c : Ctx) (a n : Nat) (load : Bool) : Bool :=
  let p := bit1 a 24
  let m := bit1 a 25
  let rank := bits a 22 2
  let off := bits a 0 22
  bits a 26 6 == 0 && !(p && m) && !((p || m) && load) && !(p && (c.launch.gang == 0 || c.launch.gang < rank))
    && !(m && (rank != 0 || (s.mcw (polOf c.id.core) c.launch.asid off n).isNone)) && off + n ≤ c.launch.share

/-- SRAM places a local address stands for, at its first byte (R107). -/
def State.localPlaces (s : State) (c : Ctx) (a n : Nat) : List Nat :=
  let off := bits a 0 22
  if bit1 a 24 then [s.slotBase (c.memberOf (bits a 22 2)) + off]
  else if bit1 a 25 then
    match s.mcw (polOf c.id.core) c.launch.asid off n with
    | some r => (mcwTargets (polOf c.id.core) r).map fun i => s.slotBase i + off
    | none => []
  else [c.place off]

/-- Form the local address of a load or store from an exact sum (R313), check it and go on. -/
def State.withLocal (s : State) (x : Int) (n : Nat) (load : Bool) (k : State → Nat → State) : State :=
  if x < 0 ∨ x ≥ 2 ^ 32 then s.raise causeAddress (BitVec.ofInt 64 x) 0
  else if s.localOk s.cur x.toNat n load then k s x.toNat
  else s.raise causeAddress (BitVec.ofInt 64 x) 0

/-- The memory the loads of a bundle read, with its poison (R184, log 10). -/
def State.loadMem (s : State) : Memory × List Nat := (s.issueMem.map fun x => (x.1, x.2.1)).getD (s.mem, s.poison)

/-- Load n bytes of the share: the bytes, and whether one holds an uncorrectable error, which is counted (R314). -/
def State.loadBytes (s : State) (a n : Nat) : State × List Byte × Bool :=
  let at_ := s.cur.place (bits a 0 22)
  let (m, p) := s.loadMem
  let bad := poisonedAt p at_ n
  (if bad then s.count 0x2008 else s, s.view m at_ n, bad)

/-- Completion objects of a context whose update may still happen (R249). -/
def Ctx.objects (c : Ctx) : List Addr :=
  (c.ops.filterMap EngOp.done) ++ ((c.q.toList.filter fun b => b.kind != .unbound && !b.updated).map Binding.done)
/-- The first places of those that have no key. -/
def State.pendingAt (s : State) (c : Ctx) : List Nat :=
  c.objects.flatMap fun a => match a.place with
    | .virt => []
    | .loc => s.localPlaces c a.a 16
    | .boez => [boezemBase + a.a]
/-- A store or a copy into part of a completion object while an update to it may happen leaves the object undefined (R249, log
107). -/
def State.clobber (s : State) (a n : Nat) : State :=
  ((s.tasks.flatMap s.pendingAt).filter fun p => p < a + n && a < p + 16).foldl (fun s p => s.undefine p 16) s

/-- Whether a packet is an FSIG for this package. -/
def State.sigHere (s : State) (p : Packet) : Bool := p.cls == 9 && p.dst == s.self
/-- Completion objects of an address space at virtual addresses whose update may still happen (R249): those of C-slot operations and
streams, of sends, of SIGNAL nodes and semaphore entries, of collectives, and in the address space of the fabric those of requests
and of FSIGs on their way. -/
def State.pendingVirt (s : State) (asid : Nat) : List Nat :=
  let ctxs := ((s.tasks.filter fun c => c.launch.asid == asid).flatMap Ctx.objects).filterMap fun a =>
    if a.place = .virt then some a.a else none
  let sends := (s.slu.sends.filter fun e => e.asid == asid && e.st != .reading).map fun e => sendLdone e.desc
  let saved := (s.saves.filter fun v => v.full && v.launch.asid == asid).flatMap fun v => (List.range 8).filterMap fun j =>
    let r := s.tierNat .reeve (s.saveBase v.num + 0x0A00 + 64 * j) 64
    if bit1 r 472 then some (bits r 256 64) else none
  let nodes := s.insts.flatMap fun i => match s.graphOf i.handle with
    | some g => if g.asid != asid then [] else (i.nodes.filter fun x => x.st != .retired && x.st != .ended).flatMap fun x =>
        let e := s.nodeEntry g x.idx
        if nodeKind e = 0 then
          (((List.range 4).map fun k => lrSem (s.launchRec g x.idx) k).filter fun k => semKind k == 2 || semKind k == 3).map fun k =>
            relAddr i.args (bits k 0 64) (bit1 k 115)
        else if nodeKind e = 4 then [relAddr i.args (bits e 64 64) (bit1 e 192)] else []
    | none => []
  let colls := (s.colls.filter fun c => c.asid == asid).map fun c => bits c.desc.toNat 320 64
  let fabric := if s.fabAsid = some asid then
      s.slu.reqs.map SlReq.rdone
        ++ ((s.fab.out.map Request.pkt ++ s.fab.waiting ++ s.tasks.flatMap fun c => c.ops.filterMap fun e => match e.kind with
          | .pkt p _ => some p
          | _ => none) ++ s.inputs.filterMap fun x => match x.2 with
          | .event (.sig p) => some p
          | _ => none).filterMap fun p => if s.sigHere p then some p.va else none
    else []
  ctxs ++ sends ++ saved ++ nodes ++ colls ++ fabric
/-- The same as `clobber` for completion objects at virtual addresses of an address space. -/
def State.clobberVirt (s : State) (unit asid va n : Nat) : State :=
  ((s.pendingVirt asid).filter fun o => o < va + n && va < o + 16).foldl (fun s o => s.vUndef unit asid 2 o 16) s

/-- A store of the context itself takes effect (R195), and wins each word over peer stores that landed in this cycle
(R199). `recent` keeps the old bytes for culvert reads of the next cycles (R246). -/
def State.storeOwn (s : State) (at_ : Nat) (bytes : List Byte) : State :=
  let lo := at_ / 8 * 8
  let hi := (at_ + bytes.length + 7) / 8 * 8
  let back := s.landedNow.filter fun c => lo ≤ c.1 && c.1 < hi
  let s := { s with mem := s.mem.writeCells back, landedNow := s.landedNow.filter fun c => !(lo ≤ c.1 && c.1 < hi) }
  let old := (List.zipIdx (s.view s.mem at_ bytes.length)).map fun x => (at_ + x.2, x.1, s.cycle, s.cycle)
  ((s.poke at_ bytes).clobber at_ bytes.length).setCur fun c => { c with recent := c.recent ++ old }

/-- The bytes that stores of the executing bundle replaced. -/
def State.ownStores (s : State) : List (Nat × Byte) := (s.cur.recent.drop s.rd.recent.length).map fun r => (r.1, r.2.1)

/-- Store bytes at a checked local address: at once in the own share, 8 cycles later as a peer or multicast store
(R195, R197, R198). -/
def State.storeLocal (s : State) (a : Nat) (bytes : List Byte) : State :=
  if bit1 a 24 || bit1 a 25 then
    let cells := (s.localPlaces s.cur a bytes.length).flatMap fun b => (List.zipIdx bytes).map fun x => (b + x.2, x.1)
    let mc := if bit1 a 25 then (s.mcwNo (polOf s.cur.id.core) s.cur.launch.asid (bits a 0 22) bytes.length).map fun w => (w, cells.map Prod.fst)
      else none
    { s with peers := s.peers ++ [⟨s.cycle + 8, s.cur.id, s.cycle, cells, mc, false⟩] }
  else s.storeOwn (s.cur.place (bits a 0 22)) bytes

end Sys2Proof.Machine
end

