-- ==== Sys2Proof/Machine/Flags.lean ====
section
/-! DEFINITION. Results with their flags (R189, R207, R215, R290), and the draws of the lane hash generator (R232,
R233). -/

namespace Sys2Proof.Machine

/-- A signed and an unsigned view of a 64-bit operand (R289). -/
def sgn (w : Word) : Int := w.toInt
def uns (w : Word) : Int := w.toNat

/-- WRAP where a 64-bit wrap changed an exact result (R215). -/
def wrapFlag (y : Int) : BitVec 5 := flagIf (wrap y 64 != y) flagWrap

/-- Write an s register with its flags (R189, R207). -/
def State.putS (s : State) (lat : Nat) (d : SNo) (v : Int) (f : BitVec 5) : State :=
  (s.write lat (.s d.val (BitVec.ofInt 64 v) false)).flag lat f

/-- Quotient rounded towards zero (R309). -/
def quoT (a b : Int) : Int := Int.tdiv a b

/-- The counter value an instruction draws with; HASH_CTR rises by one (R233). -/
def State.draw (s : State) : State × Word :=
  let h := s.cur.csrs csrHashCtr
  (s.setCur fun c => c.setCsr csrHashCtr (h + 1), h)

/-- Bit-pattern comparison of PCMP (R312). -/
def condHolds (c : Cond) (a b : Word) : Bool :=
  match c with
  | .eq => a == b
  | .ne => a != b
  | .lt => sgn a < sgn b
  | .ge => sgn b ≤ sgn a
  | .ltu => uns a < uns b
  | .geu => uns b ≤ uns a

/-- Bytes and signedness of a load size (R313). -/
def memSzBytes : MemSz → Nat
  | .i8 | .n8 => 1 | .i16 | .n16 => 2 | .i32 | .n32 => 4 | .d64 => 8
def memSzVal (sz : MemSz) (x : Nat) : Int :=
  match sz with
  | .i8 => sext x 8 | .i16 => sext x 16 | .i32 => sext x 32 | .d64 => sext x 64
  | .n8 => zext x 8 | .n16 => zext x 16 | .n32 => zext x 32
def stSzBytes : StSz → Nat
  | .b1 => 1 | .b2 => 2 | .b4 => 4 | .b8 => 8

end Sys2Proof.Machine
end

