-- ==== Sys2Proof/Machine/Control.lean ====
section
/-! DEFINITION. The loop sequencer (R295 to R300), the arbiter (R145), and the meanings of the B slot (R265, R266, R291 to
R306). -/

namespace Sys2Proof.Machine

/-! ### The loop sequencer -/

/-- VALUE of an iterator (R295). -/
def iterValue (i : Iter) : Word :=
  BitVec.ofInt 64 (i.stride.toInt * (if i.dir then (i.cm1.toNat : Int) - i.index.toNat else i.index.toNat))
def Iter.at_ (i : Iter) (ix : BitVec 16) : Iter := let j := { i with index := ix }; { j with value := iterValue j }

/-- advance(f, d) of R296 over the iterators from n on: those stepped, and whether the nest goes on. -/
def advanceNest (v : Vector Iter 8) : Nat → Nat → Vector Iter 8 × Bool
  | 0, _ => (v, false)
  | left + 1, n =>
    let i := (v[n]?).getD Iter.zero
    if i.index < i.cm1 then (v.setIfInBounds n (i.at_ (i.index + 1)), true)
    else
      match advanceNest v left (n + 1) with
      | (w, true) => (w.setIfInBounds n (i.at_ 0), true)
      | (_, false) => (v, false)

/-- The PC after the bundle at pc in a context's loops, without a transfer: the loop state after it (R296 to R298). -/
def Ctx.sequence (c : Ctx) : Ctx :=
  let pc := c.pc
  let blockStep := fun (c : Ctx) =>
    match c.block with
    | some b =>
      if pc = b.pc + BitVec.ofNat 64 (32 * b.n) then
        match b.fin with
        | .passes (left + 2) => { c with block := some { b with fin := .passes (left + 1) }, pc := b.pc + 32 }
        | .passes _ => { c with block := none, pc := pc + 32 }
        | .stream _ _ => { c with pc := b.pc + 32 }
      else { c with pc := pc + 32 }
    | none => { c with pc := pc + 32 }
  match c.nest with
  | some l =>
    if pc = l.pc then
      match advanceNest c.it l.dims l.first with
      | (v, true) => { c with it := v }
      | (_, false) =>
        let off := (List.range l.dims).foldl (fun v i =>
          v.setIfInBounds (l.first + i) { (v[l.first + i]?).getD Iter.zero with live := false }) c.it
        blockStep { c with nest := none, it := off }
    else blockStep c
  | none => blockStep c

/-- Where execution goes on: at a transfer's target; after the final bundle of a LOOPS that is still active, after its body, the
LOOPN it may hold ended; else at the sequencer's next bundle (R291, R298, R299). -/
def Ctx.goOn (c : Ctx) : Ctx :=
  let next := match c.npc with
    | some t => { c with pc := t, npc := none }
    | none => if c.suspended then { c with pc := c.pc + 32 } else c.sequence
  match c.finalBundle, c.block with
  | some _, some b =>
    if b.pc = c.pc then next else { c.endLoops with pc := b.pc + BitVec.ofNat 64 (32 * (b.n + 1)), npc := none }
  | _, _ => next
/-- The bundle after this one. The final bundle of LOOPS writes its exit predicate 1, after every other write of it by that bundle, an
LQPOP's among them (R298). -/
def State.advance (s : State) : State :=
  s.setCur fun c =>
    match c.finalBundle with
    | some p => { c.goOn with
        finalBundle := none
        ep := c.ep.map fun e => if e.issued = s.cycle ∧ e.pred = p then { e with pred := 0 } else e
        writes := (c.writes.filter fun w => !sameDest w.dest (.p p false)) ++ [⟨s.cycle + 1, .p p true⟩] }
    | none => c.goOn

/-- Whether a bundle with D = 1 is a drain point: no block loop is active or suspended (R300). -/
def Ctx.drainCounts (c : Ctx) : Bool := c.block.isNone

/-! ### The arbiter (R145) -/

/-- Arbitration priority (R145, R146). -/
def arbPrio (c : Ctx) : Nat := c.launch.prio + c.launch.prom
/-- Whether a context ranks before another (R145). -/
def ranksBefore (a b : Ctx) : Bool :=
  if arbPrio a != arbPrio b then arbPrio b < arbPrio a
  else if a.launch.dispatchTime != b.launch.dispatchTime then a.launch.dispatchTime < b.launch.dispatchTime
  else a.id.slot < b.id.slot
/-- Runnable contexts of a core. -/
def State.runnable (s : State) (core : Nat) : List Ctx := s.tasks.filter fun c => c.id.core == core && c.phase == .ready

/-- A slice ends: every runnable context that issued no bundle in it advances its pass count (R146). -/
def State.endSlice (s : State) (core : Nat) : State :=
  let s := s.mapCore core fun k => { k with slicing := false }
  (s.runnable core).foldl (fun s c =>
    if c.sliceRun then s.mapCtx c.id fun c => { c with sliceRun := false }
    else if c.launch.passes + 1 < 8 then s.mapCtx c.id fun c => { c with launch := { c.launch with passes := c.launch.passes + 1 } }
    else if arbPrio c < 7 then
      (s.mapCtx c.id fun c => { c with launch := { c.launch with passes := 0, prom := c.launch.prom + 1 } }).count 0x2128
    else s.mapCtx c.id fun c => { c with launch := { c.launch with passes := 0 } }) s

/-- A slice begins: no context has issued a bundle in it yet (R146). -/
def State.beginSlice (s : State) (core : Nat) : State :=
  let s := s.mapCore core fun k => { k with sliceEnd := s.cycle + s.regF 0x0810 0 16, slicing := true }
  (s.tasks.filter fun c => c.id.core == core && c.sliceRun).foldl (fun s c => s.mapCtx c.id fun c => { c with sliceRun := false }) s

/-- arbitrate(now) of R145. Where no declared run fits, the slice ends here and the next one begins (R146). -/
def State.arbitrate (s : State) (core : Nat) : State :=
  let cand := s.runnable core
  let e := (s.core core).sliceEnd
  let setRun := fun (s : State) (r : Option Ctx) => s.mapCore core fun k => { k with run := r.map fun c => c.id.slot }
  match cand.find? fun c => c.victim.isSome with
  | some v => setRun s (some v)
  | none =>
    match firstBy ranksBefore (cand.filter fun c => s.cycle + c.launch.declared ≤ e) with
    | some c => setRun s (some c)
    | none =>
      let s := if (s.core core).slicing then s.endSlice core else s
      match firstBy ranksBefore (s.runnable core) with
      | some c =>
        setRun (s.beginSlice core) (some c)
      | none => setRun s none

/-! ### Branches, calls and returns (R291 to R294) -/

def execBnop (s : State) : Out := .next s

/-- The target of the first test that holds (R266, R294). -/
def State.brTarget (s : State) : List BTest → Option BtNo
  | [] => none
  | t :: ts => if s.readP t.p.val != t.neg then some t.x else State.brTarget s ts

def execBr (t0 t1 t2 t3 : BTest) (s : State) : Out :=
  .next (s.op (.br t0 t1 t2 t3) fun s =>
    match s.brTarget [t0, t1, t2, t3] with
    | some x => s.jump (s.cur.bt[x]).toNat
    | none => s)
def execJmp (off : BitVec 28) (s : State) : Out := .next (s.op (.jmp off) fun s => s.jump (pcPlus s.cur.pc off.toInt))

/-- A call: the push, then the transfer; neither where one of them traps (R209, R292). -/
def State.callTo (s : State) (target : Nat) : State :=
  if s.cur.inCode target then s.pushReturn (s.cur.pc.toNat + 32) fun s => s.jump target
  else s.raise causeAddress (BitVec.ofNat 64 target) 0

def execCall (off : BitVec 28) (s : State) : Out := .next (s.op (.call off) fun s => s.callTo (pcPlus s.cur.pc off.toInt))
def execCalli (bt : BtNo) (s : State) : Out := .next (s.op (.calli bt) fun s => s.callTo (s.cur.bt[bt]).toNat)
def execRet (s : State) : Out :=
  .next (s.op .ret fun s =>
    let c0 := s
    s.popReturn fun s target =>
      if s.cur.inCode target then s.jump target else c0.raise causeAddress (BitVec.ofNat 64 target) 0)
def execSetbt (bt : BtNo) (off : BitVec 25) (s : State) : Out :=
  .next (s.op (.setbt bt off) fun s =>
    s.setCur fun c => { c with bt := c.bt.set bt (BitVec.ofNat 22 (pcPlus s.cur.pc off.toInt)) })

/-! ### Loops (R296 to R299) -/

/-- End the loops R299 ends before a new loop starts. -/
def Ctx.beforeLoop (c : Ctx) (nests : Bool) : Ctx :=
  if c.suspended then c.endLoops
  else if nests then c
  else if c.block.isSome || c.nest.isSome then c.endLoops
  else c

/-- An iterator from its configuration word (R296). -/
def iterOf (w : Word) : Iter :=
  ({ value := 0, index := 0, cm1 := w.extractLsb' 0 16, stride := w.extractLsb' 16 30, live := true, dir := w.getLsbD 46 }
    : Iter).at_ 0

def execLoopn (dims : Fin 4) (first : ItNo) (s : State) : Out :=
  .next (s.op (.loopn dims first) fun s =>
    let c := s.cur
    let inBody := match c.block with
      | some b => c.pc != b.pc + BitVec.ofNat 64 (32 * b.n)
      | none => false
    let words := (List.range (dims.val + 1)).map fun i => s.readS (24 + first.val + i)
    s.setCur fun c =>
      let c := c.beforeLoop (inBody && c.nest.isNone)
      let v := (List.zipIdx words).foldl (fun v x => v.setIfInBounds (first.val + x.2) (iterOf x.1)) c.it
      { c with it := v, nest := some ⟨c.pc + 32, first.val, dims.val + 1⟩, npc := some (c.pc + 32) })
def execLoopb (n : Fin 64) (count : BitVec 22) (s : State) : Out :=
  .next (s.op (.loopb n count) fun s =>
    s.setCur fun c => { c.beforeLoop false with
      block := some ⟨c.pc, n.val + 1, .passes count.toNat⟩, npc := some (c.pc + 32) })
def execLoops (n : Fin 64) (q : QNo) (p : PNo) (s : State) : Out :=
  .next (s.op (.loops n q p) fun s =>
    let k := (s.cur.q[q]).kind
    if k != .read && k != .gather then s.raise causeStream 0 0
    else (s.setCur fun c => { c.beforeLoop false with
      block := some ⟨c.pc, n.val + 1, .stream q p⟩, npc := some (c.pc + 32) }).write 1 (.p p.val false))

/-! ### Yield, end and traps (R301 to R304) -/

/-- YRUN takes effect after its bundle, as TRAP does: the context ranks with the promotion it has once the bundle has issued (R145,
R146, R301). -/
def execYrun (n : BitVec 28) (s : State) : Out :=
  .next (s.op (.yrun n) fun s =>
    (s.setCur fun c => { c with launch := { c.launch with declared := n.toNat } }).arbitrate s.cur.id.core)
/-- Members whose mark was dropped issue again at once on a core that issues nothing (R145, R150). -/
def State.wakeMembers (s : State) (who : List CtxId) : State :=
  who.foldl (fun s m => if (s.ctx m).phase == .ready && (s.core m.core).run.isNone then s.arbitrate m.core else s) s
def execTend (s : State) : Out :=
  .next (s.op .tend fun s => (((s.dropMarks s.cur).wakeMembers (s.gangOf s.cur)).setCur fun c => { c.endLoops with phase := .ended }).arbitrate s.cur.id.core)

/-- TRAP, after its bundle has taken effect: the step runs it once the PC has advanced, so that TRAP_PC is the next
bundle (R299, R303). -/
def execTrap (code : BitVec 8) (s : State) : Out :=
  .next (s.op (.trap code) fun s => s.raise causeTrap (code.setWidth 64) 0)

def execRft (s : State) : Out :=
  .next (s.op .rft fun s =>
    let target := s.cur.csrs csrTrapPc
    if s.cur.inCode target.toNat then
      let pc := s.cur.pc
      let s := s.setCur fun c => if c.suspended then c else c.endLoops
      s.rftResume.setCur fun c => { c with pc := pc, npc := some target }
    else s.raise causeAddress target 0)

/-! ### Semaphore and barrier waits (R305, R306) -/

def execSemw (it : ItNo) (off : BitVec 22) (s : State) : Out :=
  .next (s.op (.semw it off) fun s =>
    if s.localOk s.cur off.toNat 16 true then
      let a := s.cur.place off.toNat
      let (m, p) := s.loadMem
      if poisonedAt p a 8 then (if s.cur.stalled then s else s.count 0x2008).stall
      else if (s.cur.it[it]).value.toNat ≤ leNat (s.view m a 8) then s
      else s.stall
    else s.raise causeAddress (off.setWidth 64) 0)

/-- Change a pipe register of a context's gang (R151). -/
def State.mapPipe (s : State) (i : CtxId) (n : Nat) (f : PipeReg → PipeReg) : State :=
  let area := (s.ctx i).launch.gangArea
  let upd := fun (l : List PipeReg) => (List.zipIdx l).map fun x => if x.2 = n then f x.1 else x.1
  s.mapPol (polOf i.core) fun p => { p with areas := p.areas.map fun a => if a.1 = area then (a.1, upd a.2) else a }
def State.pipeReg (s : State) (c : Ctx) (n : Nat) : PipeReg :=
  (((s.pol (polOf c.id.core)).areas.find? fun a => a.1 == c.launch.gangArea).bind fun a => a.2[n]?).getD ⟨0, 0, 0, 0, false, 0, 0⟩

/-- The barrier (R256, R306): a member arrives, and when all have arrived on the pipe and no peer store that a member issued in an
earlier cycle is in flight, PHASE inverts and every member is released in that cycle. `barrier` holds the pipe, and 1 once released, 2 if its bundle could not issue then. -/
def execBarw (pipe : Fin 4) (s : State) : Out :=
  .next (s.op (.barw pipe) fun s =>
    let me := s.cur
    match me.barrier with
    | some (_, _ + 1) => s.setCur fun c => { c with barrier := none }
    | _ =>
      let s := s.setCur fun c => { c with barrier := some (pipe.val, 0) }
      let all := me.launch.members.all fun m => (s.ctx m).barrier == some (pipe.val, 0)
      let flying := s.peers.any fun p => me.launch.members.contains p.src && p.issued < s.cycle
      if all && !flying then
        let s := me.launch.members.foldl (fun s m => s.mapCtx m fun c => { c with barrier := some (pipe.val, 1) }) s
        (s.mapPipe me.id pipe.val fun r => { r with phase := 1 - r.phase }).setCur fun c => { c with barrier := none }
      else s.stall)

end Sys2Proof.Machine
end

