-- ==== Sys2Proof/Machine/Streams.lean ====
section
/-! DEFINITION. Streams as the slots see them: pops, pushes and the end-of-stream token (R192, R193, R298, R392 to R395),
patterns (R388) and the pipes of a gang (R151, R394). -/

namespace Sys2Proof.Machine

/-! ### Patterns (R388) -/

def patAddr (p : Nat) : Nat := bits p 0 55
def patBz (p : Nat) : Bool := bit1 p 55
def patLocal (p : Nat) : Bool := bit1 p 64
def patTdv (p : Nat) : Bool := bit1 p 65
def patTdLocal (p : Nat) : Bool := bit1 p 66
def patType (p : Nat) : Nat := bits p 67 3
def patPipe (p : Nat) : Bool := bit1 p 70
def patRun (p : Nat) : Nat := bits p 72 24
def patCnt1 (p : Nat) : Nat := bits p 96 16
def patCnt2 (p : Nat) : Nat := bits p 112 16
def patCnt3 (p : Nat) : Nat := bits p 128 16
def patStride (p lo : Nat) : Int := sext (bits p lo 32) 32
def patTdesc (p : Nat) : Nat := bits p 256 64
/-- T, the bytes of the sequence. -/
def patTotal (p : Nat) : Nat := patRun p * patCnt1 p * patCnt2 p * patCnt3 p

/-- Byte j of the sequence, before the final reduction. -/
def patSum (p j : Nat) : Int :=
  let r := j % patRun p
  let u := j / patRun p
  (patAddr p : Int) + r + (u % patCnt1 p : Nat) * patStride p 144 + (u / patCnt1 p % patCnt2 p : Nat) * patStride p 176
    + (u / (patCnt1 p * patCnt2 p) : Nat) * patStride p 208

/-- Which kind of place a pattern names, and the address of byte j. -/
def patPlace (p : Nat) : Place := if !patLocal p then .virt else if patBz p then .boez else .loc
def placeBits : Place → Nat
  | .virt => 64
  | .loc => 32
  | .boez => 28
def patAt (p j : Nat) : Addr := ⟨patPlace p, (patSum p j % 2 ^ placeBits (patPlace p)).toNat⟩

/-! ### Pipes (R151, R394) -/

/-- The pipe number of a pipe pattern, and its definition in the launch. -/
def patPipeNo (p : Nat) : Nat := bits p 0 2
def Ctx.pipeDef (c : Ctx) (n : Nat) : PipeDef := (c.launch.pipes[n]?).getD ⟨false, 0, 0, 0, 0⟩
/-- The place of a pipe's ring. -/
def Ctx.pipeBase (c : Ctx) (n : Nat) : Nat :=
  areaBase (polOf c.id.core) c.launch.gangArea
    + (((c.launch.pipes.take n).filter PipeDef.valid).map fun d => 64 * d.slotSize * d.slots).sum
/-- Entries of E bytes in one slot. -/
def PipeDef.per (d : PipeDef) (e : Nat) : Nat := d.slotSize * 64 / e
/-- The start of the slot after the one at an offset. -/
def PipeDef.next (d : PipeDef) (off : Nat) : Nat :=
  let z := 64 * d.slotSize
  if z = 0 then 0 else (off / z + 1) % d.slots * z

/-! ### Entries -/

/-- Bytes of an entry (R392). -/
def Binding.eBytes (b : Binding) : Nat := b.w.bits / 8
/-- Entries of a memory stream before its token: ceil(T / E). -/
def Binding.count (b : Binding) : Nat := (patTotal b.pat.toNat + b.eBytes - 1) / b.eBytes
def Binding.pipe (b : Binding) : Bool := patPipe b.pat.toNat && (b.kind == .read || b.kind == .write)

/-- The ring offset of entry e of a consumer's pipe: `head` is the slot being read. -/
def pipeAt (d : PipeDef) (r : PipeReg) (eb pos e : Nat) : Nat :=
  let n := d.per eb
  if n = 0 then 0 else
    ((List.range (e / n - pos / n)).foldl (fun o _ => d.next o) r.head) + e % n * eb
/-- Whether entry e of a consumer's pipe has been published. -/
def pipeHas (d : PipeDef) (r : PipeReg) (eb pos e : Nat) : Bool :=
  let n := d.per eb
  n != 0 && e / n - pos / n < r.pub && !(r.fin && e / n - pos / n + 1 == r.pub && pipeAt d r eb pos e == r.finPos && e % n != 0)

/-- Whether the next entry of a stream is the token (R392, R394, R395). -/
def State.atToken (s : State) (c : Ctx) (b : Binding) : Bool :=
  b.entries.isEmpty && b.pend.isNone &&
    if b.kind = .gather then b.idxEnd && b.idx.isEmpty
    else if b.pipe then
      let r := s.pipeReg c (patPipeNo b.pat.toNat)
      r.fin && r.pub == 0
    else b.token || b.count ≤ b.pos

/-- A consumer has popped an entry of a slot: with the slot's last entry, FREE rises and HEAD moves on (R394). -/
def pipePopped (d : PipeDef) (eb pos : Nat) (r : PipeReg) : PipeReg :=
  let n := d.per eb
  let last := n != 0 && ((pos + 1) % n == 0 || (r.fin && r.pub == 1 && (r.head + (pos % n + 1) * eb) == r.finPos))
  if last then { r with head := d.next r.head, free := r.free + 1, pub := r.pub - 1 } else r

/-- Take the head entry of a stream. -/
def State.takeEntry (s : State) (q : QNo) (rest : List SEntry) : State :=
  let b := s.cur.q[q]
  let s := if b.pipe then
      let n := patPipeNo b.pat.toNat
      s.mapPipe s.cur.id n (pipePopped (s.cur.pipeDef n) b.eBytes b.pos)
    else s
  s.setCur fun c => { c with q := c.q.set q { b with
    entries := rest, pos := b.pos + 1, idx := b.idx.drop 1, idxUsed := b.idxUsed - 1 } }

/-- Pop an entry of a width and go on with its data; the token ends a LOOPS body that names the stream, and the slot is a
no-op (R193, R298). -/
def State.pop (s : State) (q : QNo) (w : VW) (k : State → VWord → State) : State :=
  let b := s.cur.q[q]
  if (b.kind != .read && b.kind != .gather) || b.w != w then s.raise causeStream 0 0
  else
    match b.entries with
    | e :: rest => k (s.takeEntry q rest) e.data
    | [] =>
      if s.atToken s.cur b then
        let exit := if s.cur.suspended then none else s.cur.block.bind fun l => match l.fin with
          | .stream q' p => if q' = q then some p.val else none
          | .passes _ => none
        if exit.isSome then s.setCur fun c => { c with finalBundle := exit } else s.raise causeStream 0 0
      else s.stall

/-- Entries pushed into a pipe of a context and not yet written. -/
def Ctx.pipeQueued (c : Ctx) (n : Nat) : Nat :=
  let of := fun (b : Binding) => if b.kind == .write && b.pipe && patPipeNo b.pat.toNat == n then b.entries.length else 0
  ((c.q.toList.map of) ++ c.ops.map fun (e : EngOp) => match e.kind with
    | .closing b => of b
    | _ => 0).sum

/-- Push an entry whose contents the culvert has after `lat` cycles (R192, R193, R325, R392, R394). -/
def State.push (s : State) (q : QNo) (w : VW) (lat : Nat) (data : VWord) (poison : Bool) : State :=
  let b := s.cur.q[q]
  let full := if b.kind = .write ∧ b.pipe = false ∧ b.pend.isNone = true then b.count ≤ b.fetched else false
  if (b.kind != .write && b.kind != .scatter) || b.w != w || b.ended || full then s.raise causeStream 0 0
  else if 8 ≤ b.entries.length || b.pend.isSome then s.stall
  else
    let n := patPipeNo b.pat.toNat
    let d := s.cur.pipeDef n
    let per := d.per b.eBytes
    let inSlot := (s.pipeReg s.cur n).tail % (64 * d.slotSize) / b.eBytes + s.cur.pipeQueued n
    let fresh := b.pipe && (per == 0 || inSlot % per == 0)
    if fresh && (s.pipeReg s.cur n).free == 0 then s.stall
    else
      let s := if fresh then s.mapPipe s.cur.id n fun r => { r with free := r.free - 1 } else s
      s.setCur fun c => { c with q := c.q.set q { b with
        entries := b.entries ++ [⟨data, poison, s.cycle + lat, s.cycle, s.cur.racing s.cycle []⟩], fetched := b.fetched + 1, last := s.cycle } }

end Sys2Proof.Machine
end

