-- ==== Sys2Proof/Machine/Vector.lean ====
section
/-! DEFINITION. The vector slots (R320 to R354): lanes, masks and results, and the meaning of every operation but the memory
accesses. -/

namespace Sys2Proof.Machine

/-! ### Lanes (R320 to R323) -/

/-- Lane i of width n, as a bit pattern. -/
def lane (x n i : Nat) : Nat := bits x (n * i) n
/-- Lanes of width n as one number, lane 0 lowest. -/
def packLanes (n : Nat) : List Nat → Nat
  | [] => 0
  | r :: rs => r % 2 ^ n + 2 ^ n * packLanes n rs
/-- A pattern of a result. -/
def pat (y : Int) (n : Nat) : Nat := (y % 2 ^ n).toNat
/-- Whether lane i of width n is active (R321). -/
def laneOn (m : MWord) (n i : Nat) : Bool := m.getLsbD (i * n / 8)

/-- A lane result with its flags. -/
abbrev LaneRes := Int × BitVec 5
/-- Flags of the active lanes. -/
def laneFlags (on : Nat → Bool) (rs : List LaneRes) : BitVec 5 :=
  (List.zipIdx rs).foldl (fun f x => if on x.2 then f ||| x.1.2 else f) 0

/-- put for every lane of width m (R322), on the old value `old`. -/
def putAll (m : Nat) (on : Nat → Bool) (zero : Bool) (old : Nat) (rs : List LaneRes) : Nat :=
  packLanes m ((List.zipIdx rs).map fun x => if on x.2 then pat x.1.1 m else if zero then 0 else lane old m x.2)

/-- Bits [W − 1:0] of a destination register replaced (R320). -/
def putLow (old : VWord) (w x : Nat) : VWord := BitVec.ofNat 1024 (old.toNat / 2 ^ w * 2 ^ w + x % 2 ^ w)

/-- Write W bits to the destination: a register, or an entry pushed (R193, R325). -/
def State.putW (s : State) (lat : Nat) (str : Str) (w : VW) (d : VNo) (x : Nat) (f : BitVec 5) : State :=
  if str = .d then (s.push (qOf d.val) w lat (BitVec.ofNat 1024 (x % 2 ^ w.bits)) false).flag lat f
  else (s.write lat (.v d.val (putLow (s.readV d.val) w.bits x) false)).flag lat f

/-- Whether a lane operation writes a register: some lane is active, or .z zeroes the others (R354). -/
def writesLanes (z : Bool) (on : Nat → Bool) (n : Nat) : Bool := z || (List.range n).any on

/-- Write lane results of width m with put. With no active lane and without .z no register is written (R354). -/
def State.putRes (s : State) (lat : Nat) (str : Str) (w : VW) (d : VNo) (z : Bool) (m : Nat) (on : Nat → Bool)
    (rs : List LaneRes) : State :=
  if str != .d && !writesLanes z on rs.length then s
  else s.putW lat str w d (putAll m on (z || str == .d) (s.readV d.val).toNat rs) (laneFlags on rs)

/-- Write the lane results of a widening operation to the pair D, D + 1 (R323). -/
def State.putPair (s : State) (lat : Nat) (w : VW) (d : VNo) (z : Bool) (m : Nat) (on : Nat → Bool) (rs : List LaneRes) :
    State :=
  let h := rs.length / 2
  let lo := putAll m on z (s.readV d.val).toNat (rs.take h)
  let hi := putAll m (fun i => on (i + h)) z (s.readV (d.val + 1)).toNat (rs.drop h)
  let a := putLow (s.readV d.val) w.bits lo
  let b := putLow (s.readV (d.val + 1)) w.bits hi
  if writesLanes z on rs.length then
    ((s.write lat (.v d.val a false)).write lat (.v (d.val + 1) b false)).flag lat (laneFlags on rs)
  else s

/-- A source: a register, or the entry popped for the position the stream selector names. -/
def State.src (s : State) (str me : Str) (w : VW) (n : VNo) (k : State → Nat → State) : State :=
  if str = me then s.pop (qOf n.val) w fun s v => k s v.toNat else k s (s.readV n.val).toNat

/-! ### Shapes of operations -/

/-- A lane-wise operation of two sources: f takes the lane index and both patterns. -/
def State.vTwo (s : State) (i : Instr) (o : VTwo) (lat : Nat) (f : Nat → Nat → Nat → LaneRes) : State :=
  s.op i fun s => s.src o.str .a o.w o.a fun s x => s.src o.str .b o.w o.b fun s y =>
    let n := o.t.size
    let on := laneOn (s.readM o.m.val) n
    s.putRes lat o.str o.w o.d o.z n on ((List.range (lanes o.w o.t)).map fun i => f i (lane x n i) (lane y n i))

/-- A lane-wise operation of one source. -/
def State.vOne (s : State) (i : Instr) (o : VOne) (lat : Nat) (f : Nat → LaneRes) : State :=
  s.op i fun s => s.src o.str .a o.w o.a fun s x =>
    let n := o.t.size
    s.putRes lat o.str o.w o.d o.z n (laneOn (s.readM o.m.val) n) ((List.range (lanes o.w o.t)).map fun i => f (lane x n i))

/-- A lane-wise operation of one source and an immediate: f takes the lane index and the source's lanes. -/
def State.vImm (s : State) (i : Instr) (o : VImm) (lat : Nat) (f : Nat → (Nat → Nat) → LaneRes) : State :=
  s.op i fun s => s.src o.str .a o.w o.a fun s x =>
    let n := o.t.size
    let on := laneOn (s.readM o.m.val) n
    s.putRes lat o.str o.w o.d o.z n on ((List.range (lanes o.w o.t)).map fun i => f i (lane x n))

/-- A whole operation of one source, which writes all W bits (R322). -/
def State.vWhole (s : State) (i : Instr) (o : VOne) (lat : Nat) (f : (Nat → Bool) → List Nat → Nat × BitVec 5) : State :=
  s.op i fun s => s.src o.str .a o.w o.a fun s x =>
    let n := o.t.size
    let r := f (laneOn (s.readM o.m.val) n) ((List.range (lanes o.w o.t)).map (lane x n))
    s.putW lat o.str o.w o.d r.1 r.2

/-- A widening operation (R323): f takes both lane values and the destination lane read as twice(t). -/
def State.vWide (s : State) (i : Instr) (o : VTwo) (f : Int → Int → Int → LaneRes) : State :=
  s.op i fun s => s.src o.str .a o.w o.a fun s x => s.src o.str .b o.w o.b fun s y =>
    let n := o.t.size
    let l := lanes o.w o.t
    let d0 := (s.readV o.d.val).toNat
    let d1 := (s.readV (o.d.val + 1)).toNat
    let dl := fun i => valT (twiceT o.t) (if i < l / 2 then lane d0 (2 * n) i else lane d1 (2 * n) (i - l / 2))
    s.putPair 5 o.w o.d o.z (2 * n) (laneOn (s.readM o.m.val) n)
      ((List.range l).map fun i => f (valT o.t (lane x n i)) (valT o.t (lane y n i)) (dl i))

/-! ### Arithmetic (R327, R328) -/

def execVnop (s : State) : Out := .next s

/-- A value result without flags. -/
def plain (y : Int) : LaneRes := (y, 0)

def execVadd (o : VTwo) (s : State) : Out :=
  .next (s.vTwo (.vadd o) o 2 fun _ a b => fitF o.t (valT o.t a + valT o.t b))
def execVsub (o : VTwo) (s : State) : Out :=
  .next (s.vTwo (.vsub o) o 2 fun _ a b => fitF o.t (valT o.t a - valT o.t b))
def execVadds (o : VTwo) (s : State) : Out :=
  .next (s.vTwo (.vadds o) o 2 fun _ a b => clampF o.t (valT o.t a + valT o.t b))
def execVsubs (o : VTwo) (s : State) : Out :=
  .next (s.vTwo (.vsubs o) o 2 fun _ a b => clampF o.t (valT o.t a - valT o.t b))
def execVneg (o : VOne) (s : State) : Out := .next (s.vOne (.vneg o) o 2 fun a => clampF o.t (-valT o.t a))
def execVabs (o : VOne) (s : State) : Out := .next (s.vOne (.vabs o) o 2 fun a => clampF o.t (valT o.t a).natAbs)
def execVmin (o : VTwo) (s : State) : Out :=
  .next (s.vTwo (.vmin o) o 2 fun _ a b => plain (min (valT o.t a) (valT o.t b)))
def execVmax (o : VTwo) (s : State) : Out :=
  .next (s.vTwo (.vmax o) o 2 fun _ a b => plain (max (valT o.t a) (valT o.t b)))
def execVmul (o : VTwo) (s : State) : Out :=
  .next (s.vTwo (.vmul o) o 5 fun _ a b => fitF o.t (valT o.t a * valT o.t b))
def execVmulh (o : VTwo) (s : State) : Out :=
  .next (s.vTwo (.vmulh o) o 5 fun _ a b => plain (valT o.t a * valT o.t b / 2 ^ o.t.size))
def execVmulw (o : VTwo) (s : State) : Out := .next (s.vWide (.vmulw o) o fun a b _ => plain (a * b))
/-- The destination is read through the accumulate path, at issue (R328). -/
def execVmac (o : VTwo) (s : State) : Out :=
  .next <|
  let d := (s.readV o.d.val).toNat
  s.vTwo (.vmac o) o 5 fun i a b => clampF o.t (valT o.t (lane d o.t.size i) + valT o.t a * valT o.t b)
def execVmacw (o : VTwo) (s : State) : Out := .next (s.vWide (.vmacw o) o fun a b d => clampF (twiceT o.t) (d + a * b))

/-! ### Logic and shifts (R329 to R331) -/

def execVand (o : VTwo) (s : State) : Out := .next (s.vTwo (.vand o) o 2 fun _ a b => plain (a &&& b : Nat))
def execVor (o : VTwo) (s : State) : Out := .next (s.vTwo (.vor o) o 2 fun _ a b => plain (a ||| b : Nat))
def execVxor (o : VTwo) (s : State) : Out := .next (s.vTwo (.vxor o) o 2 fun _ a b => plain (a ^^^ b : Nat))

/-- A lane shift amount (R330). -/
def shAmt (b : Nat) : Nat := min b 63
/-- LOSS where a shift discards nonzero bits (R215). -/
def lossIf (x : Int) (sh : Nat) : BitVec 5 := flagIf (x % 2 ^ sh != 0) flagLoss

def execVshl (o : VTwo) (s : State) : Out :=
  .next (s.vTwo (.vshl o) o 2 fun _ a b => fitF o.t (valT o.t a * 2 ^ shAmt b))
def execVshr (o : VTwo) (s : State) : Out :=
  .next (s.vTwo (.vshr o) o 2 fun _ a b => (((a / 2 ^ shAmt b : Nat) : Int), lossIf a (shAmt b)))
def execVshra (o : VTwo) (s : State) : Out :=
  .next (s.vTwo (.vshra o) o 2 fun _ a b => (valT o.t a / 2 ^ shAmt b, lossIf (valT o.t a) (shAmt b)))

/-- The random bits a lane of an operation rounds with: it draws once where its mode is .rsto, after its pops, so that a slot that
meets a token draws nothing (R233, R298, R331). -/
def State.drawFor (s : State) (r : Rnd) : State × (Nat → Nat → Nat) :=
  let seed := s.cur.csrs csrSeed
  let (s, h) := if r = .rsto then s.draw else (s, 0)
  (s, fun j n => laneBits seed h j n)

/-- VSHRR with a rounding mode. -/
def State.vshrr (s : State) (i : Instr) (o : VTwo) (r : Rnd) : State :=
  s.op i fun s => s.src o.str .a o.w o.a fun s x => s.src o.str .b o.w o.b fun s y =>
    let (s, g) := s.drawFor r
    let n := o.t.size
    s.putRes 2 o.str o.w o.d o.z n (laneOn (s.readM o.m.val) n) ((List.range (lanes o.w o.t)).map fun j =>
      shd (valT o.t (lane x n j)) (shAmt (lane y n j)) r o.t (g j (shAmt (lane y n j))))
def execVshrrRne (o : VTwo) (s : State) : Out := .next (s.vshrr (.vshrrRne o) o .rne)
def execVshrrRtz (o : VTwo) (s : State) : Out := .next (s.vshrr (.vshrrRtz o) o .rtz)
def execVshrrRsto (o : VTwo) (s : State) : Out := .next (s.vshrr (.vshrrRsto o) o .rsto)

def State.vshrs (s : State) (i : Instr) (o : VImm) (r : Rnd) : State :=
  s.op i fun s => s.src o.str .a o.w o.a fun s x =>
    let (s, g) := s.drawFor r
    let n := o.t.size
    s.putRes 2 o.str o.w o.d o.z n (laneOn (s.readM o.m.val) n) ((List.range (lanes o.w o.t)).map fun j =>
      shd (valT o.t (lane x n j)) o.imm.val r o.t (g j o.imm.val))
def execVshrsRne (o : VImm) (s : State) : Out := .next (s.vshrs (.vshrsRne o) o .rne)
def execVshrsRtz (o : VImm) (s : State) : Out := .next (s.vshrs (.vshrsRtz o) o .rtz)
def execVshrsRsto (o : VImm) (s : State) : Out := .next (s.vshrs (.vshrsRsto o) o .rsto)

/-! ### Narrowing and widening (R332, R333) -/

/-- VNARROW: lanes of half(t) in bits [W/2 − 1:0], zeros above whatever the mask holds (R332; DEDUCED against R354, log 108). -/
def State.vnarrow (s : State) (i : Instr) (o : VImm) (r : Rnd) : State :=
  s.op i fun s => s.src o.str .a o.w o.a fun s x =>
    let (s, g) := s.drawFor r
    let n := o.t.size
    let on := laneOn (s.readM o.m.val) n
    let rs := (List.range (lanes o.w o.t)).map fun j => shd (valT o.t (lane x n j)) o.imm.val r (halfT o.t) (g j o.imm.val)
    s.putW 2 o.str o.w o.d (putAll (n / 2) on (o.z || o.str == .d) (s.readV o.d.val).toNat rs) (laneFlags on rs)
def execVnarrowRne (o : VImm) (s : State) : Out := .next (s.vnarrow (.vnarrowRne o) o .rne)
def execVnarrowRtz (o : VImm) (s : State) : Out := .next (s.vnarrow (.vnarrowRtz o) o .rtz)
def execVnarrowRsto (o : VImm) (s : State) : Out := .next (s.vnarrow (.vnarrowRsto o) o .rsto)

def execVwiden (o : VOne) (s : State) : Out :=
  .next (s.op (.vwiden o) fun s => s.src o.str .a o.w o.a fun s x =>
    let n := o.t.size
    s.putPair 2 o.w o.d o.z (2 * n) (laneOn (s.readM o.m.val) n)
      ((List.range (lanes o.w o.t)).map fun i => plain (valT o.t (lane x n i))))

/-! ### Comparison, selection and masks (R334 to R337) -/

def vCondHolds (c : VCond) (a b : Int) : Bool :=
  match c with
  | .eq => a == b
  | .ne => a != b
  | .lt => a < b
  | .le => a ≤ b

/-- Set or clear the n / 8 mask bits of lane i. -/
def setMask (m : MWord) (n i : Nat) (b : Bool) : MWord :=
  let ones : MWord := BitVec.ofNat 128 ((2 ^ (n / 8) - 1) * 2 ^ (i * n / 8))
  if b then m ||| ones else m &&& ~~~ones

/-- With no active lane the mask register is not written (R354). -/
def execVcmp (o : VCmp) (s : State) : Out :=
  .next (s.op (.vcmp o) fun s => s.src o.str .a o.w o.a fun s x => s.src o.str .b o.w o.b fun s y =>
    let n := o.t.size
    let on := laneOn (s.readM o.m.val) n
    let m := (List.range (lanes o.w o.t)).foldl (fun m i =>
      if on i then setMask m n i (vCondHolds o.cond (valT o.t (lane x n i)) (valT o.t (lane y n i))) else m) (s.readM o.md.val)
    if writesLanes false on (lanes o.w o.t) then s.write 2 (.m o.md.val m) else s)

/-- Whole: the mask is the selector (R335). -/
def execVsel (o : VTwo) (s : State) : Out :=
  .next (s.op (.vsel o) fun s => s.src o.str .a o.w o.a fun s x => s.src o.str .b o.w o.b fun s y =>
    let n := o.t.size
    let on := laneOn (s.readM o.m.val) n
    s.putW 2 o.str o.w o.d
      (packLanes n ((List.range (lanes o.w o.t)).map fun i => if on i then lane x n i else lane y n i)) 0)

def execVmlog (o : VMlg) (s : State) : Out :=
  .next (s.op (.vmlog o) fun s =>
    let a := s.readM o.ma.val
    let b := s.readM o.mb.val
    s.write 2 (.m o.md.val (match o.lop with
      | .and => a &&& b
      | .or => a ||| b
      | .xor => a ^^^ b
      | .andn => a &&& ~~~b)))

def execVmpop (o : VPop) (s : State) : Out :=
  .next (s.op (.vmpop o) fun s =>
    let n := o.t.size
    let c := laneOn (s.readM o.c.val) n
    s.putRes 2 .none o.w o.d o.z n (laneOn (s.readM o.m.val) n)
      ((List.range (lanes o.w o.t)).map fun i => plain (((List.range i).filter c).length : Nat)))

/-! ### Moving lanes (R338, R339) -/

def execVbcast (o : VImm) (s : State) : Out := .next (s.vImm (.vbcast o) o 2 fun _ a => plain (a o.imm.val))
def execVslide (o : VImm) (s : State) : Out :=
  .next (s.vImm (.vslide o) o 3 fun i a => plain (if i + o.imm.val < lanes o.w o.t then a (i + o.imm.val) else 0))
def execVperm (o : VTwo) (s : State) : Out :=
  .next (s.op (.vperm o) fun s => s.src o.str .a o.w o.a fun s x => s.src o.str .b o.w o.b fun s y =>
    let n := o.t.size
    let l := lanes o.w o.t
    s.putRes 3 o.str o.w o.d o.z n (laneOn (s.readM o.m.val) n) ((List.range l).map fun i =>
      plain (if lane y n i < l then lane x n (lane y n i) else 0)))
def execVmovx (o : VXf) (s : State) : Out :=
  .next (s.op (.vmovx o) fun s =>
    let n := o.t.size
    let old := (s.readV o.d.val).toNat
    s.write 4 (.v o.d.val
      (BitVec.ofNat 1024 (old - lane old n o.k.val * 2 ^ (n * o.k.val) + (s.readS o.sa.val).toNat % 2 ^ n * 2 ^ (n * o.k.val)))
      false))

/-! ### Reductions, scan and census (R340 to R342) -/

/-- Values of the active lanes. -/
def activeVals (t : Elem) (on : Nat → Bool) (xs : List Nat) : List Int :=
  (List.zipIdx xs).filterMap fun x => if on x.2 then some (valT t x.1) else none
/-- The type a reduction writes: i32 for signed t, n32 else. -/
def redT (t : Elem) : Elem := if t.signed then .i32 else .n32
/-- Smallest and largest value of a type. -/
def minT (t : Elem) : Int := if t.signed then -(2 ^ (t.size - 1)) else 0
def maxT (t : Elem) : Int := if t.signed then 2 ^ (t.size - 1) - 1 else 2 ^ t.size - 1

def execVredadd (o : VOne) (s : State) : Out :=
  .next (s.vWhole (.vredadd o) o 4 fun on xs =>
    let r := clampF (redT o.t) (activeVals o.t on xs).sum
    (pat r.1 32, r.2))
def execVredmax (o : VOne) (s : State) : Out :=
  .next (s.vWhole (.vredmax o) o 4 fun on xs => (pat ((activeVals o.t on xs).foldl max (minT o.t)) 32, 0))
def execVredmin (o : VOne) (s : State) : Out :=
  .next (s.vWhole (.vredmin o) o 4 fun on xs => (pat ((activeVals o.t on xs).foldl min (maxT o.t)) 32, 0))

/-- Inclusive segmented sums; inactive lanes count as 0. -/
def scanFrom (t : Elem) (on head : Nat → Bool) : Nat → Int → List Nat → List LaneRes
  | _, _, [] => []
  | i, acc, x :: xs =>
    let y := (if head i then 0 else acc) + (if on i then valT t x else 0)
    clampF t y :: scanFrom t on head (i + 1) y xs

def execVscan (o : VScn) (s : State) : Out :=
  .next (s.op (.vscan o) fun s => s.src o.str .a o.w o.a fun s x =>
    let n := o.t.size
    let on := laneOn (s.readM o.m.val) n
    let hm := s.readM o.head.val
    let head := fun i => i == 0 || (o.seg && laneOn hm n i)
    s.putRes 6 o.str o.w o.d o.z n on (scanFrom o.t on head 0 0 ((List.range (lanes o.w o.t)).map (lane x n))))

def execVclz (o : VOne) (s : State) : Out := .next (s.vOne (.vclz o) o 2 fun a => plain (censusOf o.t a : Nat))

/-- The census of a list of element patterns (R225). -/
def censusList (t : Elem) (xs : List Nat) : Nat := (xs.map (censusOf t)).foldl min 255

def execVcensus (o : VOne) (s : State) : Out :=
  .next (s.vWhole (.vcensus o) o 4 fun on xs =>
    (censusList o.t ((List.zipIdx xs).filterMap fun x => if on x.2 then some x.1 else none), 0))

/-! ### Special functions (R343) -/

def execVexp2 (o : VOne) (s : State) : Out :=
  .next (s.vOne (.vexp2 o) o 12 fun a => let r := vexp2Fn (valT o.t a); ((r.1 : Nat), r.2))
def execVlog2 (o : VOne) (s : State) : Out :=
  .next (s.vOne (.vlog2 o) o 12 fun a => let r := vlog2Fn (valT o.t a); ((r.1 : Nat), r.2))
def execVrsqrt (o : VOne) (s : State) : Out :=
  .next (s.vOne (.vrsqrt o) o 12 fun a => let r := vrsqrtFn (valT o.t a); ((r.1 : Nat), r.2))
def execVrecip (o : VOne) (s : State) : Out :=
  .next (s.vOne (.vrecip o) o 12 fun a => let r := vrecipFn (valT o.t a); ((r.1 : Nat), r.2))

/-! ### Packed and block formats (R350 to R352) -/

def execVpack4 (o : VTwo) (s : State) : Out :=
  .next (s.op (.vpack4 o) fun s => s.src o.str .a o.w o.a fun s x => s.src o.str .b o.w o.b fun s y =>
    let l := o.w.bits / 8
    let rs := (List.range (2 * l)).map fun i => clampF .i4 (valT .i8 (if i < l then lane x 8 i else lane y 8 (i - l)))
    s.putRes 3 o.str o.w o.d o.z 4 (laneOn (s.readM o.m.val) 4) rs)
def execVunpack4 (o : VImm) (s : State) : Out :=
  .next (s.op (.vunpack4 o) fun s => s.src o.str .a o.w o.a fun s x =>
    let l := o.w.bits / 8
    let rs := (List.range l).map fun i => plain (valT .i4 (lane x 4 (o.imm.val * l + i)))
    s.putRes 3 o.str o.w o.d o.z 8 (laneOn (s.readM o.m.val) 8) rs)

/-- n-element blocks of a list. -/
def blocks {α : Type} (n : Nat) : Nat → List α → List (List α)
  | 0, _ => []
  | k + 1, l => l.take n :: blocks n k (l.drop n)

def execVbsenc (o : VImm) (s : State) : Out :=
  .next (s.op (.vbsenc o) fun s => s.src o.str .a o.w o.a fun s x =>
    let n := o.t.size
    let l := lanes o.w o.t
    let bs := (blocks 32 (l / 32) ((List.range l).map fun i => valT o.t (lane x n i))).map fun b => bs4Enc b n o.imm.val
    s.putW 4 o.str o.w o.d (leNat (bs.flatMap Prod.fst)) ((bs.map Prod.snd).foldl (· ||| ·) 0))

/-- Element k of the blocks packed in a register, decoded (R351). -/
def bsElem (x : Nat) (t : Elem) (base k : Nat) : LaneRes :=
  let block := leBytes (x / 2 ^ (8 * (17 * (k / 32)))) 17
  bs4Dec (sext ((block[0]?).getD 0).toNat 8) (bs4Nib block (k % 32)) t base

def execVbsdec (o : VImm) (s : State) : Out :=
  .next (s.op (.vbsdec o) fun s => s.src o.str .a o.w o.a fun s x =>
    let n := o.t.size
    let rs := (List.range (lanes o.w o.t)).map fun k => bsElem (x % 2 ^ o.w.bits) o.t o.imm.val k
    s.putW 4 o.str o.w o.d (packLanes n (rs.map fun r => pat r.1 n)) ((rs.map Prod.snd).foldl (· ||| ·) 0))

def execVsgnmap (o : VOne) (s : State) : Out :=
  .next (s.vWhole (.vsgnmap o) o 3 fun _ xs => (packLanes 1 (xs.map fun x => if 0 < valT o.t x then 1 else 0), 0))
def execVsgnapply (o : VImm) (s : State) : Out :=
  .next (s.op (.vsgnapply o) fun s => s.src o.str .a o.w o.a fun s x =>
    let n := o.t.size
    s.putRes 3 o.str o.w o.d o.z n (laneOn (s.readM o.m.val) n)
      ((List.range (lanes o.w o.t)).map fun i => plain (sb1Val (o.imm.val == 1) (bit1 x i))))

/-! ### Register-file gating (R188, R353) -/

/-- The new VGATE, against the value at the bundle's issue, so that of two VRFGATEs the last stands (R353): a bank gated off
loses its contents, and a bank whose bit clears wakes for 40 cycles. -/
def execVrfgate (k : BitVec 4) (s : State) : Out :=
  .next (s.op (.vrfgate k) fun s =>
    let c0 := s.rd
    let old := (c0.csrs csrVgate).setWidth 4
    let lost := fun n => k.getLsbD (n / 8) && !old.getLsbD (n / 8)
    let wake := fun j => old.getLsbD j && !k.getLsbD j
    s.setCur fun c => { c.setCsr csrVgate (k.setWidth 64) with
      undef := { c.undef with v := (List.range 32).foldl (fun m n => if lost n then m ||| (1#32 <<< n) else m) c0.undef.v }
      vpois := (List.range 32).foldl (fun m n => if lost n then m &&& ~~~(1#32 <<< n) else m) c0.vpois
      wake := Vector.ofFn fun (j : Fin 4) => if wake j.val then s.cycle + 40 else c0.wake[j] })

/-- The 40 cycles of a waking bank are over. -/
def execBankWake (c : CtxId) (bank : Fin 4) (s : State) : Out :=
  .next (s.mapCtx c fun x => if x.wake[bank] ≤ s.cycle then { x with wake := x.wake.set bank 0 } else x)

end Sys2Proof.Machine
end

