-- ==== Sys2Proof/Machine/VMem.lean ====
section
/-! DEFINITION. Vector loads and stores of the share (R344 to R349), with the tensor descriptors that stores update (R223,
R226). -/

namespace Sys2Proof.Machine

/-- One active unit of a vector access: its address and its length in bytes. -/
abbrev Unit_ := Int × Nat

/-- 64-byte lines that n bytes at a place touch. -/
def linesOf (at_ n : Nat) : List Nat := (List.range ((at_ % 64 + n + 63) / 64)).map fun i => at_ / 64 + i
/-- Whether two lines lie in one SRAM bank of one core (R194). -/
def sameBank (x y : Nat) : Bool := x % 64 == y % 64 && x / 2 ^ 16 == y / 2 ^ 16

/-- The first unit that touches a second line of some bank, at the places it stands for (R348). -/
def bankClash (places : Nat → List Nat) : List Nat → List Unit_ → Option Int
  | _, [] => none
  | seen, (a, n) :: us =>
    let ls := (places a.toNat).flatMap fun p => linesOf p n
    if ls.any fun l => (seen ++ ls).any fun l' => l' != l && sameBank l' l then some a
    else bankClash places (ls ++ seen) us

/-- Lowest and highest byte of the multicast units, as offsets. -/
def mcastSpan (us : List Unit_) : Option (Nat × Nat) :=
  let ms := (us.filter fun u => bit1 u.1.toNat 25).map fun u => (bits u.1.toNat 0 22, bits u.1.toNat 0 22 + u.2)
  match ms with
  | [] => none
  | m :: _ => some ((ms.map Prod.fst).foldl min m.1, (ms.map Prod.snd).foldl max m.2)

/-- The places a unit's address stands for: a multicast unit those of the window that holds the whole access. -/
def State.unitPlaces (s : State) (us : List Unit_) (a : Nat) : List Nat :=
  let c := s.cur
  if bit1 a 25 then
    let (lo, hi) := (mcastSpan us).getD (0, 0)
    match s.mcw (polOf c.id.core) c.launch.asid lo (hi - lo) with
    | some r => (mcwTargets (polOf c.id.core) r).map fun i => s.slotBase i + bits a 0 22
    | none => []
  else s.localPlaces c a 1

/-- The checks of R348 on the active units of an access; `load` bars peer and multicast addresses. -/
def State.withUnits (s : State) (us : List Unit_) (load : Bool) (k : State → State) : State :=
  let bad := us.find? fun u => u.1 < 0 || 2 ^ 32 ≤ u.1 || !s.localOk s.cur u.1.toNat u.2 load
  let window := match mcastSpan us with
    | some (lo, hi) => (s.mcw (polOf s.cur.id.core) s.cur.launch.asid lo (hi - lo)).isSome
    | none => true
  match bad with
  | some u => s.raise causeAddress (BitVec.ofInt 64 u.1) 0
  | none =>
    if !window then
      s.raise causeAddress (BitVec.ofInt 64 (((us.find? fun u => bit1 u.1.toNat 25).map Prod.fst).getD 0)) 0
    else
      match bankClash (s.unitPlaces us) [] us with
      | some a => s.raise causeAddress (BitVec.ofInt 64 a) 0
      | none => k s

/-- Bytes of one unit as the bundle's loads read them, with their poison. -/
def State.unitBytes (s : State) (u : Unit_) : Nat × Bool :=
  let at_ := s.cur.place (bits u.1.toNat 0 22)
  let (m, p) := s.loadMem
  (leNat (s.view m at_ u.2), poisonedAt p at_ u.2)

/-- Store units in order: own bytes at once, clearing the poison of words they write whole, peer and multicast bytes in 8
cycles (R195, R198, R346, R348). -/
def State.storeUnits (s : State) (us : List (Unit_ × Nat)) : State :=
  let own := us.filter fun x => !(bit1 x.1.1.toNat 24 || bit1 x.1.1.toNat 25)
  let far := us.filter fun x => bit1 x.1.1.toNat 24 || bit1 x.1.1.toNat 25
  let cellsOf := fun (x : Unit_ × Nat) => (s.unitPlaces (us.map Prod.fst) x.1.1.toNat).flatMap fun b =>
    (List.zipIdx (leBytes x.2 x.1.2)).map fun y => (b + y.2, y.1)
  let cells := far.flatMap cellsOf
  let mc := (mcastSpan (us.map Prod.fst)).bind fun m =>
    (s.mcwNo (polOf s.cur.id.core) s.cur.launch.asid m.1 (m.2 - m.1)).map fun w =>
      (w, ((far.filter fun x => bit1 x.1.1.toNat 25).flatMap cellsOf).map Prod.fst)
  let whole := wholeWords (own.flatMap fun x => (List.range x.1.2).map fun i => s.cur.place (bits x.1.1.toNat 0 22) + i)
  let s := own.foldl (fun s x => s.storeOwn (s.cur.place (bits x.1.1.toNat 0 22)) (leBytes x.2 x.1.2)) s
  let s := { s with poison := s.poison.filter fun w => !whole.contains w }
  if cells.isEmpty then s else { s with peers := s.peers ++ [⟨s.cycle + 8, s.cur.id, s.cycle, cells, mc, false⟩] }

/-! ### Address vectors (R344) -/

/-- The base of an access from its address vector and offset field. -/
def vecBase (av : Nat) (off : BitVec 5) (w : VW) : Int := (bits av 0 32 : Nat) + off.toInt * (w.bits / 8 : Nat)
def vecStride (av : Nat) : Int := sext (bits av 32 32) 32

/-- The base in range, or ADDRESS. -/
def State.withBase (s : State) (av : Nat) (off : BitVec 5) (w : VW) (k : State → Int → State) : State :=
  let b := vecBase av off w
  if b < 0 ∨ 2 ^ 32 ≤ b then s.raise causeAddress (BitVec.ofInt 64 b) 0 else k s b

/-- Bits of the units of a contiguous access: whole lanes, or bytes of two i4 lanes (R345). -/
def unitBits (t : Elem) : Nat := max t.size 8

/-- Write loaded units with put; a poisoned one poisons the whole destination and is counted (R314, R348). With no active lane and without .z no register is written (R354). -/
def State.putLoaded (s : State) (lat : Nat) (str : Str) (w : VW) (d : VNo) (z : Bool) (m : Nat) (on : Nat → Bool)
    (rs : List (Int × Bool)) : State :=
  let bad := (List.zipIdx rs).any fun x => on x.2 && x.1.2
  let s := if bad then s.count 0x2008 else s
  let x := putAll m on (z || str == .d) (s.readV d.val).toNat (rs.map fun r => plain r.1)
  if str != .d && !writesLanes z on rs.length then s
  else if str = .d then s.push (qOf d.val) w lat (BitVec.ofNat 1024 (x % 2 ^ w.bits)) bad
  else s.write lat (.v d.val (putLow (s.readV d.val) w.bits x) bad)

/-- A load of units by index. -/
def State.vLoad (s : State) (o : VLdf) (count m : Nat) (addr : Nat → Int) : State :=
  let on := laneOn (s.readM o.m.val) m
  let us := (List.range count).map fun i => (addr i, m / 8)
  s.withUnits ((List.zipIdx us).filterMap fun x => if on x.2 then some x.1 else none) true fun s =>
    s.putLoaded 6 .none o.w o.d o.z m on ((List.zipIdx us).map fun x =>
      if on x.2 then let r := s.unitBytes x.1; ((r.1 : Nat), r.2) else (0, false))

def execVld (o : VLdf) (s : State) : Out :=
  .next (s.op (.vld o) fun s => s.withBase (s.readV o.a.val).toNat o.off o.w fun s b =>
    let m := unitBits o.t
    s.vLoad o (o.w.bits / m) m fun i => b + (i * (m / 8) : Nat))
def execVlds (o : VLdf) (s : State) : Out :=
  .next (s.op (.vlds o) fun s =>
    let av := (s.readV o.a.val).toNat
    s.withBase av o.off o.w fun s b => s.vLoad o (lanes o.w o.t) o.t.size fun i => b + i * vecStride av)

/-! ### Tensor descriptors of stores (R223, R226, R349) -/

/-- The type code of R214. -/
def typeCode : Elem → Nat
  | .i8 => 0 | .i16 => 1 | .i32 => 2 | .i4 => 3 | .n8 => 4 | .n16 => 5 | .n32 => 6

/-- Whether a tensor descriptor breaks R223: a reserved bit set, a reserved STYPE, or a field nonzero that is zero there (bits
[127:96] under LOCAL, dimensions and strides above NDIM, strides of CW). -/
def tdBad (d : Nat) : Bool :=
  let n := bits d 32 2
  bits d 4 4 != 0 || bits d 28 4 != 0 || bits d 35 29 != 0 || bits d 376 136 != 0
    || (bits d 0 4 == 7 || 10 < bits d 0 4) || (bit1 d 34 && bits d 96 32 != 0)
    || ([1, 2, 3].any fun i => (n < i && bits d (128 + 32 * i) 32 != 0) || ((n < i || bits d 0 4 == 10) && bits d (216 + 40 * i) 40 != 0))

/-- The descriptor check of a vector store. -/
def State.withDesc (s : State) (av : Nat) (t : Elem) (k : State → State) : State :=
  if bit1 av 96 then
    let a := bits av 64 32
    let d := leNat (s.view s.loadMem.1 (s.cur.place (bits a 0 22)) 64)
    if a % 64 ≠ 0 || !s.localOk s.cur a 64 true || bits d 0 4 != typeCode t || tdBad d then
      s.raise causeAddress (BitVec.ofNat 64 a) 0
    else k s
  else k s

/-- The census update of a vector store, after its bytes have been written. -/
def State.bumpDesc (s : State) (av cen : Nat) : State :=
  if bit1 av 96 then
    let at_ := s.cur.place (bits av 64 22) + 2
    s.storeOwn at_ [BitVec.ofNat 8 (min (leNat (s.view s.mem at_ 1)) cen)]
  else s

/-- Elements of the active lanes. -/
def activeElems (t : Elem) (on : Nat → Bool) (x l : Nat) : List Nat :=
  ((List.range l).filter on).map (lane x t.size)

/-- A store of units by index, with the elements its census counts. -/
def State.vStore (s : State) (o : VStf) (av count m : Nat) (addr : Nat → Int) : State :=
  let on := laneOn (s.readM o.m.val) m
  let x := (s.readV o.b.val).toNat
  let us := ((List.range count).filter on).map fun i => ((addr i, m / 8), lane x m i)
  s.withUnits (us.map Prod.fst) false fun s => s.withDesc av o.t fun s =>
    (s.storeUnits us).bumpDesc av (censusList o.t (activeElems o.t (laneOn (s.readM o.m.val) o.t.size) x (lanes o.w o.t)))

def execVst (o : VStf) (s : State) : Out :=
  .next (s.op (.vst o) fun s =>
    let av := (s.readV o.a.val).toNat
    s.withBase av o.off o.w fun s b =>
      let m := unitBits o.t
      s.vStore o av (o.w.bits / m) m fun i => b + (i * (m / 8) : Nat))
def execVsts (o : VStf) (s : State) : Out :=
  .next (s.op (.vsts o) fun s =>
    let av := (s.readV o.a.val).toNat
    s.withBase av o.off o.w fun s b => s.vStore o av (lanes o.w o.t) o.t.size fun i => b + i * vecStride av)

/-! ### Gathers and scatters (R347) -/

def execVgather (o : VOne) (s : State) : Out :=
  .next (s.op (.vgather o) fun s => s.src o.str .a o.w o.a fun s x =>
    let on := laneOn (s.readM o.m.val) 32
    let us := (List.range (o.w.bits / 32)).map fun i => (((lane x 32 i : Nat) : Int), o.t.size / 8)
    s.withUnits ((List.zipIdx us).filterMap fun x => if on x.2 then some x.1 else none) true fun s =>
      s.putLoaded 10 o.str o.w o.d o.z 32 on ((List.zipIdx us).map fun x =>
        if on x.2 then let r := s.unitBytes x.1; (valT o.t r.1, r.2) else (0, false)))

def execVscatter (o : VStf) (s : State) : Out :=
  .next (s.op (.vscatter o) fun s =>
    let on := laneOn (s.readM o.m.val) 32
    let x := (s.readV o.a.val).toNat
    let y := (s.readV o.b.val).toNat
    let wide : Elem := if o.t.signed then .i32 else .n32
    let off : Int := o.off.toInt * (o.w.bits / 8 : Nat)
    let ls := (List.range (o.w.bits / 32)).filter on
    let rs := ls.map fun i => clampF o.t (valT wide (lane y 32 i))
    let us := ls.map fun i => (((lane x 32 i : Nat) : Int) + off, o.t.size / 8)
    s.withUnits us true fun s =>
      (s.storeUnits (us.zip (rs.map fun r => pat r.1 o.t.size))).flag 1 ((rs.map Prod.snd).foldl (· ||| ·) 0))

end Sys2Proof.Machine
end

