-- ==== Sys2Proof/Machine/Engine.lean ====
section
/-! DEFINITION. What the culverts, the load pipes and the store path share: what FENCE, MWAIT and FDRAIN make them wait for
(R241, R252, R253, R376), their reads and writes with the races the spec leaves open (R243, R246, R257), their held faults
(R122), descriptor updates (R226) and flags (R207, R208). -/

namespace Sys2Proof.Machine

/-! ### Scopes (R241) -/

def scopeNum : Scope → Nat
  | .ctx => 0 | .core => 1 | .pol => 2 | .pkg => 3 | .job => 4

/-- Whether a place of private SRAM is governed by scope .ctx, or else by scope .core, of a context. -/
def Ctx.placeGoverned (c : Ctx) (sc : Scope) (p : Nat) : Bool :=
  if sc = .ctx then c.shareBase ≤ p && p < c.shareBase + c.launch.share else (p - sramBase) / 2 ^ 22 == c.id.core
/-- Whether n bytes from an address touch memory a scope governs. -/
def State.governs (s : State) (sc : Scope) (c : Ctx) (a : Addr) (n : Nat) : Bool :=
  match a.place with
  | .virt => 3 ≤ scopeNum sc
  | .boez => 3 ≤ scopeNum sc
      || (2 == scopeNum sc && a.a / 2 ^ 23 ≤ polOf c.id.core && polOf c.id.core ≤ (a.a + n - 1) / 2 ^ 23)
  | .loc => 2 ≤ scopeNum sc || (s.localPlaces c a.a n).any (c.placeGoverned sc)

/-- The same for a pattern: a pipe lies in the polder's boezem segment. -/
def State.patGoverned (s : State) (sc : Scope) (c : Ctx) (p : Nat) : Bool :=
  if patPipe p then 2 ≤ scopeNum sc
  else if patPlace p = .virt ∨ 3 ≤ scopeNum sc then 3 ≤ scopeNum sc
  else (List.range (patTotal p)).any fun j => s.governs sc c (patAt p j) 1
/-- Byte j of a range that starts at an address. -/
def addrPlus (a : Addr) (j : Nat) : Addr := ⟨a.place, (a.a + j) % 2 ^ placeBits a.place⟩
/-- The row of an index (R395). -/
def Binding.row (b : Binding) (ix : Nat) : Addr := addrPlus b.base (ix * b.rowBytes)
/-- Whether a scope governs the table of an indexed binding: its base, or a row that is queued. -/
def State.tableGoverned (s : State) (sc : Scope) (c : Ctx) (b : Binding) : Bool :=
  s.governs sc c b.base 1 || b.idx.any fun x => s.governs sc c (b.row x.toNat) (max 1 b.rowBytes)
/-- The tensor descriptor of a pattern. -/
def patDesc (p : Nat) : Option Addr :=
  if patTdv p && !patPipe p then
    some (if patTdLocal p then ⟨.loc, bits (patTdesc p) 0 32⟩ else ⟨.virt, patTdesc p⟩)
  else none

/-- Patterns of a culvert descriptor. -/
def srcPat (d : BitVec 1024) : Nat := bits d.toNat 0 512
def dstPat (d : BitVec 1024) : Nat := bits d.toNat 512 512

/-- Bytes of an offload operation's memory image and of its elements (R398). -/
def imageBytes (f : OffFmt) (t : Elem) (n : Nat) : Nat :=
  match f with
  | .full => (n * t.size + 7) / 8
  | .bs4 => (n + 31) / 32 * 17
  | .sb1 => (n + 7) / 8
def elemBytes (t : Elem) (n : Nat) : Nat := (n * t.size + 7) / 8

/-- Whether an engine operation has accesses to memory a scope governs. A copy whose descriptor is still being read
counts. -/
def State.opGoverned (s : State) (sc : Scope) (c : Ctx) (e : EngOp) : Bool :=
  (e.done.any fun a => s.governs sc c a 16) ||
    match e.kind with
    | .copy d a n => s.governs sc c d n || s.governs sc c a n
    | .copyA p none => p.isSome
    | .copyA _ (some d) => s.patGoverned sc c (srcPat d) || s.patGoverned sc c (dstPat d)
        || (patDesc (dstPat d)).any fun a => s.governs sc c a 64
    | .coffl d a n _ t f => s.governs sc c d (imageBytes f t n) || s.governs sc c a (elemBytes t n)
    | .crest d a n _ t f _ => s.governs sc c d (elemBytes t n) || s.governs sc c a (imageBytes f t n)
    | .publ _ => 3 ≤ scopeNum sc
    | .csig _ _ => false
    | .cdesc _ a => s.governs sc c a 128
    | .closing b => (if b.kind = .scatter then s.tableGoverned sc c b else s.patGoverned sc c b.pat.toNat)
        || (patDesc b.pat.toNat).any fun a => s.governs sc c a 64
    | .update => false
    | .frts _ => 3 ≤ scopeNum sc
    | .fmsg a n _ _ => s.governs sc c a n
    | .pkt _ _ => false
    | .look x _ _ => s.governs sc c x 16

/-- Whether a matrix load's memory is governed by a scope: a local specifier names the context's own share. -/
def specGoverned (sc : Scope) (spec : BitVec 256) : Bool := spec.getLsbD 0 || 3 ≤ scopeNum sc
/-- The same for a command of the store path, whose local descriptor lies in the share too (R355). -/
def storeGoverned (sc : Scope) (spec : BitVec 256) : Bool := specGoverned sc spec || (spec.getLsbD 10 && spec.getLsbD 11)

/-- Specifier of a command that the store path runs. -/
def MKind.spec : MKind → Option (BitVec 256)
  | .shrd x _ _ _ _ => some x
  | .stacc x => some x
  | .ldacc x => some x
  | _ => none

/-! ### Waits (R252, R253, R376) -/

/-- Whether an MWAIT's engines have done what was issued before it. -/
def State.mwaitMet (s : State) (c : Ctx) (w : Wait) : Bool :=
  let k := s.core c.id.core
  let clear := fun (q : List LoadCmd) => q.all fun l => l.ctx != c.id || w.lim ≤ l.seq
  (!w.sel.getLsbD 0 || clear k.pipeA.q) && (!w.sel.getLsbD 1 || clear k.pipeB.q)
    && (!w.sel.getLsbD 2 || ((k.store.all fun x => x.ctx != c.id || w.lim ≤ x.seq)
      && c.mq.all fun m => w.lim ≤ m.seq || m.kind.spec.isNone))

/-- Whether a write stream has written all it will write. -/
def Binding.writtenOut (b : Binding) : Bool :=
  if b.kind = .scatter then b.ended && (b.entries.isEmpty || b.idx.isEmpty)
  else b.entries.isEmpty && (b.ended || (!b.pipe && b.pend.isNone && b.count ≤ b.pos))

/-- Whether an operation comes after a FENCE. The update of a write stream comes after the last push to it, or its CEOS. -/
def Wait.later (w : Wait) (e : EngOp) : Bool := if e.last = 0 then w.lim ≤ e.seq else w.cyc ≤ e.last

/-- Whether everything a FENCE or MWAIT puts before later engine operations has performed. Own-rank operations of the fabric access
memory that .pkg governs. -/
def State.waitMet (s : State) (c : Ctx) (w : Wait) : Bool :=
  match w.scope with
  | none => s.mwaitMet c w
  | some sc =>
    let k := s.core c.id.core
    let load := fun (l : LoadCmd) => l.ctx != c.id || w.lim ≤ l.seq || l.fill.isSome || l.bad || !specGoverned sc l.spec
    (s.peers.all fun p => p.src != c.id || w.cyc ≤ p.issued
        || !(2 ≤ scopeNum sc || p.cells.any fun x => c.placeGoverned sc x.1))
      && (c.ops.all fun e => (w.later e || !s.opGoverned sc c e) && match e.kind with
        | .closing b => (b.entries.all fun x => w.cyc ≤ x.pushed) || !s.opGoverned sc c e
        | _ => true)
      && (k.pipeA.q.all load) && (k.pipeB.q.all load)
      && (k.store.all fun x => x.ctx != c.id || w.lim ≤ x.seq || !storeGoverned sc x.spec)
      && (c.mq.all fun m => w.lim ≤ m.seq || m.kind.spec.all fun x => !storeGoverned sc x)
      && (c.ep.all fun e => w.lim ≤ e.seq || match e.kind with
        | .pop _ _ => false
        | _ => scopeNum sc < 3 || e.res.isSome)
      && (c.q.all fun b => (b.kind != .write && b.kind != .scatter) || (b.entries.all fun e => w.cyc ≤ e.pushed)
        || !(if b.kind = .write then s.patGoverned sc c b.pat.toNat else s.tableGoverned sc c b))
      && (c.q.all fun b => (b.kind != .write && b.kind != .scatter) || b.pipe || b.updated || !b.writtenOut || w.cyc ≤ b.last
        || !s.governs sc c b.done 16)
      && (scopeNum sc < 3 || s.slu.sends.all fun e => e.owner != c.id || w.lim ≤ e.seq)
      && (scopeNum sc < 3 || ((c.remote.all fun r => w.lim ≤ r.seq || r.status.isSome || (scopeNum sc < 4 && !r.own))
        && c.late.all fun r => w.lim ≤ r.seq || r.status.isSome || (scopeNum sc < 4 && !r.own)))

def State.waitsMet (s : State) (c : Ctx) (ws : List Wait) : Bool := ws.all fun w => s.waitMet c w

/-- The waits of a new culvert, fabric, sluice or episode operation, and of a new matrix memory operation. -/
def Ctx.fenceWaits (c : Ctx) : List Wait := c.fences.filter fun w => w.scope.isSome

/-- Forget the waits of a context that are met, once no store before them can race (R246). -/
def State.pruneWaits (s : State) (i : CtxId) : State :=
  let c := s.ctx i
  let keep := c.fences.filter fun w => !s.waitMet c w || s.cycle < w.cyc + 4
  let loose := if c.culvertWork then (c.bzLoose, c.mcLoose) else (0, 0)
  if keep.length = c.fences.length && loose == (c.bzLoose, c.mcLoose) then s
  else s.mapCtx i fun c => { c with fences := keep, bzLoose := loose.1, mcLoose := loose.2 }

/-- Whether the operations an FDRAIN puts before one have been acknowledged (R253). -/
def Ctx.drained (c : Ctx) (lim : Nat) : Bool := c.remote.all fun r => lim ≤ r.seq || r.status.isSome

/-! ### Reading and writing (R243, R246, R257) -/

/-- Read n bytes at places without keys. -/
def State.placeRead (s : State) (racy : List (Nat × Byte)) (a n : Nat) : State × List PByte :=
  let l := (List.zipIdx (s.view s.mem a n)).map fun x => (s.racyByte racy (a + x.2) x.1, poisonedAt s.poison (a + x.2) 1)
  (if poisonedAt s.poison a n then s.count 0x2008 else s, l)

/-- Write bytes at places without keys: a byte that races with a store ends with either. -/
def State.placeWrite (s : State) (racy : List (Nat × Byte)) (a : Nat) (bytes : List PByte) : State :=
  let l := s.racyWrite racy a (bytes.map Prod.fst)
  (List.zipIdx bytes).foldl (fun s x => if x.1.2 then s.poisonRange (a + x.2) 1 else s) ((s.poke a l).clobber a l.length)

/-- An engine of a context reads n bytes at an address. -/
def State.eRead (s : State) (i : CtxId) (racy : List (Nat × Byte)) (a : Addr) (n : Nat) :
    State × Except AtFault (List PByte × Met) :=
  let c := s.ctx i
  match a.place with
  | .virt => s.vGet (tlbOf i.core) c.launch.asid a.a n
  | .loc => let (s, l) := s.placeRead racy (c.place (bits a.a 0 22)) n; (s, .ok (l, ⟨l.any Prod.snd, false⟩))
  | .boez => let (s, l) := s.placeRead [] (boezemBase + a.a) n; (s, .ok (l, ⟨l.any Prod.snd, false⟩))

/-- An engine of a context writes bytes; `base` and `n` are the range of the operation, which picks the multicast window
(R108). What is written through a boezem segment or a multicast window that changed meanwhile is undefined (R197, R381). -/
def State.eWrite (s : State) (i : CtxId) (racy : List (Nat × Byte)) (base n : Nat) (a : Addr) (bytes : List PByte) :
    State × Except AtFault Met :=
  let c := s.ctx i
  match a.place with
  | .virt =>
    match s.vPut (tlbOf i.core) c.launch.asid a.a bytes with
    | (s, .error f) => (s, .error f)
    | (s, .ok m) => (s.clobberVirt (tlbOf i.core) c.launch.asid a.a bytes.length, .ok m)
  | .loc =>
    let loose := bit1 base 25 && (s.mcwNo (polOf i.core) c.launch.asid (bits base 0 22) n).any fun w => c.mcLoose.getLsbD w
    let put := fun (s : State) (p : Nat) =>
      let s := s.placeWrite racy (p + (a.a - base)) bytes
      if loose then s.undefine (p + (a.a - base)) bytes.length else s
    ((s.localPlaces c base n).foldl put s, .ok .none)
  | .boez =>
    let s := s.placeWrite [] (boezemBase + a.a) bytes
    (if c.bzLoose.getLsbD (a.a / 2 ^ 23) then s.undefine (boezemBase + a.a) bytes.length else s, .ok .none)

/-- n bytes at an address of a context become undefined. -/
def State.loseAt (s : State) (c : Ctx) (a : Addr) (n : Nat) : State :=
  match a.place with
  | .virt => s.vUndef (tlbOf c.id.core) c.launch.asid (pagesOf n) a.a n
  | .loc => (s.localPlaces c a.a n).foldl (fun s p => s.undefine p n) s
  | .boez => if s.boezOpen c.launch.asid a.a n then s.undefine (boezemBase + a.a) n else s

/-- Status-word bits of what a transfer met (R384). -/
def metBits (m : Met) : BitVec 18 := (if m.poison then 2#18 else 0) ||| (if m.lost then 16#18 else 0)

/-! ### Held faults and flags -/

/-- Hold an engine of a context at a fault; an engine that already holds one does not move (R122). -/
def State.holdEng (s : State) (i : CtxId) (h : Holder) (engine : Nat) (f : XFault) (write : Bool) (va progress : Nat) :
    State :=
  s.holdOne h f write engine i.core i.slot (s.ctx i).launch.asid va progress

/-- Flags an engine sets for a slot of a context (R207, R208). -/
def State.engFlags (s : State) (i : CtxId) (slot issued : Nat) (pc : Word) (f : BitVec 5) : State :=
  if f = 0 then s else s.mapCtx i fun c => (c.firstEvent (s.feat 19) s.cycle issued pc slot f).stick slot f

/-- Slot and engine numbers of a culvert (R122, R207). -/
def culSlot (c1 : Bool) : Nat := if c1 then 5 else 4
def culEng (c1 : Bool) : Nat := if c1 then 1 else 0

/-! ### Tensor descriptor updates (R226) -/

/-- The four low bytes of a descriptor after an update with a census and the status bits POISON, SAT, LOSS, WRAP. -/
def descNew (old cen : Nat) (st : BitVec 4) : Nat :=
  let d := putBits old 16 8 (min (bits old 16 8) cen)
  putBits d 24 4 (bits d 24 4 ||| st.toNat)

/-- The update at a descriptor's address, with the stores it races with (R246); the fault it meets otherwise. -/
def State.descUpdate (s : State) (i : CtxId) (racy : List (Nat × Byte)) (a : Addr) (cen : Nat) (st : BitVec 4) :
    State × Option XFault :=
  let c := s.ctx i
  match a.place with
  | .virt =>
    match s.xlate (tlbOf i.core) c.launch.asid a.a .write with
    | (s, .error f) => (s, some f)
    | (s, .ok ph) =>
      if !s.paOk ph.pa then (s.count 0x2038, none)
      else if ph.pz then (s, none)
      else (s.tierWrite ph.key ph.pa (leBytes (descNew (s.tierNat ph.key ph.pa 4) cen st) 4), none)
  | _ =>
    let p := c.place (bits a.a 0 22)
    let old := (List.zipIdx (s.view s.mem p 4)).map fun x => s.racyByte racy (p + x.2) x.1
    (s.poke p (s.racyWrite racy p (leBytes (descNew (leNat old) cen st) 4)), none)

/-- The tensor descriptor update an operation owes, with its census and status bits (R226, R390, R392). -/
def EngOp.owes (e : EngOp) : Option (Addr × Nat × BitVec 4) :=
  match e.kind with
  | .copyA _ (some d) =>
    if e.pos = 0 && e.census = 255 && !e.wpois then none
    else (patDesc (dstPat d)).map fun a => (a, e.census, if e.wpois then 1#4 else 0#4)
  | .closing b => if b.owesDesc then (patDesc b.pat.toNat).map fun a => (a, b.census, b.tstat) else none
  | _ => none
/-- An operation without the descriptor update it owes. -/
def EngKind.noDesc : EngKind → EngKind
  | .copyA p _ => .copyA p none
  | _ => .update

/-! ### Completion updates (R385) -/

/-- Whether a write at an address is discarded because its page is marked poisoned: the engine reports POISON (R114). -/
def State.discards (s : State) (c : Ctx) (a : Addr) : Bool :=
  a.place == .virt &&
    match (s.walk c.launch.asid a.a).bind fun l => s.useLeaf l a.a .write with
    | .ok ph => ph.pz
    | .error _ => false

/-- The update of a completion object of a context, with the stores it races with (R246); the fault it meets otherwise. An object in a
closed boezem segment is not reached (R381, log 62); one in a segment that was opened or closed meanwhile is undefined (R381). -/
def State.objUpdate (s : State) (i : CtxId) (racy : List (Nat × Byte)) (a : Addr) (add st : Nat) : State × Option XFault :=
  let c := s.ctx i
  match a.place with
  | .virt => s.objVirt (tlbOf i.core) c.launch.asid a.a add st
  | .loc =>
    ((s.localPlaces c a.a 16).foldl (fun s p => s.objBump none p add st racy) s, none)
  | .boez =>
    (if c.bzLoose.getLsbD (a.a / 2 ^ 23) then s.undefine (boezemBase + a.a) 16
     else if s.boezOpen c.launch.asid a.a 16 then s.objBump none (boezemBase + a.a) add st else s, none)

end Sys2Proof.Machine
end

