-- ==== Sys2Proof/Machine/Matrix.lean ====
section
/-! DEFINITION. The M slot: operand specifiers (R355 to R358), the tile order (R369, R374) with the accumulator commands'
effects (R370 to R372), and the meanings of the matrix instructions at their issue (R357 to R378). -/

namespace Sys2Proof.Machine

/-! ### Specifiers (R355, R356) -/

def spF (x : BitVec 256) (lo n : Nat) : Nat := bits x.toNat lo n
def spLocal (x : BitVec 256) : Bool := bit1 x.toNat 0
def spEnc (x : BitVec 256) : Nat := spF x 1 4
def spLayout (x : BitVec 256) : Nat := spF x 5 2
def spExpand (x : BitVec 256) : Nat := spF x 7 2
def spDv (x : BitVec 256) : Bool := bit1 x.toNat 10
def spStart (x : BitVec 256) : Nat := spF x 24 8
def spRows (x : BitVec 256) : Nat := spF x 144 8
def spKlen (x : BitVec 256) : Nat := spF x 152 8
def spRstride (x : BitVec 256) : Int := sext (spF x 96 32) 32
/-- An address of a specifier: modulo 2^32 for a local BASE, else modulo 2^64 (log 27). -/
def spAt (x : BitVec 256) (off : Int) : Addr :=
  if spLocal x then ⟨.loc, (((spF x 32 32 : Nat) + off) % 2 ^ 32).toNat⟩
  else ⟨.virt, (((spF x 32 64 : Nat) + off) % 2 ^ 64).toNat⟩
def spDesc (x : BitVec 256) : Addr := if bit1 x.toNat 11 then ⟨.loc, spF x 160 32⟩ else ⟨.virt, spF x 160 64⟩
/-- Replace n bits of a specifier. -/
def spPut (x : BitVec 256) (lo n v : Nat) : BitVec 256 := BitVec.ofNat 256 (putBits x.toNat lo n v)

/-- The element type of a load (R356). -/
def spType (x : BitVec 256) : Option Elem :=
  match spEnc x, spExpand x with
  | 0, 0 => some .i8
  | 1, 0 => some .i16
  | 3, 0 => some .i4
  | 8, 0 => some .i8
  | 8, 1 => some .i16
  | 9, 0 => some .i8
  | 9, 1 => some .i8
  | 9, 2 => some .i16
  | 9, 3 => some .i16
  | _, _ => none
/-- Kmax of an element type (R356). -/
def kMax : Elem → Nat
  | .i4 => 192
  | .i16 => 48
  | _ => 96
/-- Bits that a row of n elements takes in stored encoding. -/
def encBits (enc n : Nat) : Nat :=
  match enc with
  | 1 => 16 * n
  | 2 => 32 * n
  | 3 => 4 * n
  | 8 => (n + 31) / 32 * 136
  | 9 => n
  | _ => 8 * n
/-- Bytes of a memory row of n elements. -/
def encBytes (enc n : Nat) : Nat := (encBits enc n + 7) / 8

/-- Specifier faults of every command (R355, R358): reserved bits, and EXPAND and TCACHE values outside their tables. -/
def spBad (x : BitVec 256) : Bool :=
  let e := spEnc x
  spF x 12 4 != 0 || (if e = 8 then 1 < spExpand x else if e = 9 then false else spExpand x != 0)
    || (bit1 x.toNat 9 && spLayout x != 3) || (spF x 128 16 != 0 && spLayout x != 2) || (spLocal x && spF x 64 32 != 0)

/-- Specifier faults of MLDA and MLDB. -/
def loadBad (x : BitVec 256) (ito : Bool) : Bool :=
  let lay := spLayout x
  spBad x ||
    match spType x with
    | none => true
    | some t =>
      let rowMax := if lay = 1 then kMax t else 64
      let kLim := if lay = 1 then 64 else kMax t
      (8 ≤ spEnc x && lay != 0) || spRows x == 0 || rowMax < spRows x || spKlen x == 0 || kLim < spKlen x
        || spRows x ≤ spStart x || (lay == 2 && (spF x 208 4 == 0 || spF x 160 16 == 0)) || (lay == 3 && ito)

/-- Specifier faults of MSHRD (narrow) and of MSTACC and MLDACC, but for what DESC holds. -/
def storeBad (x : BitVec 256) (narrow : Bool) : Bool :=
  let e := spEnc x
  spBad x || (if narrow then !(e == 0 || e == 1 || e == 3) || 1 < spLayout x else e != 2 || spLayout x != 0)
    || spRows x == 0 || 64 < spRows x || spKlen x == 0 || 64 < spKlen x
    || (spDv x && ((spDesc x).a % 64 != 0 || (bit1 x.toNat 11 && spF x 192 32 != 0)))

/-- Whether a tensor descriptor fails R349's checks for an encoding. -/
def descBad (d enc : Nat) : Bool := bits d 0 4 != enc || tdBad d

/-- The address of memory row r of a load; none where a window row reads nothing (R360, R361). -/
def loadRowAt (x : BitVec 256) (r : Nat) : Option Addr :=
  if spLayout x = 2 then
    let p := spF x 224 32 + r
    let ow := spF x 160 16
    let str := spF x 208 4
    let pad := spF x 212 4
    let xx : Int := (p % ow * str + spF x 216 4 : Nat) - (pad : Int)
    let yy : Int := (p / ow * str + spF x 220 4 : Nat) - (pad : Int)
    if 0 ≤ xx ∧ xx < spF x 176 16 ∧ 0 ≤ yy ∧ yy < spF x 192 16 then
      some (spAt x (yy * spRstride x + xx * (spF x 128 16 : Nat)))
    else none
  else some (spAt x (r * spRstride x))
/-- The address of memory row r of a store. -/
def storeRowAt (x : BitVec 256) (r : Nat) : Addr := spAt x (r * spRstride x)

/-- Go on when every local address a command will touch passes R108; P and M never do (R358). -/
def State.withRows (s : State) (l : List Addr) (n : Nat) (k : State → State) : State :=
  match l.find? fun a => a.place == .loc && !s.localOk s.cur a.a n true with
  | some a => s.raise causeAddress (BitVec.ofNat 64 a.a) 0
  | none => k s

/-! ### Numbering -/

/-- Take the next number of the context's engine work. -/
def State.takeSeq (s : State) : State × Nat := (s.setCur fun c => { c with nextSeq := c.nextSeq + 1 }, s.cur.nextSeq)

/-- Record an error of the store path or MRDACC; the first since the last MSTAT stands (R375). -/
def State.storeErr (s : State) (core code : Nat) : State :=
  s.mapCore core fun k => { k with errS := if k.errS = 0 then code else k.errS }
def State.pipeOf (s : State) (core : Nat) (b : Bool) : Pipe := if b then (s.core core).pipeB else (s.core core).pipeA
def State.mapLoadPipe (s : State) (core : Nat) (b : Bool) (f : Pipe → Pipe) : State :=
  s.mapCore core fun k => if b then { k with pipeB := f k.pipeB } else { k with pipeA := f k.pipeA }

/-! ### Tiles (R229, R369 to R374) -/

/-- Whether a command issued in a cycle was issued while the MRDACC that last landed in a tile was in flight, or before it. -/
def Ctx.inLanding (c : Ctx) (n issued : Nat) : Bool :=
  let land := (c.tileLand[n]?).getD 0
  issued < land && land < issued + 8
def Ctx.beforeLanding (c : Ctx) (n issued : Nat) : Bool := issued + 8 < (c.tileLand[n]?).getD 0
/-- Whether an MRDACC into a tile that is in flight was issued before a command. -/
def mrdaccFlying (n issued : Nat) (w : RegWrite) : Bool := sameDest w.dest (.tile n Tile.zero) && w.due < issued + 8
/-- The snapshot of an MRDACC that a command issued before it contends with (R374). -/
def Ctx.altFor (c : Ctx) (n issued : Nat) : Option Tile :=
  if c.beforeLanding n issued then (c.tileAlt[n]?).getD none else none

/-- Whether a tile is undefined to a command issued in a cycle: marked so, or by an MRDACC (R374). -/
def Ctx.tileUndef (c : Ctx) (n issued : Nat) : Bool :=
  c.inLanding n issued || (c.writes.any (mrdaccFlying n issued)) || (c.undef.acc.getLsbD n && (c.altFor n issued).isNone)

/-- The tile a command reads. -/
def State.tileFor (s : State) (c : Ctx) (n issued : Nat) : Tile :=
  if c.tileUndef n issued then s.freeTile n else (c.acc[n]?).getD Tile.zero

/-- The tile after a command that gives t, `whole` where it reads nothing of it. Of two results that meet one stays: this one and
the snapshot of an MRDACC issued after it, and for a whole write that of one in flight at its issue (R191, R374). -/
def State.setTile (s : State) (i : CtxId) (n issued : Nat) (whole : Bool) (t : Tile) : State :=
  let pick := fun (x : Tile) => if s.choose (2 ^ 34 + 64 + n) 2 = 0 then x else t
  s.mapCtx i fun c =>
    let old := (c.acc[n]?).getD Tile.zero
    if c.writes.any (mrdaccFlying n issued) then
      if whole then
        { c.loseTile n with writes := c.writes.map fun (w : RegWrite) => match w.dest with
            | .tile _ x => if mrdaccFlying n issued w then { w with dest := .tile n (pick x) } else w
            | _ => w }
      else { c.loseTile n with writes := c.writes.filter fun w => !mrdaccFlying n issued w }
    else
      match c.altFor n issued with
      | some x =>
        if s.tileClash c n ((c.tileLand[n]?).getD 0) then { c with acc := c.acc.setIfInBounds n (pick x) } else c.putTile n (pick x)
      | none =>
        if c.inLanding n issued then (if whole then { c with acc := c.acc.setIfInBounds n (pick old) } else c.loseTile n)
        else if whole then c.putTile n t
        else { c with acc := c.acc.setIfInBounds n t }

/-- What a command on a tile that leaves the tile alone does to it: of its contents and the snapshot of an MRDACC issued after the
command one stays (R374). -/
def State.settleTile (s : State) (i : CtxId) (n issued : Nat) : State :=
  match (s.ctx i).altFor n issued with
  | some x =>
    let y := if s.choose (2 ^ 34 + 64 + n) 2 = 0 then x else ((s.ctx i).acc[n]?).getD Tile.zero
    s.mapCtx i fun c =>
      if s.tileClash c n ((c.tileLand[n]?).getD 0) then { c with acc := c.acc.setIfInBounds n y } else c.putTile n y
  | none => s

/-- Element (i, j) of a tile as a number. -/
def Tile.at_ (t : Tile) (i j : Nat) : Int := (((t.el[i]?).bind fun r => r[j]?).getD 0).toInt

/-- A tile whose elements a function gives, with flags. -/
def tileMap (t : Tile) (f : Nat → Nat → Int × BitVec 5) : Tile × BitVec 5 :=
  let rs : Vector (Vector (Int × BitVec 5) 64) 64 := Vector.ofFn fun i => Vector.ofFn fun j => f i.val j.val
  let fl := rs.toList.foldl (fun a r => r.toList.foldl (fun a x => a ||| x.2) a) 0
  ({ t with el := rs.map fun r => r.map fun x => BitVec.ofInt 32 x.1 }, fl)

/-- MSCALE (R372). -/
def scaleTile (t : Tile) (r : Rnd) (sh : Int) (seed ctr : Word) : Tile × BitVec 5 :=
  let (t', f) := tileMap t fun i j =>
    if 0 ≤ sh then shd (t.at_ i j) sh.toNat r .i32 (laneBits seed ctr (64 * i + j) sh.toNat)
    else clampF .i32 (t.at_ i j * 2 ^ (-sh).toNat)
  ({ t' with sat := t.sat || f.getLsbD 0 }, f)

/-- A step's sums added to a tile (R229, R370). -/
def stepTile (t : Tile) (sums : List (List Int)) (poison : Bool) : Tile × BitVec 5 :=
  let (t', f) := tileMap t fun i j => clampF .i32 (t.at_ i j + (((sums[i]?).bind fun r => r[j]?).getD 0))
  ({ t' with sat := t.sat || f != 0, poison := t.poison || poison, steps := t.steps + 1 }, f)

/-- The memory rows of a shift-down, as elements with flags (R371). -/
def shrdRows (t : Tile) (x : BitVec 256) (r : Rnd) (sh : Nat) (seed ctr : Word) : List (List (Int × BitVec 5)) :=
  let ty := (spType x).getD .i8
  let y := fun i j => shd (t.at_ i j) sh r ty (laneBits seed ctr (64 * i + j) sh)
  if spLayout x = 1 then (List.range (spKlen x)).map fun j => (List.range (spRows x)).map fun i => y i j
  else (List.range (spRows x)).map fun i => (List.range (spKlen x)).map fun j => y i j

/-- The store path command of a shift-down or a store, from the tile as it stands (R230, R370, R371). -/
def storeCmd (i : CtxId) (m : MCmd) (x : BitVec 256) (t : Tile) (rows : List (List (Int × BitVec 5))) (ty : Elem) : StoreCmd :=
  let f := rows.foldl (fun a r => r.foldl (fun a e => a ||| e.2) a) 0
  let pats := rows.map fun r => r.map fun e => pat e.1 ty.size
  { ctx := i, seq := m.seq, issued := m.issued, tile := m.tile, load := false, spec := x
    rows := pats.map fun r => leBytes (packLanes ty.size r) ((r.length * ty.size + 7) / 8)
    row := 0, got := [], poison := t.poison, census := censusList ty pats.flatten
    tstat := (if t.poison then 1#4 else 0) ||| (if f.getLsbD 0 then 2#4 else 0) ||| (if f.getLsbD 3 then 4#4 else 0)
    flags := f ||| flagIf t.poison flagPoison, pc := m.pc, descDue := spDv x && (spDesc x).place == .virt
    waits := m.waits, racy := m.racy }

/-! ### Tile order (R369) -/

/-- Commands whose writes leave on the store path in issue order (R373). -/
def MKind.stores : MKind → Bool
  | .shrd _ _ _ _ _ | .stacc _ => true
  | _ => false
def MKind.isStep : MKind → Bool
  | .step _ _ _ _ _ _ => true
  | _ => false

/-- Whether a command that is no step may take effect: every earlier command on its tile has. -/
def State.mqReady (s : State) (c : Ctx) (m : MCmd) : Bool :=
  !m.kind.isStep && (c.mq.all fun e => m.seq ≤ e.seq || e.tile != m.tile)
    && ((s.pol (polOf c.id.core)).arr.all fun a => a.ctx != c.id || a.tile != m.tile || m.seq < a.seq)
    && ((s.core c.id.core).store.all fun x => x.ctx != c.id || !x.load || x.tile != m.tile || m.seq < x.seq)
    && (!m.kind.stores || c.mq.all fun e => m.seq ≤ e.seq || !e.kind.stores)

/-- The effect of a command on its tile. -/
def State.mqPerform (s : State) (i : CtxId) (m : MCmd) : State :=
  let s := s.mapCtx i fun c => { c with mq := c.mq.filter fun e => e.seq != m.seq }
  let t := s.tileFor (s.ctx i) m.tile m.issued
  let put := fun (x : StoreCmd) => s.mapCore i.core fun k => { k with store := k.store ++ [x] }
  match m.kind with
  | .zero => s.setTile i m.tile m.issued true Tile.zero
  | .scale r sh seed ctr =>
    let (t', f) := scaleTile t r sh seed ctr
    (s.setTile i m.tile m.issued false t').engFlags i 3 m.issued m.pc f
  | .step _ _ _ _ _ _ => s
  | .shrd x r sh seed ctr => (put (storeCmd i m x t (shrdRows t x r sh seed ctr) ((spType x).getD .i8))).settleTile i m.tile m.issued
  | .stacc x =>
    (put (storeCmd i m x t ((List.range (spRows x)).map fun i => (List.range (spKlen x)).map fun j => (t.at_ i j, 0)) .i32)).settleTile
      i m.tile m.issued
  | .ldacc x => put { storeCmd i m x t [] .i32 with
      load := true, poison := false, census := 255, tstat := 0, flags := 0, descDue := spDv x && (spDesc x).place == .virt }

/-- Let every command of a context that is ready take effect, in issue order. -/
def State.runMq (s : State) (i : CtxId) : State :=
  (s.ctx i).mq.foldl (fun s m => if s.mqReady (s.ctx i) m then s.mqPerform i m else s) s

/-- Enter a command into the tile order. -/
def State.pushM (s : State) (tile : Nat) (k : MKind) : State :=
  let (s, n) := s.takeSeq
  let c := s.cur
  let m : MCmd := ⟨n, s.cycle, tile, k, c.fences, c.racing s.cycle c.fenceWaits, c.pc⟩
  (s.setCur fun c => { c with mq := c.mq ++ [m] }).runMq c.id

/-! ### Leases (R200, R366) -/

def execMnop (s : State) : Out := .next s
def execMlease (nM1 : Fin 256) (s : State) : Out :=
  .next (s.op (.mlease nM1) fun s =>
    if s.cur.lease = .none then s.askLease s.cur.id (nM1.val + 1) else s.raise causeLease 0 0)
def execMfree (s : State) : Out :=
  .next (s.op .mfree fun s =>
    if s.cur.lease = .none then s else (s.dropLease s.cur.id).setCur fun c => c.setCsr csrLeaseLeft 0)

/-! ### Specifiers (R357, R365) -/

/-- Write a specifier, as MSPEC and MSPECF do. -/
def State.putSpec (s : State) (os : OsNo) (x : BitVec 256) : State :=
  s.setCur fun c => { c with os := c.os.set os x, osVer := c.osVer.set os (s.cycle + 1) }
def execMspec (os : OsNo) (v : VNo) (s : State) : Out :=
  .next (s.op (.mspec os v) fun s => s.putSpec os ((s.readV v.val).setWidth 256))

/-- The new value of a specifier under MSPECF. -/
def mspecfNew (x : BitVec 256) (field : Nat) (imm : BitVec 18) : BitVec 256 :=
  match field with
  | 0 => spPut x 1 11 imm.toNat
  | 1 => spPut x 16 8 imm.toNat
  | 2 => if spLocal x then spPut x 32 32 (spAt x imm.toInt).a else spPut x 32 64 (spAt x imm.toInt).a
  | 3 => spPut x 96 32 (imm.toInt % 2 ^ 32).toNat
  | 4 => spPut x 128 16 imm.toNat
  | 5 => spPut x 144 8 imm.toNat
  | 6 => spPut x 152 8 imm.toNat
  | 7 => spPut x 160 16 imm.toNat
  | 8 => spPut x 176 16 imm.toNat
  | 9 => spPut x 192 16 imm.toNat
  | 10 => spPut x 208 16 imm.toNat
  | 11 => spPut x 224 32 (((spF x 224 32 : Nat) + imm.toInt) % 2 ^ 32).toNat
  | 12 => spPut x 24 8 imm.toNat
  | _ => x
def execMspecf (os : OsNo) (field : Fin 16) (imm : BitVec 18) (s : State) : Out :=
  .next (s.op (.mspecf os field imm) fun s => s.putSpec os (mspecfNew s.cur.os[os] field.val imm))

/-- MRPROG: the pipe's latest load, from its row progress on. It is no write by MSPEC or MSPECF (R362). While the task's first load
of the pipe waits behind others, it is that load, which has landed no row (DEDUCED, log 126). -/
def execMrprog (os : OsNo) (pipe : Bool) (s : State) : Out :=
  .next (s.op (.mrprog os pipe) fun s =>
    let p := s.pipeOf s.cur.id.core pipe
    let x := if s.cur.pipeUsed.getLsbD pipe.toNat then spPut p.last 24 8 p.prog
      else ((p.q.find? fun l => l.ctx == s.cur.id && l.fill.isNone).map LoadCmd.spec).getD 0
    s.setCur fun c => { c with os := c.os.set os x })

/-! ### Loads (R358 to R364) -/

/-- Specifier values that are reserved while their feature is not active: BS4 and SB1 without BLOCK_FORMATS, compressed weights
without CWEIGHTS (R89). -/
def State.specOff (s : State) (x : BitVec 256) : Bool := (8 ≤ spEnc x && !s.feat 14) || (spLayout x == 3 && !s.feat 15)

/-- A step that may no longer rely on a buffer. -/
def MKind.lose (b buf : Bool) : MKind → MKind
  | .step x y tx ty okX okY => .step x y tx ty (okX && (b || x != buf)) (okY && (!b || y != buf))
  | k => k
/-- Enter a load into its pipe. Buffer contents are undefined from here on to the other contexts of the core, also to a step that
waits for a load to be made again (R359, log 106). -/
def State.pushLoad (s : State) (b : Bool) (l : LoadCmd) (t : Option Elem) : State :=
  let i := s.cur.id
  let ix := 2 * b.toNat + l.buf.toNat
  let s := (s.mapLoadPipe i.core b fun p => ({ p with q := p.q ++ [l] } : Pipe).setHead s.cycle).noteHead i.core b
  let p := s.pipeOf i.core b
  let cut := (if l.buf then p.b1 else p.b0).cut
  let lose := fun (m : MCmd) => if cut then { m with kind := m.kind.lose b l.buf } else m
  let s := (s.tasks.filter fun c => c.id.core == i.core && c.id != i).foldl
    (fun s c => s.mapCtx c.id fun c => { c with bufOk := 0, mq := c.mq.map lose }) s
  s.setCur fun c =>
    match t with
    | some t => { c with bufT := c.bufT.setIfInBounds ix (some t), bufOk := c.bufOk ||| (1#4 <<< ix) }
    | none => c

/-! ### Compressed weight streams (R220 to R222, R362) -/

/-- The stream a CW load reads from: the pipe's, or a new one. -/
def cwFor (p : Option CwStream) (l : LoadCmd) : CwStream :=
  match p with
  | some w => if w.ctx = l.ctx ∧ w.os = l.os ∧ w.ver = l.ver then w else ⟨l.ctx, l.os, l.ver, 0, [], 0, false⟩
  | none => ⟨l.ctx, l.os, l.ver, 0, [], 0, false⟩

/-- A tile of a stream: a decode fault, zeros, or the stream offset of its 6,144 bytes; with the stream behind it. -/
inductive CwTile where
  | fault
  | zero
  | at_ (off : Nat)
  deriving DecidableEq, Repr

/-- Decode a record's header. -/
def cwDecode (w : CwStream) (h : Nat) : CwTile × CwStream :=
  let dist := bits h 2 8
  if bits h 10 6 != 0 || bits h 0 2 == 3 || (bits h 0 2 != 1 && dist != 0) then (.fault, { w with poisoned := true })
  else
    match bits h 0 2 with
    | 0 => (.at_ (w.pos + 2), { w with pos := w.pos + 6146, lits := ((w.pos + 2, []) :: w.lits).take 256, count := w.count + 1 })
    | 1 =>
      match if dist + 1 ≤ w.count then w.lits[dist]? else none with
      | some (o, _) => (.at_ o, { w with pos := w.pos + 2 })
      | none => (.fault, { w with poisoned := true })
    | _ => (.zero, { w with pos := w.pos + 2 })

/-- The tile a load of a local stream will take and the stream behind it, by the header that memory holds now (R358). -/
def State.cwPeek (s : State) (c : Ctx) (w : CwStream) (x : BitVec 256) : CwTile × CwStream :=
  let a := (spAt x w.pos).a
  if w.poisoned || !spLocal x || !s.localOk c a 2 true then (.fault, w)
  else
    let (m, p) := s.loadMem
    let at_ := c.place (bits a 0 22)
    if poisonedAt p at_ 2 then (.fault, { w with poisoned := true }) else cwDecode w (leNat (s.view m at_ 2))
/-- The stream as a new CW load will find it: the loads that wait before it take their records first. -/
def State.cwThen (s : State) (p : Pipe) (l : LoadCmd) : CwStream :=
  cwFor (p.q.foldl (fun w y =>
    if spLayout y.spec != 3 || y.fill.isSome then w
    else
      let v := cwFor w y
      some (if y.bad then v else (s.cwPeek (s.ctx y.ctx) v y.spec).2)) p.cw) l
/-- The local addresses a CW load will touch: its record's header, and the rows of the literal it delivers, each with its bytes. -/
def State.cwTouches (s : State) (p : Pipe) (l : LoadCmd) : List Addr × List Addr :=
  let w := s.cwThen p l
  if !spLocal l.spec || w.poisoned then ([], [])
  else
    ([spAt l.spec w.pos], match (s.cwPeek s.cur w l.spec).1 with
      | .at_ off => ((List.range (spRows l.spec)).filter fun r => spStart l.spec ≤ r).map fun r => spAt l.spec (off + 96 * r : Nat)
      | _ => [])

/-- A load of a buffer through a specifier, with an iterator's VALUE added to BASE (R360). Every local address it will touch is
judged here (R358); for a compressed stream by what memory holds now (log 66). -/
def State.loadTile (s : State) (i : Instr) (b : Bool) (os : OsNo) (buf : Bool) (it : Option ItNo) : State :=
  s.op i fun s =>
    let c := s.cur
    let x := c.os[os]
    let x := match it with
      | some n => spPut x 32 (if spLocal x then 32 else 64) (spAt x (c.it[n]).value.toInt).a
      | none => x
    let bad := loadBad x it.isSome || s.specOff x
    let (s', n) := s.takeSeq
    let alone := (s.pipeOf c.id.core b).q.isEmpty && spLocal x && !bad
    let l : LoadCmd := ⟨c.id, n, s.cycle, x, os.val, c.osVer[os], buf, none, spStart x, bad, alone, 0, c.fences,
      c.racing s.cycle c.fenceWaits, c.pc⟩
    let go := fun (_ : State) => s'.pushLoad b l (if bad then none else spType x)
    if bad then go s
    else if spLayout x = 3 then
      let (heads, rows) := s.cwTouches (s.pipeOf c.id.core b) l
      s.withRows heads 2 fun s => s.withRows rows 96 go
    else
      s.withRows (((List.range (spRows x)).filter fun r => spStart x ≤ r).filterMap (loadRowAt x)) (encBytes (spEnc x) (spKlen x)) go

def execMlda (os : OsNo) (buf : Bool) (it : Option ItNo) (s : State) : Out :=
  .next (s.loadTile (.mlda os buf it) false os buf it)
def execMldb (os : OsNo) (buf : Bool) (it : Option ItNo) (s : State) : Out :=
  .next (s.loadTile (.mldb os buf it) true os buf it)
def execMfill (t : Elem) (pat : FillPat) (buf pipe : Bool) (s : State) : Out :=
  .next (s.op (.mfill t pat buf pipe) fun s =>
    let c := s.cur
    let (s, n) := s.takeSeq
    s.pushLoad pipe ⟨c.id, n, s.cycle, 0, 0, 0, buf, some (t, pat), 0, false, false, 0, [], [], c.pc⟩ (some t))

/-! ### Array commands (R367, R368) -/

/-- A step of buffers aX and bY. -/
def Ctx.stepOf (c : Ctx) (a b : Bool) : MKind :=
  .step a b (c.bufType a.toNat) (c.bufType (2 + b.toNat)) (c.bufOk.getLsbD a.toNat) (c.bufOk.getLsbD (2 + b.toNat))

/-- Spend n array commands of the lease; it ends with the last (R200). -/
def State.spend (s : State) (n : Nat) : State :=
  let left := (s.cur.csrs csrLeaseLeft).toNat - n
  let s := s.setCur fun c => c.setCsr csrLeaseLeft (BitVec.ofNat 64 left)
  if left = 0 then s.dropLease s.cur.id else s

def execMmac (b a : Bool) (acc : AccNo) (s : State) : Out :=
  .next (s.op (.mmac b a acc) fun s =>
    let c := s.cur
    match c.lease with
    | .none => s.raise causeLease 0 0
    | .requested => s.stall
    | .held => (s.pushM acc.val (c.stepOf a b)).spend 1)
def execMmacq (b a : Bool) (s : State) : Out :=
  .next (s.op (.mmacq b a) fun s =>
    let c := s.cur
    if c.lease = .none ∨ (c.csrs csrLeaseLeft).toNat < 4 then s.raise causeLease 0 0
    else if c.lease = .requested then s.stall
    else
      ((((s.pushM 0 (c.stepOf a b)).pushM 1 (c.stepOf a !b)).pushM 2 (c.stepOf (!a) b)).pushM 3 (c.stepOf (!a) !b)).spend 4)

/-! ### Accumulator commands (R370 to R374) -/

def execMzero (acc : AccNo) (s : State) : Out := .next (s.op (.mzero acc) fun s => s.pushM acc.val .zero)
def execMscale (rnd : Rnd) (sh : BitVec 6) (acc : AccNo) (s : State) : Out :=
  .next (s.op (.mscale rnd sh acc) fun s =>
    let (s, ctr) := if rnd = .rsto then s.draw else (s, 0)
    s.pushM acc.val (.scale rnd sh.toInt (s.cur.csrs csrSeed) ctr))

/-- A command of the store path: specifier faults, local checks, then its place in the tile order (R358). `s0` is the state
of a trap: a suppressed command has drawn nothing (R184). -/
def State.storeTile (s0 s : State) (x : BitVec 256) (narrow : Bool) (acc : AccNo) (k : MKind) : State :=
  if storeBad x narrow then s.storeErr s.cur.id.core 2
  else
    let n := if spLayout x = 1 then spKlen x else spRows x
    let w := encBytes (spEnc x) (if spLayout x = 1 then spRows x else spKlen x)
    s0.withRows ((List.range n).map (storeRowAt x)) w fun _ =>
      if spDv x && (spDesc x).place == .loc then
        s0.withRows [spDesc x] 64 fun _ =>
          let d := leNat (s.view s.loadMem.1 (s.cur.place (bits (spDesc x).a 0 22)) 64)
          if descBad d (spEnc x) then s.storeErr s.cur.id.core 2 else s.pushM acc.val k
      else s.pushM acc.val k

def execMshrd (os : OsNo) (rnd : Rnd) (sh : Fin 64) (acc : AccNo) (s : State) : Out :=
  .next (s.op (.mshrd os rnd sh acc) fun s =>
    let x := s.cur.os[os]
    let (s', ctr) := if rnd = .rsto then s.draw else (s, 0)
    s.storeTile s' x true acc (.shrd x rnd sh.val (s.cur.csrs csrSeed) ctr))
def execMstacc (os : OsNo) (acc : AccNo) (s : State) : Out :=
  .next (s.op (.mstacc os acc) fun s => s.storeTile s s.cur.os[os] false acc (.stacc s.cur.os[os]))
def execMldacc (os : OsNo) (acc : AccNo) (s : State) : Out :=
  .next (s.op (.mldacc os acc) fun s => s.storeTile s s.cur.os[os] false acc (.ldacc s.cur.os[os]))

/-- A tile as MRDACC and MSTAT see it now: undefined while an MRDACC into it is in flight. -/
def State.tileNow (s : State) (n : Nat) : Tile :=
  if s.cur.tileBusy n then s.freeTile n else (s.cur.acc[n]?).getD Tile.zero

/-- Specifier faults of MRDACC and MSTAT for a record of n bytes. -/
def recordBad (x : BitVec 256) (n : Nat) : Bool := spBad x || !spLocal x || (spAt x 0).a % n != 0

/-- MRDACC: after a specifier fault the count is not written; the snapshot, which touches no memory, is (log 28). -/
def execMrdacc (os : OsNo) (d src : AccNo) (s : State) : Out :=
  .next (s.op (.mrdacc os d src) fun s =>
    let x := s.cur.os[os]
    let t := s.tileNow src.val
    if recordBad x 8 then (s.storeErr s.cur.id.core 2).write 8 (.tile d.val t)
    else
      s.withRows [spAt x 0] 8 fun s =>
        (s.write 8 (.tile d.val t)).write 8 (.mem (s.cur.place (bits (spAt x 0).a 0 22)) (leBytes t.steps.toNat 8)))

/-! ### Status and ordering (R375 to R377) -/

/-- Tile fields of the status record. -/
def State.statTiles (s : State) : Nat :=
  (List.range 4).foldl (fun n i =>
    if i < s.cur.launch.accs then
      let t := s.tileNow i
      n + t.sat.toNat * 2 ^ i + t.poison.toNat * 2 ^ (4 + i) + t.steps.toNat % 2 ^ 32 * 2 ^ (64 + 32 * i)
    else n) 0
def execMstat (os : OsNo) (s : State) : Out :=
  .next (s.op (.mstat os) fun s =>
    let x := s.cur.os[os]
    if recordBad x 32 then s.storeErr s.cur.id.core 2
    else
      s.withRows [spAt x 0] 32 fun s => s.write 8 (.stat (s.cur.place (bits (spAt x 0).a 0 22)) s.statTiles))
def execMwait (st b a : Bool) (s : State) : Out :=
  .next (s.op (.mwait st b a) fun s =>
    if s.cur.lease = .requested then s.stall
    else s.setCur fun c => { c with
      fences := c.fences ++ [⟨none, BitVec.ofNat 3 (a.toNat + 2 * b.toNat + 4 * st.toNat), c.nextSeq, s.cycle⟩] })
/-- MTCINV changes only timing (R377). -/
def execMtcinv (s : State) : Out := .next (s.op .mtcinv fun s => s)

end Sys2Proof.Machine
end

