-- ==== Sys2Proof/Machine/Array.lean ====
section
/-! DEFINITION. The matrix engines at work: the load pipes and collectors (R359 to R364, R201, R220 to R222), the array
(R200, R229, R369) and the store path (R370, R371, R373). -/

namespace Sys2Proof.Machine

/-! ### Collectors (R359) -/

/-- Whether element (i, k) of a buffer is valid. -/
def Collector.valid (c : Collector) (i k : Nat) : Bool :=
  if c.fill.isSome then true
  else if spLayout c.spec = 1 then i < spKlen c.spec && k < spRows c.spec
  else i < spRows c.spec && k < spKlen c.spec

/-- feed of R359, with the flags of a BS4 expansion. -/
def Collector.feed (c : Collector) (i k : Nat) : Int × BitVec 5 :=
  if !c.valid i k then (0, 0)
  else
    let row := ((c.rows[i]?).getD 0).toNat
    let plain := fun (t : Elem) => (sext (bits row (t.size * k) t.size) t.size, (0 : BitVec 5))
    match c.fill with
    | some t => plain t
    | none =>
      let t := (spType c.spec).getD .i8
      match spEnc c.spec with
      | 8 =>
        let blk := leBytes (bits row (k / 32 * 136) 136) 17
        bs4Dec (sext (bits row (k / 32 * 136) 8) 8) (bs4Nib blk (k % 32)) t (sext (spF c.spec 16 8) 8)
      | 9 => (sb1Val (spExpand c.spec % 2 == 1) (bit1 row k), 0)
      | _ => plain t

/-- Whether a step over K elements reads a poisoned row or column of a buffer (R230, R367). -/
def Collector.poisoned (c : Collector) (kk : Nat) : Bool :=
  ((List.range 64).any fun i => c.rpois.getLsbD i && c.valid i 0)
    || (List.range kk).any fun k => c.cpois.getLsbD k && c.valid 0 k

/-- The buffer as a step sees it: contents that are undefined, all of them to a context that may not rely on them, are free, and
so are their marks then (R124, R359, R367, log 1). -/
def State.bufferFor (s : State) (c : Collector) (t : Elem) (ok : Bool) (key : Nat) : Collector :=
  let any := fun (r : Nat) => s.free (2 ^ 33 + 64 * key + r) 768
  if !ok then
    { c with rows := Vector.ofFn fun r => any r.val, fill := some t
             rpois := if c.rpois = BitVec.allOnes 64 then c.rpois else s.free (2 ^ 33 + 512 + key) 64, cpois := 0 }
  else if c.urow = 0 && c.ucol = 0 then c
  else
    let cols := (List.range 192).filter fun k => c.ucol.getLsbD k
    let mix := fun (row : BitVec 768) (x : BitVec 768) =>
      BitVec.ofNat 768 (cols.foldl (fun n k => putBits n (k * t.size) t.size (bits x.toNat (k * t.size) t.size)) row.toNat)
    { c with rows := Vector.ofFn fun r => if c.urow.getLsbD r.val then any r.val else mix c.rows[r] (any r.val) }

/-! ### Steps (R229, R369) -/

def State.collector (s : State) (core : Nat) (b buf : Bool) : Collector :=
  let p := s.pipeOf core b
  if buf then p.b1 else p.b0

/-- Whether an earlier load into a buffer has not completed. -/
def State.loading (s : State) (core : Nat) (b buf : Bool) (issued : Nat) : Bool :=
  (s.pipeOf core b).q.any fun l => l.buf == buf && l.issued < issued

/-- Whether a buffer is complete to a step: no earlier load into it is still to land, and the step's context has no aborted load as
its latest there (R201, R360, R369). -/
def State.complete? (s : State) (core : Nat) (b buf ok : Bool) (issued : Nat) : Bool :=
  !s.loading core b buf issued && !(ok && (s.collector core b buf).cut)

/-- Whether what stands before a step on its tile takes effect before the step lands: steps that have entered, and
commands that wait for nothing else (log 29). -/
def State.tileClear (s : State) (c : Ctx) (m : MCmd) : Bool :=
  (c.mq.all fun e => m.seq ≤ e.seq || e.tile != m.tile || match e.kind with
    | .zero | .scale _ _ _ _ => true
    | .shrd _ _ _ _ _ | .stacc _ => c.mq.all fun x => e.seq ≤ x.seq || x.tile == e.tile || !x.kind.stores
    | _ => false)
    && (s.core c.id.core).store.all fun x => x.ctx != c.id || !x.load || x.tile != m.tile

/-- The first step of a context, when it can enter the array now. -/
def State.stepReady (s : State) (c : Ctx) : Option MCmd :=
  match c.mq.find? fun m => m.kind.isStep with
  | some m =>
    match m.kind with
    | .step a b _ _ okA okB =>
      if m.issued < s.cycle && (s.pol (polOf c.id.core)).freeAt ≤ s.cycle && s.complete? c.id.core false a okA m.issued
          && s.complete? c.id.core true b okB m.issued && s.tileClear c m then some m else none
    | _ => none
  | none => none

/-- The sums of a step with the flags of its expansions (R229, R359). -/
def stepSums (a b : Collector) (kk : Nat) : List (List Int) × BitVec 5 :=
  let read := fun (c : Collector) => (List.range 64).map fun i => (List.range kk).map fun k => c.feed i k
  let ra := read a
  let rb := read b
  let fl := (ra ++ rb).foldl (fun f r => r.foldl (fun f x => f ||| x.2) f) 0
  (ra.map fun x => rb.map fun y => ((x.zip y).map fun p => p.1.1 * p.2.1).sum, fl)

/-- A step enters the array: it reads its buffers, and its sums land 6 cycles after its last entry cycle. -/
def State.enterStep (s : State) (c : Ctx) (m : MCmd) : State :=
  match m.kind with
  | .step a b ta tb okA okB =>
    let ca := s.bufferFor (s.collector c.id.core false a) ta okA a.toNat
    let cb := s.bufferFor (s.collector c.id.core true b) tb okB (2 + b.toNat)
    let kk := kMax ta
    let more := if ta = .i16 ∧ tb = .i16 then 1 else 0
    let (sums, f) := stepSums ca cb kk
    let p := ca.poisoned kk || cb.poisoned kk
    let e : ArrStep := ⟨c.id, m.seq, m.tile, sums, p, f ||| flagIf p flagPoison, m.pc, m.issued, s.cycle + more + 6⟩
    (s.mapCtx c.id fun c => { c with mq := c.mq.filter fun x => x.seq != m.seq }).mapPol (polOf c.id.core) fun q =>
      { q with arr := q.arr ++ [e], freeAt := s.cycle + more + 1 }
  | _ => s

/-- The context of a polder whose step enters next, with the step. -/
def State.nextStep (s : State) (p : Nat) : Option (Ctx × MCmd) :=
  (s.tasks.filter fun c => polOf c.id.core == p).findSome? fun c => (s.stepReady c).map fun m => (c, m)

def execStepEnter (p : Fin 24) (s : State) : Out :=
  .next <|
  match s.nextStep p.val with
  | some (c, m) => s.enterStep c m
  | none => s

/-- One step lands in its tile, and what waits behind it on the tile follows (R229, R369). -/
def State.landStep (s : State) (a : ArrStep) : State :=
  let s := s.mapPol (polOf a.ctx.core) fun q => { q with arr := q.arr.erase a }
  let (t, f) := stepTile (s.tileFor (s.ctx a.ctx) a.tile a.issued) a.sums a.poison
  ((s.setTile a.ctx a.tile a.issued false t).engFlags a.ctx 3 a.issued a.pc (f ||| a.flags)).runMq a.ctx

def execStepLand (p : Fin 24) (s : State) : Out :=
  .next (((s.pol p.val).arr.filter fun a => a.due ≤ s.cycle).foldl (fun s a => s.landStep a) s)

/-- Whether the head of a polder's lease queue may be granted: the array is free (R200, R366). -/
def State.mayGrant (s : State) (p : Nat) : Bool :=
  let q := s.pol p
  q.holder.isNone && !q.leaseQ.isEmpty && q.freeAt ≤ s.cycle
    && s.tasks.all fun c => polOf c.id.core != p || c.mq.all fun m => !m.kind.isStep

def execLeaseGrant (p : Fin 24) (s : State) : Out :=
  .next <|
  match (s.pol p.val).leaseQ with
  | (i, _) :: rest =>
    if s.mayGrant p.val then
      (s.mapPol p.val fun q => { q with holder := some i, leaseQ := rest }).mapCtx i fun c => { c with lease := .held }
    else s
  | [] => s

/-! ### Landing rows (R360) -/

/-- A memory row of `w` bits of data lands: as a collector row, or in transposed layout as element r of the rows. -/
def Collector.land (c : Collector) (x : BitVec 256) (r data : Nat) (bad : Bool) : Collector :=
  if spLayout x = 1 then
    let w := ((spType x).getD .i8).size
    { c with
      rows := Vector.ofFn fun j =>
        if j.val < spKlen x then BitVec.ofNat 768 (putBits c.rows[j].toNat (r * w) w (bits data (j.val * w) w)) else c.rows[j]
      cpois := if bad then c.cpois ||| (1#192 <<< r) else c.cpois &&& ~~~(1#192 <<< r)
      ucol := c.ucol &&& ~~~(1#192 <<< r) }
  else
    let n := encBits (spEnc x) (spKlen x)
    { c with
      rows := c.rows.setIfInBounds r (BitVec.ofNat 768 (putBits ((c.rows[r]?).getD 0).toNat 0 n data))
      rpois := if bad then c.rpois ||| (1#64 <<< r) else c.rpois &&& ~~~(1#64 <<< r)
      urow := c.urow &&& ~~~(1#64 <<< r) }
/-- A window row outside the input is all zero (R361). -/
def Collector.landZero (c : Collector) (r : Nat) : Collector :=
  { c with rows := c.rows.setIfInBounds r 0, rpois := c.rpois &&& ~~~(1#64 <<< r), urow := c.urow &&& ~~~(1#64 <<< r) }
/-- What a load does to a buffer before its first row: the buffer takes the specifier; a load of every row clears the
marks. -/
def Collector.begin (c : Collector) (x : BitVec 256) : Collector :=
  let c := { c with spec := x, fill := none }
  if spStart x = 0 then { c with rpois := 0, cpois := 0, urow := 0, ucol := 0 } else c
/-- A buffer whose load ends at memory row n: what had not landed is undefined (R124, R360, R222). -/
def Collector.cutAt (c : Collector) (x : BitVec 256) (n : Nat) : Collector :=
  let c := if n = spStart x then c.begin x else c
  if spLayout x = 1 then { c with ucol := c.ucol ||| (BitVec.allOnes 192 <<< n) } else { c with urow := c.urow ||| (BitVec.allOnes 64 <<< n) }

def Pipe.mapBuf (p : Pipe) (buf : Bool) (f : Collector → Collector) : Pipe :=
  if buf then { p with b1 := f p.b1 } else { p with b0 := f p.b0 }

/-- Whether a load may land rows: it is not held, its waits are met, and the steps issued before it have read its buffer
(R252, R363, R376) unless an aborted load left it incomplete and they wait for this load (log 106); an MFILL no earlier than 2 cycles
after it came to the head (R364). -/
def State.loadReady (s : State) (core : Nat) (b : Bool) : Option LoadCmd :=
  match (s.pipeOf core b).q with
  | [] => none
  | l :: _ =>
    let reads := fun (m : MCmd) => m.issued < l.issued && match m.kind with
      | .step a b' _ _ _ _ => (if b then b' else a) == l.buf
      | _ => false
    if l.issued < s.cycle && (l.fill.isNone || l.head + 1 ≤ s.cycle) && !(s.isHeld (.pipe core b)) && s.waitsMet (s.ctx l.ctx) l.waits
        && ((s.collector core b l.buf).cut || s.tasks.all fun c => c.id.core != core || c.mq.all fun m => !reads m)
    then some l else none

/-- The engine number of a load pipe (R122). -/
def pipeEng (b : Bool) : Nat := if b then 3 else 2

/-- The load at the head is done. -/
def State.popLoad (s : State) (core : Nat) (b : Bool) (f : Pipe → Pipe) : State :=
  (s.mapLoadPipe core b fun p => ({ f p with q := p.q.drop 1 } : Pipe).setHead s.cycle).noteHead core b

/-- Note that the load at the head has landed every row below r. -/
def State.rowsDone (s : State) (core : Nat) (b : Bool) (l : LoadCmd) (r : Nat) (f : Collector → Collector) : State :=
  let first := l.row = spStart l.spec
  let upd := fun (c : Collector) => f (if first then c.begin l.spec else c)
  if r < spRows l.spec then
    s.mapLoadPipe core b fun p => { p.mapBuf l.buf upd with q := { l with row := r } :: p.q.drop 1, prog := r }
  else s.popLoad core b fun p => { p.mapBuf l.buf fun c => { upd c with cut := false } with prog := r }

/-- Every row of the buffer is marked poisoned, and the pipe's first error stands (R222, R358). -/
def Pipe.spoil (p : Pipe) (buf : Bool) (code : Nat) : Pipe :=
  { p.mapBuf buf fun c => { c with rpois := BitVec.allOnes 64, cut := false } with err := if p.err = 0 then code else p.err }

/-- An MFILL's rows (R364). -/
def fillRow (t : Elem) (f : FillPat) (i : Nat) : Nat :=
  packLanes t.size ((List.range (kMax t)).map fun k =>
    (match f with
      | .ones => true
      | .ident => k == i
      | .upper => i ≤ k
      | .lower => k ≤ i).toNat)
def Collector.fillWith (c : Collector) (t : Elem) (f : FillPat) : Collector :=
  { c with rows := Vector.ofFn fun i => BitVec.ofNat 768 (fillRow t f i.val), rpois := 0, cpois := 0, urow := 0, ucol := 0, fill := some t, cut := false }

/-! ### Compressed weight streams at work (R220 to R222, R362) -/

/-- The pipe's stream, which its CW loads go on with (R362). -/
def State.putCw (s : State) (core : Nat) (b : Bool) (w : CwStream) : State :=
  s.mapLoadPipe core b fun p => { p with cw := some w }

/-- The rows of a literal as memory holds them now; none for one that cannot be read (R221). -/
def State.cwRows (s : State) (l : LoadCmd) (off : Nat) : List (Option Nat) :=
  (List.range 64).map fun r => match s.eRead l.ctx [] (spAt l.spec (off + 96 * r : Nat)) 96 with
    | (_, .ok (b, _)) => some (leNat (b.map Prod.fst))
    | (_, .error _) => none
/-- Note a literal's rows. -/
def CwStream.saw (w : CwStream) (off : Nat) (rows : List (Option Nat)) : CwStream :=
  { w with lits := w.lits.map fun x => if x.1 = off then (off, rows) else x }

/-- A compressed load whose tile is delivered poisoned, with contents nothing states (R222, log 1). -/
def State.cwSpoil (s : State) (core : Nat) (b : Bool) (l : LoadCmd) (w : CwStream) (fresh : Bool) : State :=
  let junk := fun (c : Collector) => (c.begin l.spec).cutAt l.spec (spStart l.spec)
  let s := (s.putCw core b w).popLoad core b fun p =>
    let p := (p.mapBuf l.buf junk).spoil l.buf 1
    { p with prog := spRows l.spec, err := if fresh then p.err else (s.pipeOf core b).err }
  if fresh then s.engFlags l.ctx 3 l.issued l.pc flagPoison else s

/-! ### Moving a load -/

/-- The pipe meets a fault (R122, R360). -/
def State.holdLoad (s : State) (core : Nat) (b : Bool) (l : LoadCmd) (f : AtFault) (va : Nat) : State :=
  s.holdEng l.ctx (.pipe core b) (pipeEng b) f.fault false (va + f.off) l.row

/-- A load with a specifier fault takes its place and ends (R358). -/
def State.loadSpoil (s : State) (core : Nat) (b : Bool) (l : LoadCmd) : State :=
  (s.popLoad core b fun p => p.spoil l.buf 2).engFlags l.ctx 3 l.issued l.pc flagPoison

/-- Stores that race with a load, and so may be seen or not (R246, R363). -/
def State.loadRacy (s : State) (l : LoadCmd) : List (Nat × Byte) := l.racy ++ (s.ctx l.ctx).racing l.issued l.waits

/-- Land one memory row read at an address, its contents changed by `f`. -/
def State.loadRow (s : State) (core : Nat) (b : Bool) (l : LoadCmd) (a : Addr) (n : Nat) (f : Nat → Nat) (after : State → State) :
    State :=
  match s.eRead l.ctx (s.loadRacy l) a n with
  | (s, .error f) => s.holdLoad core b l f a.a
  | (s, .ok (bytes, m)) =>
    after (s.rowsDone core b l (l.row + 1) fun c => c.land l.spec l.row (f (leNat (bytes.map Prod.fst))) m.poison)

/-- One row of a compressed load (R220 to R222, R362). A row of a reference whose bytes are no longer those of its literal is
free (R221, log 1). -/
def State.loadCw (s : State) (core : Nat) (b : Bool) (l : LoadCmd) : State :=
  let w := cwFor (s.pipeOf core b).cw l
  let s := s.putCw core b w
  let last := spRows l.spec ≤ l.row + 1
  let ok := fun (off n : Nat) => !spLocal l.spec || s.localOk (s.ctx l.ctx) (spAt l.spec off).a n true
  if w.poisoned then s.cwSpoil core b l w false
  else if !ok w.pos 2 then s.loadSpoil core b l
  else
    match s.eRead l.ctx (s.loadRacy l) (spAt l.spec w.pos) 2 with
    | (s, .error f) => s.holdLoad core b l f (spAt l.spec w.pos).a
    | (s, .ok (h, m)) =>
      match if m.poison then (CwTile.fault, { w with poisoned := true }) else cwDecode w (leNat (h.map Prod.fst)) with
      | (.fault, w') => s.cwSpoil core b l w' true
      | (.zero, w') =>
        let s' := s.rowsDone core b l (l.row + 1) fun c => c.landZero l.row
        if last then s'.putCw core b w' else s'
      | (.at_ off, w') =>
        let lit := w.lits.find? fun x => x.1 == off
        let same := fun (d : Nat) =>
          if lit.any fun x => x.2[l.row]? != some (some d) then (s.free (2 ^ 33 + 1024 + l.row) 768).toNat else d
        if !ok (off + 96 * l.row) 96 then s.loadSpoil core b l
        else
          s.loadRow core b l (spAt l.spec (off + 96 * l.row : Nat)) 96 same fun s' =>
            if !last then s' else s'.putCw core b (if lit.isSome then w' else w'.saw off (s'.cwRows l off))

/-- One row of the load at the head of a pipe, or its whole effect where it reads no memory. -/
def State.loadOne (s : State) (core : Nat) (b : Bool) : State :=
  match s.loadReady core b with
  | none => s
  | some l =>
    match l.fill with
    | some (t, f) => s.popLoad core b fun p => p.mapBuf l.buf fun c => c.fillWith t f
    | none =>
      if l.bad then
        (if spLayout l.spec = 3 then s.putCw core b (cwFor (s.pipeOf core b).cw l) else s).loadSpoil core b l
      else if spLayout l.spec = 3 then s.loadCw core b l
      else
        match loadRowAt l.spec l.row with
        | none => s.rowsDone core b l (l.row + 1) fun c => c.landZero l.row
        | some a => s.loadRow core b l a (encBytes (spEnc l.spec) (spKlen l.spec)) id id

/-- Whether two rows share a 64-byte granule, which is then fetched or written whole (R243). -/
def sameGranule (a b : Addr) (n : Nat) : Bool :=
  a.place == b.place && a.a / 64 ≤ (b.a + n - 1) / 64 && b.a / 64 ≤ (a.a + n - 1) / 64

/-- Move the head load of a pipe by a row, and on through rows that share a granule with it. -/
def State.loadMove (s : State) (core : Nat) (b : Bool) : Nat → State
  | 0 => s
  | fuel + 1 =>
    match s.loadReady core b with
    | none => s
    | some l =>
      let s' := s.loadOne core b
      match (s'.pipeOf core b).q with
      | l' :: _ =>
        let n := encBytes (spEnc l.spec) (spKlen l.spec)
        let together := match loadRowAt l.spec l.row, loadRowAt l.spec l'.row with
          | some x, some y => sameGranule x y n
          | _, _ => false
        let cw := spLayout l.spec == 3
        if l'.ctx = l.ctx ∧ l'.seq = l.seq ∧ l'.row = l.row + 1 ∧ (cw || together) = true then State.loadMove s' core b fuel
        else s'
      | [] => s'

/-- The rest of a load lands (R360). -/
def State.loadRest (s : State) (core : Nat) (b : Bool) (l : LoadCmd) : Nat → State
  | 0 => s
  | fuel + 1 =>
    match s.loadReady core b with
    | some x => if x.ctx = l.ctx ∧ x.seq = l.seq then State.loadRest (s.loadOne core b) core b l fuel else s
    | none => s
def execLoadPipeComplete (core : Nat) (pipe : Bool) (s : State) : Out :=
  .next <|
  match s.loadReady core pipe with
  | some l => s.loadRest core pipe l 193
  | none => s

/-- Whether the load at the head must be complete by now (R363, R364). -/
def State.loadDue (s : State) (core : Nat) (b : Bool) : Bool :=
  match s.loadReady core b with
  | some l => l.fill.isSome || (l.alone && l.issued + 12 ≤ s.cycle)
  | none => false

/-! ### The store path (R370, R371, R373) -/

/-- The command at the head, when it may go on. -/
def State.storeReady (s : State) (core : Nat) : Option StoreCmd :=
  match (s.core core).store with
  | [] => none
  | x :: _ =>
    if x.issued < s.cycle && !(s.isHeld (.store core)) && s.waitsMet (s.ctx x.ctx) x.waits then some x else none

def State.mapStore (s : State) (core : Nat) (f : StoreCmd → StoreCmd) : State :=
  s.mapCore core fun k => { k with store := match k.store with
    | [] => []
    | x :: r => f x :: r }
/-- The command at the head leaves the store path. -/
def State.leaveStore (s : State) (core : Nat) : State := s.mapCore core fun k => { k with store := k.store.drop 1 }
/-- The same, and what waits on its tile follows. -/
def State.popStore (s : State) (core : Nat) (x : StoreCmd) : State := (s.leaveStore core).runMq x.ctx
/-- Memory rows of a command. -/
def StoreCmd.count (x : StoreCmd) : Nat := if x.load then spRows x.spec else x.rows.length

/-- The store path meets a fault. -/
def State.holdStore (s : State) (core : Nat) (x : StoreCmd) (f : XFault) (write : Bool) (va : Nat) : State :=
  s.holdEng x.ctx (.store core) engStore f write va x.row

/-- One move of the store path: the read of a virtual descriptor, or a row. A row discarded at a poisoned page is reported as POISON
(R114). -/
def State.storeOne (s : State) (core : Nat) : State :=
  match s.storeReady core with
  | none => s
  | some x =>
    let racy := x.racy ++ (s.ctx x.ctx).racing x.issued x.waits
    if x.descDue then
      match s.eRead x.ctx [] (spDesc x.spec) 64 with
      | (s, .error f) => s.holdStore core x f.fault false ((spDesc x.spec).a + f.off)
      | (s, .ok (d, _)) =>
        if descBad (leNat (d.map Prod.fst)) (spEnc x.spec) then (s.storeErr core 2).popStore core x
        else s.mapStore core fun x => { x with descDue := false }
    else if x.row < x.count then
      let a := storeRowAt x.spec x.row
      if x.load then
        match s.eRead x.ctx racy a (4 * spKlen x.spec) with
        | (s, .error f) => s.holdStore core x f.fault false (a.a + f.off)
        | (s, .ok (l, m)) =>
          let row := (List.range (spKlen x.spec)).map fun j => BitVec.ofNat 32 (leNat (((l.map Prod.fst).drop (4 * j)).take 4))
          s.mapStore core fun x => { x with row := x.row + 1, got := x.got ++ [row], poison := x.poison || m.poison }
      else
        let bytes := ((x.rows[x.row]?).getD []).map fun b => (b, false)
        match s.eWrite x.ctx racy a.a bytes.length a bytes with
        | (s, .error f) => s.holdStore core x f.fault true (a.a + f.off)
        | (s, .ok m) => s.mapStore core fun x =>
          let x := { x with row := x.row + 1 }
          if m.poison then { x with poison := true, tstat := x.tstat ||| 1#4, flags := x.flags ||| flagPoison } else x
    else s

/-- Move the store path by a row, and on through rows that share a granule with it (R243). -/
def State.storeMove (s : State) (core : Nat) : Nat → State
  | 0 => s
  | fuel + 1 =>
    match s.storeReady core with
    | none => s
    | some x =>
      let s' := s.storeOne core
      match (s'.core core).store with
      | y :: _ =>
        let n := if x.load then 4 * spKlen x.spec else ((x.rows[x.row]?).getD []).length
        if x.ctx = y.ctx ∧ x.seq = y.seq ∧ y.row = x.row + 1 ∧ y.row < y.count
            ∧ sameGranule (storeRowAt x.spec x.row) (storeRowAt x.spec y.row) n = true then State.storeMove s' core fuel
        else s'
      | [] => s'

/-- The tile of an MLDACC (R370). -/
def StoreCmd.tileOf (x : StoreCmd) : Tile :=
  { Tile.zero with el := Vector.ofFn fun i => Vector.ofFn fun j => ((x.got[i.val]?).bind fun r => r[j.val]?).getD 0
                   poison := x.poison }

/-- A command whose rows are done ends: the tile of an MLDACC lands; a store updates its descriptor and sets its flags
(R226, R370, R371). -/
def State.storeEnd (s : State) (core : Nat) (x : StoreCmd) : State :=
  if x.load then ((s.leaveStore core).setTile x.ctx x.tile x.issued true x.tileOf).runMq x.ctx
  else
    let fin := fun (s : State) (f : BitVec 5) => (s.engFlags x.ctx 3 x.issued x.pc (x.flags ||| f)).popStore core x
    if spDv x.spec then
      let pz := flagIf (s.discards (s.ctx x.ctx) (spDesc x.spec)) flagPoison
      match s.descUpdate x.ctx (x.racy ++ (s.ctx x.ctx).racing x.issued x.waits) (spDesc x.spec) x.census x.tstat with
      | (s, some f) => s.holdStore core x f true (spDesc x.spec).a
      | (s, none) => fin s pz
    else fin s 0

/-- The rest of the command at the head. -/
def State.storeRest (s : State) (core : Nat) (x : StoreCmd) : Nat → State
  | 0 => s
  | fuel + 1 =>
    match s.storeReady core with
    | some y =>
      if y.ctx = x.ctx ∧ y.seq = x.seq then
        if y.descDue = false ∧ y.count ≤ y.row then s.storeEnd core y else State.storeRest (s.storeOne core) core x fuel
      else s
    | none => s
def execStorePathDone (core : Nat) (s : State) : Out :=
  .next <|
  match s.storeReady core with
  | some x => s.storeRest core x 66
  | none => s

end Sys2Proof.Machine
end

