-- ==== Sys2Proof/Machine/Launch.lean ====
section
/-! DEFINITION. The nodes of an instance, walkers, dispatch and the end of a task (R129 to R146, R260, R435): shared
operations and the meanings of the scheduling events. -/

namespace Sys2Proof.Machine

/-- The graph and address space of an instance. -/
def State.instGraph (s : State) (i : Inst) : Graph := (s.graphOf i.handle).getD ⟨0, 0, 0, []⟩

/-! ### Nodes and their faults (R122, R128, R435) -/

/-- Place of a node's address with its REL bit (R128). -/
def State.nodeAddr (s : State) (i : Inst) (e lo rel : Nat) : Nat :=
  let _ := s
  relAddr i.args (bits e lo 64) (bit1 e rel)

/-- Hold a node's engine at a fault (R122, R435). -/
def State.holdNode (s : State) (n node asid va prog : Nat) (write : Bool) (f : XFault) : State :=
  s.holdOne (.coll n node) f write engSeq coreIo 0 asid va prog

/-- Whether a node of an instance can act: ready or started, with no fault held. -/
def State.nodeActs (s : State) (n node : Nat) : Option (Inst × Graph × Nat) :=
  match s.inst n with
  | none => none
  | some i =>
    match i.nodeSt node with
    | some x => if (x.st = .ready ∨ x.st = .started) ∧ s.isHeld (.coll n node) = false then
        some (i, s.instGraph i, s.nodeEntry (s.instGraph i) node) else none
    | none => none

/-- Start a node. -/
def State.startNode (s : State) (n node : Nat) : State := s.mapNode n node fun x => { x with st := .started }

/-! ### Collectives: values and pieces (R55 to R57) -/

/-- A collective descriptor breaks R55's field rules. -/
def collBad (d : Nat) : Bool :=
  bits d 0 4 > 6 || bits d 4 4 > 3 || bits d 8 8 != 0 || bits d 32 32 != 0 || bits d 96 32 != 0
    || bits d 128 64 % 64 != 0 || bits d 192 64 % 64 != 0 || bits d 320 64 % 16 != 0 || bits d 448 64 != 0

/-- Size and signedness of a collective type (R55). -/
def collElem (t : Nat) : Elem := match t with
  | 0 => .i32 | 1 => .n32 | 2 => .i16 | _ => .i8
/-- Bytes of one member's input (R55, R56). -/
def collInput (d : Nat) : Nat :=
  let b := (collElem (bits d 4 4)).size / 8
  if 4 ≤ bits d 0 4 then (bits d 16 16 + 1) * bits d 64 32 * b else bits d 64 32 * b

/-- One fold step (R56): the new value and whether it saturated. -/
def collStep (d : Nat) (x v : Int) : Int × Bool :=
  let t := collElem (bits d 4 4)
  match bits d 0 4 with
  | 1 | 5 => (min x v, false)
  | 2 | 6 => (max x v, false)
  | _ => (clampT t (x + v), clampT t (x + v) != x + v)
/-- Fold the members' elements in order. -/
def collFold (d : Nat) : List Int → Int × Bool
  | [] => (0, false)
  | v :: vs => vs.foldl (fun a v => let r := collStep d a.1 v; (r.1, a.2 || r.2)) (v, false)

/-- Element e of an input. -/
def collVal (d : Nat) (l : List PByte) (e : Nat) : Int × Bool :=
  let t := collElem (bits d 4 4)
  let b := t.size / 8
  let bytes := (l.drop (b * e)).take b
  (valT t (leNat (bytes.map Prod.fst)), bytes.any Prod.snd)

/-- Poison by lines of 64 bytes: a line with a poisoned byte is poisoned whole. -/
def spreadPoison (l : List PByte) : List PByte :=
  (List.range ((l.length + 63) / 64)).flatMap fun k =>
    let line := (l.drop (64 * k)).take 64
    line.map fun b => (b.1, line.any Prod.snd)

/-- The output of this package's member: bytes with the poison of their lines, and SAT, which tells of this member's own
elements (R56, R57; log 99). -/
def collOutput (d me : Nat) (ins : List (List PByte)) : List PByte × Bool :=
  let t := collElem (bits d 4 4)
  let count := bits d 64 32
  if bits d 0 4 = 3 then (spreadPoison ins.flatten, false)
  else
    let first := if 4 ≤ bits d 0 4 then me * count else 0
    let es := (List.range count).map fun e =>
      let vs := ins.map fun l => collVal d l (first + e)
      let r := collFold d (vs.map Prod.fst)
      ((leBytes (zext r.1 t.size).toNat (t.size / 8)).map fun b => (b, vs.any Prod.snd), r.2)
    (spreadPoison (es.flatMap Prod.fst), es.any Prod.snd)

/-- Bytes of this package's output (R56). -/
def collOutBytes (d : Nat) : Nat :=
  bits d 64 32 * ((collElem (bits d 4 4)).size / 8) * (if bits d 0 4 = 3 then bits d 16 16 + 1 else 1)

/-- The pieces of a chunk of an input that begins at an offset: the chunk, or its lines of 64 bytes where one of them is
poisoned (log 21). -/
def collPieces (me off : Nat) (chunk : List PByte) : List CollPiece :=
  let piece := fun (o : Nat) (l : List PByte) => (⟨me, off + o, l.any Prod.snd, l.map Prod.fst⟩ : CollPiece)
  if chunk.any Prod.snd then (List.range ((chunk.length + 63) / 64)).map fun k => piece (64 * k) ((chunk.drop (64 * k)).take 64)
  else [piece 0 chunk]

/-- Keep a piece in order of member and offset; a repeat changes nothing (R45). -/
def addPiece (x : CollPiece) : List CollPiece → List CollPiece
  | [] => [x]
  | y :: ys =>
    if x.member = y.member ∧ x.off = y.off then y :: ys
    else if x.member < y.member ∨ x.member = y.member ∧ x.off < y.off then x :: y :: ys
    else y :: addPiece x ys
/-- The bytes of one member's input that are here. -/
def Coll.part (c : Coll) (k : Nat) : List PByte :=
  (c.inputs.filter fun x => x.member == k).flatMap fun x => x.data.map fun b => (b, x.poison)
/-- Sequence number of a collective (R55). -/
def Coll.seq (c : Coll) : Nat := bits c.desc.toNat 384 64
/-- This package's index among the members. -/
def State.collMe (s : State) (c : Coll) : Nat := (c.ranks.findIdx? fun a => a == s.self).getD 0

/-- OP, TYPE, N and COUNT as chunks carry them beside SEQ (R57, log 21). -/
def collForm (d : Nat) : Nat := bits d 0 8 + bits d 16 16 * 2 ^ 8 + bits d 64 32 * 2 ^ 24
/-- Retransmission key of a chunk: its sequence number, its destination and its offset. -/
def chunkKey (seq dst off : Nat) : Nat := 2 ^ 80 + (seq * 2 ^ 16 + dst) * 2 ^ 64 + off

/-- Send a piece of this package's input to another member, under retransmission (R45, R57). -/
def State.sendChunk (s : State) (n node d dst : Nat) (x : CollPiece) : State :=
  let seq := bits d 384 64
  let p := { s.mkPacket 8 1 dst with
    va := x.off, opa := BitVec.ofNat 64 seq, opb := BitVec.ofNat 64 (collForm d), tag := x.member
    status := x.poison.toNat, data := x.data }
  let key := chunkKey seq dst x.off
  let r : Request := ⟨key, p, s.ftime + s.regF 0x1010 0 32, 0, .coll n node⟩
  { s with fab := { s.fab with out := (s.fab.out.filter fun y : Request => y.key != key) ++ [r] } : State }.send p

/-- The collective of a node, once its descriptor has been read. -/
def State.collOf (s : State) (n node : Nat) : Option Coll := s.colls.find? fun c => c.inst == n && c.node == node
def State.mapColl (s : State) (n node : Nat) (f : Coll → Coll) : State :=
  { s with colls := s.colls.map fun c => if c.inst = n ∧ c.node = node then f c else c }

/-- A chunk meets its collective (R57): one that disagrees with the descriptor ends it with MISMATCH; else its bytes are
kept once. -/
def State.landChunk (s : State) (c : Coll) (p : Packet) : State :=
  let d := c.desc.toNat
  if c.finished || c.lost then s
  else if p.opb.toNat ≠ collForm d then
    (s.count 0x1148).mapColl c.inst c.node fun c => { c with status := c.status ||| 4#18, finished := true }
  else
    match c.ranks.findIdx? fun a => a == p.src with
    | none => s
    | some k =>
      if collInput d < p.va + p.data.length then s
      else s.mapColl c.inst c.node fun c =>
        { c with inputs := addPiece ⟨k, p.va, p.status == 1, p.data⟩ c.inputs
                 status := if p.status = 1 then c.status ||| 2#18 else c.status }

/-- Chunks that came before their collective was enqueued meet it one by one. -/
def State.landEarly (s : State) (n node : Nat) : State :=
  match s.collOf n node with
  | none => s
  | some c =>
    let mine := fun (p : Packet) => p.opa.toNat == c.seq
    let early := s.fab.early.filter mine
    early.foldl (fun s p => (s.collOf n node).elim s fun c => s.landChunk c p)
      { s with fab := { s.fab with early := s.fab.early.filter fun p => !mine p } }

/-! ### What an enqueueing judges (R31, R55, R130, R137, R433) -/

/-- Read a collective's descriptor (R55): held at a fault, refused where it cannot be read for an error or, with REL set, a
field breaks R55 (log 25), or kept. -/
def State.readDesc (s : State) (i : Inst) (node : Nat) : State × Option Bool :=
  if (s.collOf i.num node).isSome then (s, some true)
  else
    let g := s.instGraph i
    let e := s.nodeEntry g node
    let va := s.nodeAddr i e 64 128
    match s.vGet tlbIo g.asid va 64 with
    | (s, .error f) => (s.holdNode i.num node g.asid (va + f.off) 0 false f.fault, none)
    | (s, .ok (l, m)) =>
      let d := leNat (l.map Prod.fst)
      if m.poison || (bit1 e 128 && collBad d) then (s, some false)
      else ({ s with colls := s.colls ++ [⟨i.num, node, BitVec.ofNat 512 d, [], g.asid, [], [], 0, 0, 0#18, false, false⟩] }, some true)

/-- Read and judge a collective's ranks (R31, R55): held at a fault, refused, or mapped to fabric addresses; one that needs a
link class that is not active ends with TARGET (R433). -/
def State.readRanks (s : State) (n node : Nat) : State × Option Bool :=
  match s.collOf n node with
  | none => (s, none)
  | some c =>
    let d := c.desc.toNat
    let va := bits d 256 64
    let k := bits d 16 16 + 1
    match s.vGet tlbIo c.asid va (2 * k) with
    | (s, .error f) => (s.holdNode n node c.asid (va + f.off) f.off false f.fault, none)
    | (s, .ok (l, m)) =>
      let ranks := (List.range k).map fun i => leNat (((l.map Prod.fst).drop (2 * i)).take 2)
      let (s, addrs) := ranks.foldl (fun (x : State × List (Option Nat)) r =>
        let (s, a) := x.1.rankAddr r
        (s, x.2 ++ [a])) (s, [])
      if m.poison || !ranks.Nodup || addrs.contains none || !addrs.contains (some s.self) then (s, some false)
      else
        let addrs := addrs.filterMap id
        let reach := addrs.all fun a => s.linksOk a
        ((s.mapColl n node fun c => { c with
          ranks := addrs, finished := !reach, status := if reach then c.status else c.status ||| 0x400#18 }).landEarly n node, some true)

/-- Judge a COLL node: its descriptor, then its ranks. -/
def State.judgeColl (s : State) (i : Inst) (node : Nat) : State × Option Bool :=
  match s.readDesc i node with
  | (s, some true) => s.readRanks i.num node
  | r => r

/-- Judge a LAUNCH node: its member images are read, and its allowed set is kept (R130, R137; log 97). -/
def State.judgeLaunch (s : State) (i : Inst) (node : Nat) : State × Option Bool :=
  let g := s.instGraph i
  let r := s.launchRec g node
  match s.imagesGet g.asid ((List.range (lrGang r + 1)).map (lrImage r)) with
  | (s, .error (va, f)) => (s.holdNode i.num node g.asid va 0 false f, none)
  | (s, .ok none) => (s, some false)
  | (s, .ok (some l)) =>
    let m := s.allowed r l
    (s.mapNode i.num node fun x =>
      { x with allowed := m, images := l.map fun x => (BitVec.ofNat 1024 x.1, BitVec.ofNat 512 x.2) }, some (m != 0))

/-- The line of a node's entry or launch record in tier 1 that holds an uncorrectable error; source nodes are read from their copies
(R90). -/
def State.nodeLineBad (s : State) (g : Graph) (node : Nat) : Option Nat :=
  if g.copies.any fun c => c.1 == node then none
  else
    let a := g.image + 64 + 64 * node
    let e := s.nodeEntry g node
    let r := g.image + bits e 64 64
    if lineBad s.poison a 64 then some a
    else if nodeKind e = 0 && lineBad s.poison r 256 then some r
    else none
/-- The place of a node's successors in the image, where their lines hold an uncorrectable error. -/
def State.succLineBad (s : State) (g : Graph) (node : Nat) : Option Nat :=
  let e := s.nodeEntry g node
  let a := g.image + bits (s.tierNat .host g.image 64) 96 32 + 2 * bits e 32 32
  if nodeSuccCount e != 0 && lineBad s.poison a (2 * nodeSuccCount e) then some a else none

/-- Judge an enqueued node: refused, or ready; while a fault of what it reads is held it is neither (R130, R437). One whose entry or
launch record cannot be read for an uncorrectable error is refused (log 122). -/
def State.judgeNode (s : State) (n node : Nat) : State :=
  match s.inst n with
  | none => s
  | some i =>
    let (s, r) := match s.nodeLineBad (s.instGraph i) node, nodeKind (s.nodeEntry (s.instGraph i) node) with
      | some a, _ => (s.countUe a, some false)
      | none, 0 => s.judgeLaunch i node
      | none, 2 => s.judgeColl i node
      | none, _ => (s, some true)
    match r with
    | none => s
    | some false => (s.count 0x2110).endInst n 1 node
    | some true => s.mapNode n node fun x => { x with st := .ready }

/-! ### Enqueueing and retiring nodes (R129, R130) -/

/-- Enqueue a node whose predecessors have all retired. -/
def State.enqueue (s : State) (n node : Nat) : State :=
  match s.inst n with
  | none => s
  | some i => if i.status ≠ 0 then s else (s.mapNode n node fun x => { x with st := .judging }).judgeNode n node

/-- Retire a node: its successors that have no other predecessor left are enqueued; the sink ends the instance
(R96, R97, R129). Where its successors cannot be read for an uncorrectable error, the instance ends KILLED (log 122). -/
def State.retireNode (s : State) (n node : Nat) : State :=
  let s := s.mapNode n node fun x => { x with st := .retired }
  match s.inst n with
  | none => s
  | some i =>
    if i.status ≠ 0 then s.maybeRecord n false
    else
      let g := s.instGraph i
      let next := (s.succs g node).eraseDups
      match s.succLineBad g node, next.isEmpty with
      | some a, _ => (s.countUe a).endInst n 2 node
      | none, true => s.maybeRecord n true
      | none, false =>
        let ready := next.filter fun j =>
          i.nodes.all fun x => x.st == .retired || !(s.succs g x.idx).contains j
        ready.foldl (fun s j => s.enqueue n j) s

/-- End a node that has started, without retiring it (R436). -/
def State.endNode (s : State) (n node : Nat) : State :=
  (s.mapNode n node fun x => { x with st := .ended }).maybeRecord n false

/-! ### WAIT, SIGNAL and COPY nodes (R129) -/

def execWaitNodeMet (inst node : Nat) (s : State) : Out :=
  .next <|
  match s.nodeActs inst node with
  | none => s
  | some (i, g, e) =>
    let s := s.startNode inst node
    let va := s.nodeAddr i e 64 192
    match s.objCounter tlbIo g.asid va with
    | (s, .error f) => s.holdNode inst node g.asid va 0 false f
    | (s, .ok (.ok c)) => if bits e 128 64 ≤ c then s.retireNode inst node else s
    | (s, .ok (.error o)) => s.countAt o

def execSignalNodeRetire (inst node : Nat) (s : State) : Out :=
  .next <|
  match s.nodeActs inst node with
  | none => s
  | some (i, g, e) =>
    let s := s.startNode inst node
    let va := s.nodeAddr i e 64 192
    match s.objVirt tlbIo g.asid va (bits e 128 64) 0 with
    | (s, some f) => s.holdNode inst node g.asid va 0 true f
    | (s, none) => s.retireNode inst node

/-- Copy the 64-byte granules of a COPY node from its progress on; `left` bounds their number. -/
def State.copyNode (s : State) (n node asid src dst len : Nat) : Nat → Nat → State
  | 0, _ => s
  | left + 1, prog =>
    if prog ≥ len then s.retireNode n node
    else
      let k := min 64 (len - prog)
      match s.vGet tlbIo asid (src + prog) k with
      | (s, .error f) =>
        (s.mapNode n node fun x => { x with prog := prog }).holdNode n node asid (src + prog) prog false f.fault
      | (s, .ok (l, _)) =>
        match s.vPut tlbIo asid (dst + prog) l with
        | (s, .error f) =>
          (s.mapNode n node fun x => { x with prog := prog }).holdNode n node asid (dst + prog) prog true f.fault
        | (s, .ok _) => State.copyNode (s.clobberVirt tlbIo asid (dst + prog) k) n node asid src dst len left (prog + k)

def execCopyNodeRetire (inst node : Nat) (s : State) : Out :=
  .next <|
  match s.nodeActs inst node with
  | none => s
  | some (i, g, e) =>
    let s := s.startNode inst node
    let len := bits e 192 40
    let prog := ((i.nodeSt node).map NodeSt.prog).getD 0
    s.copyNode inst node g.asid (s.nodeAddr i e 64 232) (s.nodeAddr i e 128 233) len (len / 64 + 2) prog

/-! ### Collectives: their moves (R55 to R57, R124, R433) -/

/-- Read this package's input, chunk by chunk: a whole chunk is kept and sent to the other members. A fault holds the sequencer
at the bytes of the current chunk (R124). -/
def State.collFetch (s : State) (n node : Nat) : Nat → State
  | 0 => s
  | left + 1 =>
    match s.collOf n node with
    | none => s
    | some c =>
      let d := c.desc.toNat
      let stop := min (collInput d) (c.sent + 4096)
      let pos := c.sent + c.chunk.length
      if stop ≤ c.sent then s
      else if pos < stop then
        let va := bits d 128 64 + pos
        match s.vGet tlbIo c.asid va (min (4096 - va % 4096) (stop - pos)) with
        | (s, .error f) => s.holdNode n node c.asid va c.chunk.length false f.fault
        | (s, .ok (l, _)) => State.collFetch (s.mapColl n node fun c => { c with chunk := c.chunk ++ l }) n node left
      else
        let me := s.collMe c
        let pieces := collPieces me c.sent c.chunk
        let s := s.mapColl n node fun c => { c with
          inputs := pieces.foldl (fun l x => addPiece x l) c.inputs, chunk := [], sent := stop
          status := if c.chunk.any Prod.snd then c.status ||| 2#18 else c.status }
        let s := (List.zipIdx c.ranks).foldl (fun s x =>
          if x.2 = me then s else pieces.foldl (fun s y => s.sendChunk n node d x.1 y) s) s
        State.collFetch s n node left

/-- End a collective: DONE_VA gains one with the status bits, once (R57). -/
def State.finishColl (s : State) (n node asid d st : Nat) : State :=
  let va := bits d 320 64
  match s.objVirt tlbIo asid va 1 st with
  | (s, some f) => s.holdNode n node asid va 0 true f
  | (s, none) =>
    { s with colls := s.colls.filter fun c => !(c.inst == n && c.node == node)
             fab := { s.fab with early := s.fab.early.filter fun p => p.opa.toNat != bits d 384 64 } }.retireNode n node

/-- Write the output from its progress on, chunk by chunk, then end the collective. -/
def State.collStore (s : State) (n node : Nat) (out : List PByte) : Nat → State
  | 0 => s
  | left + 1 =>
    match s.collOf n node with
    | none => s
    | some c =>
      let d := c.desc.toNat
      if out.length ≤ c.written then s.finishColl n node c.asid d c.status.toNat
      else
        let va := bits d 192 64 + c.written
        let k := min (4096 - va % 4096) (min (4096 - c.written % 4096) (out.length - c.written))
        match s.vPut tlbIo c.asid va ((out.drop c.written).take k) with
        | (s, .error f) => s.holdNode n node c.asid va (c.written % 4096) true f.fault
        | (s, .ok m) =>
          State.collStore (s.mapColl n node fun c => { c with
            written := c.written + k, status := if m.poison then c.status ||| 2#18 else c.status }) n node out left

/-- One move of a collective that has started: it reads and sends its input; it ends when every input is here, in SEQ order
among those enqueued, or with MISMATCH, LOST or TARGET, where the output not written is undefined (R56, R57, R433). -/
def execCollNode (inst node : Nat) (s : State) : Out :=
  .next <|
  match s.nodeActs inst node, s.collOf inst node with
  | some _, some c =>
    let s := s.startNode inst node
    let d := c.desc.toNat
    let before := s.colls.any fun x => x.seq < c.seq
    let total := collInput d
    if c.finished || c.lost then
      if before then s
      else
        let left := collOutBytes d - c.written
        let s := s.vUndef tlbIo c.asid (pagesOf left) (bits d 192 64 + c.written) left
        s.finishColl inst node c.asid d (c.status.toNat ||| (if c.lost then stLost else 0))
    else if c.sent < total then s.collFetch inst node (3 * (total / 4096 + 1))
    else
      let ins := (List.range c.ranks.length).map c.part
      if before || ins.any fun p => p.length != total then s
      else
        let (out, sat) := collOutput d (s.collMe c) ins
        let s := s.mapColl inst node fun c => { c with status := c.status ||| BitVec.ofNat 18 sat.toNat }
        s.collStore inst node out (2 * (out.length / 4096 + 1) + 1)
  | _, _ => s

/-- A chunk of a collective, or its acknowledgement, which ends its retransmission (R45, R57, log 21). A chunk is kept until
its collective is enqueued here, once for each source and offset. -/
def execCollChunk (p : Packet) (s : State) : Out :=
  .next <|
  if !s.fabricOn then s
  else if !p.crcOk then s.count 0x1110
  else if !s.pktOk p (p.op == 1 || p.op == 2) then s.count 0x1138
  else if p.op = 2 then s.endRetx (chunkKey p.opa.toNat p.src p.va)
  else
    let s := s.send { s.mkPacket 8 2 p.src with va := p.va, opa := p.opa, opb := p.opb, tag := p.tag }
    match s.colls.find? fun c => c.seq == p.opa.toNat && !c.ranks.isEmpty with
    | some c => s.landChunk c p
    | none =>
      if s.fab.early.any fun q => q.src == p.src && q.opa == p.opa && q.va == p.va then s
      else { s with fab := { s.fab with early := s.fab.early ++ [p] } }

/-! ### LAUNCH nodes and walkers (R136 to R141) -/

/-- Whether the WAIT entries of a launch record are met; a fault is held (R132, R435). -/
def State.launchWaits (s : State) (i : Inst) (node asid r : Nat) : Nat → State × Bool
  | 0 => (s, true)
  | k + 1 =>
    let e := lrSem r k
    if semKind e ≠ 1 then State.launchWaits s i node asid r k
    else
      let va := relAddr i.args (bits e 0 64) (bit1 e 115)
      match s.objCounter tlbIo asid va with
      | (s, .error f) => (s.holdNode i.num node asid va 0 false f, false)
      | (s, .ok (.ok c)) => if semValue e ≤ c then State.launchWaits s i node asid r k else (s, false)
      | (s, .ok (.error o)) => (s.countAt o, false)

def execWalkerStart (inst node : Nat) (s : State) : Out :=
  .next <|
  match s.nodeActs inst node with
  | none => s
  | some (i, g, _) =>
    if ((i.nodeSt node).map NodeSt.st) != some .ready then s
    else
      let r := s.launchRec g node
      match s.launchWaits i node g.asid r 4 with
      | (s, false) => s
      | (s, true) =>
        match firstFree (s.walkers.map Walker.num) 64 with
        | none => s
        | some w =>
          let x : Walker := ⟨w, g.image + bits (s.nodeEntry g node) 64 64, 0, lrCount r, 0, 0, i.allowed node,
            min (bits r 136 3) i.prio, lrOrdered r, inst, node, s.ftime, 0⟩
          ({ s with walkers := s.walkers ++ [x] } : State).startNode inst node

def State.walker (s : State) (w : Nat) : Option Walker := s.walkers.find? fun x => x.num == w
def State.mapWalker (s : State) (w : Nat) (f : Walker → Walker) : State :=
  { s with walkers := s.walkers.map fun x => if x.num = w then f x else x }
/-- Entries of a level of a run queue. -/
def levelCount (p : PolderSt) (l : Nat) : Nat := (p.runQ.filter fun e => e.1 == l).length
/-- The polder with the most free entries at a level among those a predicate allows, the lowest of equals (R138). -/
def State.bestPolder (s : State) (ok : Nat → Bool) (l : Nat) : Option Nat :=
  firstBy (fun a b => levelCount (s.pol a) l < levelCount (s.pol b) l || (levelCount (s.pol a) l == levelCount (s.pol b) l && a < b))
    ((List.range 24).filter fun p => ok p && levelCount (s.pol p) l < 32)

/-- Whether a walker may emit now (R138). -/
def State.mayEmit (s : State) (w : Walker) : Bool :=
  w.cursor < w.last && w.emitAt ≤ s.ftime && (!w.ordered || w.cursor == 0 || w.cursor ≤ w.startedIx)
    && (s.bestPolder (fun p => w.mask.getLsbD p) w.prio).isSome

/-- An entry joins the tail of its level in a polder's queue; the polder is idle no more (R139). -/
def State.joinQueue (s : State) (p lvl : Nat) (e : RunEntry) : State :=
  ({ s with splitQ := s.splitQ.filter fun x => x.2 != p } : State).mapPol p fun q =>
    { q with runQ := q.runQ ++ [(lvl, e)], tried := false, split := false }
/-- The head entry of a polder's queue is taken to be placed. -/
def State.leaveQueue (s : State) (p lvl : Nat) (e : RunEntry) : State :=
  ({ s with splitQ := s.splitQ.filter fun x => x.2 != p } : State).mapPol p fun q =>
    { q with runQ := q.runQ.erase (lvl, e), tried := false, split := false }

def execWalkerEmit (w : Fin 64) (s : State) : Out :=
  .next <|
  match s.walker w.val with
  | none => s
  | some x =>
    match s.mayEmit x, s.bestPolder (fun p => x.mask.getLsbD p) x.prio with
    | true, some p =>
      let e : RunEntry := ⟨x.num, x.cursor, none, x.inst, 0⟩
      let s := s.joinQueue p x.prio e
      s.mapWalker x.num fun x => { x with cursor := x.cursor + 1, emitted := x.emitted + 1, emitAt := s.ftime + 4 }
    | _, _ => s

/-- Whether a polder is idle (R139). -/
def State.polIdle (s : State) (p : Nat) : Bool :=
  (s.pol p).runQ.isEmpty && s.tasks.all fun c => polOf c.id.core != p

/-- A split request among those that wait: by I/O cycle of arrival, then by polder (R141). -/
def addSplit (x : Nat × Nat) : List (Nat × Nat) → List (Nat × Nat)
  | [] => [x]
  | y :: ys => if x.1 < y.1 ∨ x.1 = y.1 ∧ x.2 < y.2 then x :: y :: ys else y :: addSplit x ys

/-- The dispatcher of a polder that has become idle sends one split request (R139). -/
def execSplitRequest (p : Fin 24) (s : State) : Out :=
  .next <|
  if s.polIdle p.val && s.feat 18 && !(s.pol p.val).split then
    { s.mapPol p.val fun q => { q with split := true } with splitQ := addSplit (s.ftime, p.val) s.splitQ }
  else s

/-- Estimated cycles of rank 0's header (R141). -/
def State.launchCycles (s : State) (w : Walker) : Nat :=
  match s.inst w.inst with
  | some i => bits (i.image w.node 0).2 0 32
  | none => 0

/-- Split candidates for a polder, in the order of R141. -/
def State.splitBefore (s : State) (a b : Walker) : Bool :=
  if a.prio != b.prio then b.prio < a.prio
  else
    let ca := (a.last - a.cursor) * s.launchCycles a
    let cb := (b.last - b.cursor) * s.launchCycles b
    if ca != cb then cb < ca else a.num < b.num

/-- try_split (R140): where the new range begins. -/
def trySplit (w : Walker) (g : Nat) : Option Nat :=
  let m := w.cursor + (w.last - w.cursor) / 2
  let mid := g * ((m + g / 2) / g)
  if mid ≤ w.cursor ∨ mid ≥ w.last then none else some mid

def State.launchOf (s : State) (w : Walker) : Nat :=
  match s.inst w.inst with
  | some i => s.launchRec (s.instGraph i) w.node
  | none => 0

/-- The candidate of R141 that a polder's request splits, with the beginning of the new range. -/
def State.splitOf (s : State) (p : Nat) : Option (Walker × Nat) :=
  let cands := s.walkers.filter fun w => !w.ordered && (s.inst w.inst).any fun i => (i.allowed w.node).getLsbD p
  let ok := cands.filter fun w => (trySplit w (bits (s.launchOf w) 144 16)).isSome
  (firstBy s.splitBefore ok).bind fun w => (trySplit w (bits (s.launchOf w) 144 16)).map fun mid => (w, mid)
/-- The first request in arrival order that can be served (R141). -/
def State.splitNext (s : State) : Option Nat := (s.splitQ.find? fun x => (s.splitOf x.2).isSome).map Prod.snd

/-- Serve the split request of a polder, when it is the first that can be served, at most one in an I/O cycle (R140, R141). -/
def execWalkerSplit (p : Fin 24) (s : State) : Out :=
  .next <|
  match s.splitOf p.val, firstFree (s.walkers.map Walker.num) 64 with
  | some (w, mid), some n =>
    if s.splitNext ≠ some p.val ∨ s.ftime < s.splitAt then s
    else
      let v : Walker := { w with num := n, cursor := mid, emitted := 0, retired := 0, mask := 1#24 <<< p.val }
      let s := s.mapWalker w.num fun w => { w with last := mid }
      let s := { s with walkers := s.walkers ++ [v], splitQ := s.splitQ.filter fun x => x.2 != p.val, splitAt := s.ftime + 1 }
      s.count 0x2100
  | _, _ => s

/-! ### Dispatch (R142 to R144) -/

/-- The head entry of the highest level that is not empty (R143). -/
def headEntry (p : PolderSt) : Option (Nat × RunEntry) :=
  ((List.range 8).reverse.findSome? fun l => p.runQ.find? fun e => e.1 == l)

/-- The slots of a polder. -/
def State.slots (s : State) (p : Nat) : List CtxId :=
  (List.range 4).flatMap fun i => (List.range (s.slotsOf p)).map fun j => ⟨4 * p + i, j⟩

/-- A member to place: its image, address space, tiles and streams. -/
structure Member where
  image : Nat
  asid : Nat
  accs : Nat
  streams : Nat

/-- Whether a slot is free for a member, given the contexts that stay (R143). -/
def slotFree (stay : List Ctx) (m : Member) (i : CtxId) : Bool :=
  let on := stay.filter fun c => c.id.core == i.core
  (stay.all fun c => c.id != i) && (on.map fun c => c.launch.accs).sum + m.accs ≤ 4
    && (on.map fun c => c.launch.streams).sum + m.streams ≤ 8

/-- Rank of a slot for a member: image held, occupied slots of the core, core, slot (R143). -/
def State.slotRank (s : State) (stay : List Ctx) (m : Member) (i : CtxId) : Nat :=
  let k := s.core i.core
  let held := k.lastImage.contains (i.slot, m.image) && k.lastAsid.contains (i.slot, m.asid)
  (if held then 0 else 1) * 2 ^ 20 + (stay.filter fun c => c.id.core == i.core).length * 2 ^ 16 + i.core * 16 + i.slot

/-- Place members on distinct cores of a polder (R143). -/
def State.place (s : State) (p : Nat) (stay : List Ctx) : List Member → List Nat → Option (List CtxId)
  | [], _ => some []
  | m :: ms, used =>
    match firstBy (fun a b => s.slotRank stay m a < s.slotRank stay m b)
        ((s.slots p).filter fun i => slotFree stay m i && !used.contains i.core) with
    | none => none
    | some i => (State.place s p stay ms (i.core :: used)).map fun l => i :: l

/-- The lowest free gang area of a polder, given the contexts that stay (R151). -/
def State.freeArea (s : State) (p : Nat) (stay : List Ctx) : Option Nat :=
  let _ := s
  firstFree ((stay.filter fun c => polOf c.id.core == p && c.launch.gang > 0).map fun c => c.launch.gangArea) 4

/-- Members of a launch's coordinate. -/
def State.members (s : State) (i : Inst) (node : Nat) : List Member :=
  let g := s.instGraph i
  let r := s.launchRec g node
  (List.range (lrGang r + 1)).map fun m =>
    let x := i.image node m
    ⟨lrImage r m, g.asid, hdrAccs x.2, hdrStreams x.2⟩

/-- Where the members of an entry go, given the contexts that stay: slots and, for a gang, the area. -/
def State.placement (s : State) (p : Nat) (stay : List Ctx) (ms : List Member) : Option (List CtxId × Nat) :=
  match s.place p stay ms [], (if ms.length > 1 then s.freeArea p stay else some 0) with
  | some l, some a => some (l, a)
  | _, _ => none

/-- A start wait of a header (R133). -/
def startWait (h i : Nat) : StartWait :=
  let e := bits h (128 + 96 * i) 96
  ⟨bit1 e 63, bits e 0 32, bits e 32 16, BitVec.ofNat 64 (bits e 64 32)⟩

/-- Write zeros over n bytes. -/
def State.zero (s : State) (a n : Nat) : State :=
  { s with mem := s.mem.filter fun c => !(a ≤ c.1 && c.1 < a + n), undef := cutRange s.undef a (a + n)
           poison := s.poison.filter fun w => !(a ≤ w * 8 && w * 8 < a + n) }

/-- The context of R144 in a slot: registers of the first bundle, zeroed data where the address space changes, and the
code region still to be filled where the image differs. -/
def State.startTask (s : State) (id : CtxId) (l : Launch) (r : Nat) : State :=
  let k := s.core id.core
  let sameAsid := k.lastAsid.contains (id.slot, l.asid)
  let sameImage := sameAsid && k.lastImage.contains (id.slot, l.image)
  let s := if sameAsid then s else s.zero (s.slotBase id) (4096 * l.sram)
  let regs := [(1, l.args), (2, l.index), (9, l.rank)] ++ (List.zipIdx (coord r l.index)).map fun x => (3 + x.2, x.1)
  let c := Ctx.idle id
  s.mapCtx id fun _ =>
    { c with phase := if sameImage then .waiting else .loading, launch := l
             s := regs.foldl (fun v x => v.setIfInBounds x.1 (BitVec.ofNat 64 x.2)) c.s
             pc := BitVec.ofNat 64 (l.share - l.code + l.entry), budget := l.budget
             refills := bits r 184 8 }

/-- Dispatch the head entry of a polder's queue, when it is a launch's coordinate and can be placed (R143, R144). -/
def execDispatch (p : Fin 24) (s : State) : Out :=
  .next <|
  let p := p.val
  match headEntry (s.pol p) with
  | none => s
  | some (lvl, e) =>
    match e.record, s.inst e.inst, s.walker e.walker with
    | none, some i, some w =>
      let g := s.instGraph i
      let r := s.launchRec g w.node
      match s.placement p s.tasks (s.members i w.node) with
      | none => s
      | some (ids, area) =>
        let s := s.leaveQueue p lvl e
        let pipes := (List.range 4).map (lrPipe r)
        let s := if ids.length > 1 then
            s.mapPol p fun q => { q with areas := q.areas ++ [(area, pipes.map fun d => ⟨0, 0, d.slots, 0, false, 0, 0⟩)] }
          else s
        (List.zipIdx ids).foldl (fun s x =>
          let (d, h) := i.image w.node x.2
          let l : Launch :=
            { image := lrImage r x.2, args := i.args + bits r 64 64, index := e.index, walker := w.num, inst := i.num
              node := w.node, asid := g.asid, prio := w.prio, prom := 0, passes := 0, declared := 0
              dispatchTime := s.cycle, cycles := bits h 0 32, drainGap := bits h 32 16, sram := hdrSram h
              streams := hdrStreams h, accs := hdrAccs h, spill := hdrSpill h, gang := lrGang r, rank := x.2
              gangArea := area, members := ids, pipes := pipes, waits := (List.range 4).map (startWait h)
              code := imgCode d, entry := bits d 96 32, share := s.shareOf p, reqFeat := bits d 256 128
              budget := bits r 192 48, spoilt := false }
          s.startTask x.1 l r) s
    | _, _, _ => s

/-- Fill a code region page by page from its progress on; a fault holds the overlay loader at the bytes filled (R124). -/
def State.fillCode (s : State) (c : CtxId) (va : Nat) : Nat → State
  | 0 => s
  | left + 1 =>
    let x := s.ctx c
    let l := x.launch
    if l.code ≤ x.filled then s.mapCtx c fun x => { x with phase := .waiting }
    else
      let at_ := va + x.filled
      let k := min (4096 - at_ % 4096) (l.code - x.filled)
      match s.vRead tlbIo l.asid .fetch (pagesOf k) at_ k with
      | (s, .error f) => s.holdOne (.overlay c) f.fault false engOverlay coreIo c.slot l.asid at_ x.filled
      | (s, .ok (bytes, _)) =>
        let base := s.slotBase c + l.share - l.code + x.filled
        let s := s.poke base (bytes.map Prod.fst)
        let s := (List.zipIdx bytes).foldl (fun s b => if b.1.2 then s.poisonRange (base + b.2) 1 else s) s
        State.fillCode (s.mapCtx c fun x => { x with filled := x.filled + k }) c va left

/-- The overlay loader fills the code region from CODE_VA of the image's descriptor, wherever that lies (R124, R144, R286,
R287). -/
def execOverlayLoadDone (c : CtxId) (s : State) : Out :=
  .next <|
  let x := s.ctx c
  if x.phase != .loading || s.isHeld (.overlay c) then s
  else
    let l := x.launch
    match s.vGet tlbIo l.asid l.image 128 with
    | (s, .error f) => s.holdOne (.overlay c) f.fault false engOverlay coreIo c.slot l.asid (l.image + f.off) x.filled
    | (s, .ok (d, _)) => s.fillCode c (bits (leNat (d.map Prod.fst)) 192 64) (l.code / 4096 + 3)

/-- Whether every start wait of a context is met; a fault is held (R133, R435). -/
def State.startWaits (s : State) (c : CtxId) (l : Launch) : List StartWait → State × Bool
  | [] => (s, true)
  | w :: ws =>
    if !w.valid then State.startWaits s c l ws
    else
      -- an address below zero lies, as 64 bits, beyond the address range
      let x := (l.args : Int) + sext w.offset 32 + 16 * w.stride * l.index
      let va := (if x < 0 then x + 2 ^ 64 else x).toNat
      match s.objCounter tlbIo l.asid va with
      | (s, .error f) => (s.holdOne (.overlay c) f false engOverlay coreIo c.slot l.asid va 0, false)
      | (s, .ok (.ok n)) => if w.target.toNat ≤ n then State.startWaits s c l ws else (s, false)
      | (s, .ok (.error o)) => (s.countAt o, false)

/-- Bytes of the data and call-spill regions, rounded up (R152). -/
def Launch.dr (l : Launch) : Nat := (4096 * l.sram + 8 * l.spill + 63) / 64 * 64
/-- Bytes of the rings of a gang (R151). -/
def Launch.ringBytes (l : Launch) : Nat := ((l.pipes.filter PipeDef.valid).map fun d => 64 * d.slotSize * d.slots).sum
/-- Size of the record (R152). -/
def Launch.recSize (l : Launch) : Nat :=
  8704 + 16384 * l.accs + l.dr + (if l.gang > 0 ∧ l.rank = 0 then l.ringBytes else 0)
/-- Cycles a save or a restore of a task takes (R156). -/
def Launch.saveCycles (l : Launch) : Nat := 400 + (l.recSize + 127) / 128

/-- A context becomes runnable; a core that issues nothing arbitrates (R144, R145). -/
def State.makeReady (s : State) (c : CtxId) : State :=
  let l := (s.ctx c).launch
  let s := s.mapCtx c fun x => { x with phase := .ready }
  let s := s.mapWalker l.walker fun w => { w with startedIx := max w.startedIx (l.index + 1) }
  if (s.core c.core).run.isNone then s.arbitrate c.core else s

/-- Whether a restored context, which has no start waits, starts now: its gang has been restored, and the time of the restore has
passed (R155, R156). -/
def State.restored (s : State) (x : Ctx) : Bool :=
  let who := (s.gangOf x).filter fun m => (s.ctx m).launch.waits.isEmpty
  x.phase == .waiting && x.launch.waits.isEmpty && who.all fun m =>
    (s.ctx m).phase == .waiting && (s.ctx m).launch.dispatchTime + (s.ctx m).launch.saveCycles ≤ s.cycle

/-- A context whose start waits are met begins to run. A restored context has none: its whole gang starts at once
(R155). -/
def execStartWaitMet (c : CtxId) (s : State) : Out :=
  .next <|
  let x := s.ctx c
  if x.phase != .waiting || s.isHeld (.overlay c) then s
  else
    match s.startWaits c x.launch x.launch.waits with
    | (s, true) =>
      if x.launch.waits.isEmpty then
        if s.restored x then
          ((s.gangOf x).filter fun m => (s.ctx m).launch.waits.isEmpty).foldl (fun s m => s.makeReady m) s
        else s
      else s.makeReady c
    | (s, false) => s

/-! ### Semaphore adds and the end of a launch (R129, R132, R436) -/

/-- One move of a LAUNCH node: the next SIGNAL_EACH add, then SIGNAL_LAST, then its retirement. -/
def State.launchMove (s : State) (n node : Nat) : State :=
  match s.nodeActs n node with
  | none => s
  | some (i, g, _) =>
    match i.nodeSt node with
    | none => s
    | some x =>
      let r := s.launchRec g node
      let add := fun (k : Nat) (fin : State → State) =>
        let e := lrSem r k
        let va := relAddr i.args (bits e 0 64) (bit1 e 115)
        match s.objVirt tlbIo g.asid va (semValue e) 0 with
        | (s, some f) => s.holdNode n node g.asid va 0 true f
        | (s, none) => fin s
      match x.adds with
      | (k, _) :: rest => add k fun s => s.mapNode n node fun x => { x with adds := rest }
      | [] =>
        if x.st != .started || s.walkers.any fun w => w.inst == n && w.node == node then s
        else if i.status ≠ 0 then s.endNode n node
        else if x.lastMade then s.retireNode n node
        else
          -- prog counts the semaphore entries whose SIGNAL_LAST add has been made
          match (List.range 4).find? fun k => x.prog ≤ k && semKind (lrSem r k) == 2 with
          | some k => add k fun s => s.mapNode n node fun x => { x with prog := k + 1 }
          | none => s.mapNode n node fun x => { x with lastMade := true }

/-! ### Retirement (R260) -/

/-- Whether the conditions of R260 hold for a context that has ended. -/
def State.retirable (s : State) (c : Ctx) : Bool :=
  c.phase == .ended && (s.saves.all fun v => v.back != some c.id) && !(s.peers.any fun p => p.src == c.id) && c.eng.isEmpty && c.engA.isEmpty
    && (c.q.all fun b => (b.kind != .write && b.kind != .scatter) || b.entries.isEmpty || (b.kind == .scatter && b.idx.isEmpty))
    && (c.mq.all fun m => match m.kind with
      | .shrd _ _ _ _ _ | .stacc _ => false
      | _ => true) && ((s.core c.id.core).store.all fun x => x.ctx != c.id)
    && (c.remote.all fun r => r.status.isSome) && (s.slu.sends.all fun e => e.owner != c.id) && c.ep.isEmpty
    && c.writes.isEmpty && c.flags.isEmpty

/-- Unbind a context's streams: updates not yet made become due (R260, R393, log 33). -/
def Ctx.unbindAll (c : Ctx) : Ctx :=
  (List.finRange 8).foldl (fun c q =>
    let c := if c.q[q].kind == .unbound then c else c.bindUpdate q
    { c with q := c.q.set q Binding.unbound }) c

/-- Retire a task: its streams are unbound, its slot is freed and its coordinate credited (R144, R260). -/
def execTaskRetire (c : CtxId) (s : State) : Out :=
  .next <|
  let x := s.ctx c
  if !s.retirable x then s
  else
    let y := x.unbindAll
    if y.ops.isEmpty then (s.freeSlot c).credit x.launch x.launch.spoilt else s.mapCtx c fun _ => y

/-! ### Slices (R146) -/

def execSliceEnd (core : Nat) (s : State) : Out :=
  .next <|
  let k := s.core core
  if !k.slicing || s.cycle < k.sliceEnd then s else s.endSlice core

end Sys2Proof.Machine
end

