-- ==== Sys2Proof/Machine/Preempt.lean ====
section
/-! DEFINITION. Pre-emption, saving and restoring (R149 to R156, R209 to R211, R300, R396): the save record's bytes and
the meanings of the events that mark, stop, save and restore a context. -/

namespace Sys2Proof.Machine

/-! ### Marking victims (R150) -/

/-- Contexts of a polder that stay once the marked victims and those named are gone. -/
def State.staying (s : State) (p : Nat) (gone : List CtxId) : List Ctx :=
  s.tasks.filter fun c => c.victim.isNone && !(polOf c.id.core == p && gone.contains c.id)

/-- The physical address of a save record's header as a number (R153, R157). -/
def State.recHeader (s : State) (r : Nat) : Nat := s.tierNat .reeve (s.saveBase r) 256
/-- The records a resume entry names, rank by rank: rank 0's, and those in MEMBERS of its header in tier 1 (R153, R155). -/
def State.recsOf (s : State) (e : RunEntry) : List Nat :=
  match e.record with
  | none => []
  | some r => r :: (List.range (bits (s.recHeader r) 365 2)).map fun i => bits (s.recHeader r) (384 + 16 * i) 16
/-- The launches a resume entry restores, rank by rank. -/
def State.savedLaunches (s : State) (e : RunEntry) : List Launch :=
  (s.recsOf e).filterMap fun r => (s.saves.find? fun v => v.num == r && v.full).map Save.launch

/-- Members of the head entry of a polder: of a coordinate, or of a saved task that fits the polder's slots. -/
def State.entryMembers (s : State) (p : Nat) (e : RunEntry) : Option (List Member) :=
  match e.record, s.inst e.inst, s.walker e.walker with
  | none, some i, some w => some (s.members i w.node)
  | some _, _, _ =>
    let ls := s.savedLaunches e
    if ls.all fun l => l.share == s.shareOf p then some (ls.map fun l => ⟨l.image, l.asid, l.accs, l.streams⟩) else none
  | _, _, _ => none

/-- Whether an entry can be placed among the contexts that stay. -/
def State.canPlace (s : State) (p : Nat) (e : RunEntry) (stay : List Ctx) : Bool :=
  match s.entryMembers p e with
  | some ms => (s.placement p stay ms).isSome
  | none => false

/-- Order of victims: lowest effective priority, then latest dispatch, then highest core and slot. -/
def victimBefore (a b : Ctx) : Bool :=
  if a.launch.prio != b.launch.prio then a.launch.prio < b.launch.prio
  else if a.launch.dispatchTime != b.launch.dispatchTime then b.launch.dispatchTime < a.launch.dispatchTime
  else ctxNum b.id < ctxNum a.id

/-- Insertion into a list sorted by an order. -/
def insertBy (lt : Ctx → Ctx → Bool) (c : Ctx) : List Ctx → List Ctx
  | [] => [c]
  | d :: ds => if lt c d then c :: d :: ds else d :: insertBy lt c ds

/-- Choices of groups with n contexts in all, in the order of the groups. -/
def choices : List (List CtxId) → Nat → List (List (List CtxId))
  | _, 0 => [[]]
  | [], _ => []
  | g :: gs, n => (if g.length ≤ n then (choices gs (n - g.length)).map fun l => g :: l else []) ++ choices gs n

/-- Whether every member of a context's gang is there and has not reached TEND: a gang of which one has is not saved (R150,
log 100). -/
def State.whole (s : State) (c : Ctx) : Bool :=
  let who := s.gangOf c
  who.length == (if c.launch.gang = 0 then 1 else c.launch.gang + 1) && who.all fun m => (s.ctx m).phase != .ended

/-- The victims of a head entry at a level: the fewest contexts, and among those the first in the order (R150). -/
def State.victims (s : State) (p lvl : Nat) (e : RunEntry) : Option (List (List CtxId)) :=
  let low := s.tasks.filter fun c =>
    polOf c.id.core == p && c.launch.prio < lvl && c.victim.isNone && c.phase != .saving && s.whole c
  let groups := ((low.foldl (fun l c => insertBy victimBefore c l) []).map s.gangOf).eraseDups
  (List.range low.length).findSome? fun n =>
    (choices groups (n + 1)).find? fun gs => s.canPlace p e (s.staying p gs.flatten)

/-- Whether a context waits for its start waits or for its first code, and so is removed at once (R150). -/
def Ctx.notStarted (c : Ctx) : Bool := (c.phase == .waiting || c.phase == .loading) && !c.launch.waits.isEmpty

/-- Take a waiting group out of its slots; its entry returns to the head of its level (R150). -/
def State.removeWaiting (s : State) (p : Nat) (g : List CtxId) : State :=
  match g with
  | [] => s
  | c :: _ =>
    let l := (s.ctx c).launch
    let s := g.foldl (fun s i => s.freeSlot i) s
    let e : RunEntry := ⟨l.walker, l.index, none, l.inst, 0⟩
    match s.inst l.inst with
    | some i =>
      if i.status = 0 then s.mapPol p fun q => { q with runQ := (l.prio, e) :: q.runQ, tried := true }
      else ({ s with walkers := s.walkers.map fun (w : Walker) =>
        if w.num = l.walker then { w with emitted := w.emitted - 1 } else w } : State).reapWalkers
    | none => s

/-- Give save records to the members of a group and mark them. A member of a gang that waits for its start waits while another
runs stops at once, before its first bundle, and is saved with the gang (R150, log 100). -/
def State.markVictims (s : State) (g : List (CtxId × Nat)) : State :=
  g.foldl (fun s x =>
    let c := s.ctx x.1
    let l := { c.launch with waits := if c.notStarted then c.launch.waits else [] }
    let v : Save := ⟨x.2, l.inst, l.node, l.walker, l.index, l.rank, false, false, [], [], s.cycle, l, none⟩
    let s := if c.notStarted then s.tierWrite .reeve (s.saveBase x.2 + 0x0A00) (List.replicate 512 0) else s
    let s := s.unhold fun h => c.notStarted && h.holder == .overlay x.1
    ({ s with saves := s.saves ++ [v] } : State).mapCtx x.1 fun c =>
      { c with victim := some x.2, phase := if c.notStarted then .saving else c.phase }) s

/-- The first free save records. -/
def State.freeRecords (s : State) (n : Nat) : Option (List Nat) :=
  let used := s.saves.map Save.num
  let l := ((List.range (min (s.regF 0x0808 0 17) (used.length + n))).filter fun i => !used.contains i).take n
  if l.length = n then some l else none

/-- Whether a polder's head entry starts a pre-emption (R150). -/
def State.mayPreempt (s : State) (p : Nat) : Option (Nat × RunEntry) :=
  match headEntry (s.pol p) with
  | none => none
  | some (lvl, e) =>
    if s.feat 17 && s.regF 0x0808 0 17 != 0 && !(s.pol p).tried && !s.canPlace p e s.tasks
      && !s.canPlace p e (s.staying p []) then some (lvl, e) else none

def execPreemptMark (p : Fin 24) (s : State) : Out :=
  .next <|
  match s.mayPreempt p.val with
  | none => s
  | some (lvl, e) =>
    let tried := fun (s : State) => s.mapPol p.val fun q => { q with tried := true }
    match s.victims p.val lvl e with
    | none => tried s
    | some gs =>
      -- every victim takes a record first; those that are removed at once leave theirs unused
      match s.freeRecords gs.flatten.length with
      | none => tried (s.count 0x2130)
      | some recs =>
        let waits := fun (g : List CtxId) => g.all fun i => (s.ctx i).notStarted
        let runs := (gs.filter fun g => !waits g).flatten
        let s' := s.markVictims ((gs.flatten.zip recs).filter fun x => runs.contains x.1)
        (gs.filter waits).foldl (fun s g => s.removeWaiting p.val g) s'

/-! ### Stopping (R150) -/

/-- The header word of the next bundle of a context. -/
def State.nextHeader (s : State) (c : Ctx) : Nat := leNat (s.view s.mem (c.place c.pc.toNat) 4)

/-- Whether the next bundle of a context is a drain point (R149, R300). -/
def State.atDrain (s : State) (c : Ctx) : Bool :=
  c.inCode c.pc.toNat && hD (s.nextHeader c) && c.drainCounts

/-- Whether a fault is held by an engine of a context: its culverts and streams, a read of a completion object (CCNT, CSTAT,
CWAIT), a load or store of its own (R125). -/
def State.holdsFault (s : State) (c : Ctx) : Bool :=
  s.xlt.held.any fun h => match h.holder with
    | .eng i _ | .stream i _ | .stall i | .read i _ => i == c.id
    | .pipe core b => core == c.id.core &&
      (if b then (s.core core).pipeB else (s.core core).pipeA).q.head?.any fun l => l.ctx == c.id
    | .store core => core == c.id.core && (s.core core).store.head?.any fun x => x.ctx == c.id
    | .overlay _ | .coll _ _ | .send _ => false

/-- Whether a victim stands where it is to stop: it has the core and is before its next drain bundle, with no trap pending
(R150, log 41). -/
def State.atStop (s : State) (c : Ctx) : Bool :=
  c.victim.isSome && c.phase == .ready && (s.core c.id.core).run == some c.id.slot && c.trap.isNone && c.xlate.isNone
    && c.waived.isNone && s.atDrain c

/-- The reads of send descriptors that a context still has to make (R406). -/
def Ctx.sendReads (c : Ctx) : List EngOp :=
  c.ops.filter fun e => match e.kind with
    | .frts _ => true
    | _ => false

/-- Whether a victim stops now: it stands where it is to stop, no fault is held by its engines, and the descriptors of its sends
have been read (R81, R125, R150). -/
def State.mayStop (s : State) (c : Ctx) : Bool := s.atStop c && !s.holdsFault c && c.sendReads.isEmpty

/-! ### The save record (R152, R153) -/

/-- The stored form of an address with its flag: boezem addresses carry bit 55 (R396). -/
def addrWord (a : Addr) : Nat := if a.place = .boez then a.a + 2 ^ 55 else a.a
def addrOf (w : Nat) (local_ : Bool) : Addr :=
  if !local_ then ⟨.virt, w⟩ else if bit1 w 55 then ⟨.boez, w - 2 ^ 55⟩ else ⟨.loc, w⟩

/-- Whether a binding is indexed, and whether the token stands at its head. -/
def Binding.indexed (b : Binding) : Bool := b.kind == .gather || b.kind == .scatter
def Binding.atToken (b : Binding) : Bool := 
  b.token || b.ended || (b.kind == .gather && b.idxEnd && b.idx.isEmpty)
    || (b.kind == .read && !bit1 b.pat.toNat 70 && bits b.pat.toNat 72 24 * bits b.pat.toNat 96 16 * bits b.pat.toNat 112 16
      * bits b.pat.toNat 128 16 ≤ b.pos * (b.w.bits / 8))
/-- Bytes of an entry (R392, R395). -/
def Binding.entryBytes (b : Binding) : Nat := b.w.bits / 8
def vwNum : VW → Nat
  | .w256 => 0 | .w512 => 1 | .w1024 => 2
def vwOf : Nat → VW
  | 0 => .w256 | 1 => .w512 | _ => .w1024

/-- The 64 saved bytes of a binding (R396), as a number; `pipeEnd` for a pipe's consumer at its token. -/
def Binding.saved (b : Binding) (pipeEnd : Bool) : Nat :=
  if b.kind = .unbound then 0
  else
    let pt := b.pat.toNat
    let total := bits pt 72 24 * bits pt 96 16 * bits pt 112 16 * bits pt 128 16
    let pos := if b.indexed then b.pos
      else if bit1 pt 70 then b.pos * b.entryBytes else min (b.pos * b.entryBytes) total
    let common := (match b.kind with
        | .unbound => 0
        | .read => 1
        | .write => 2
        | .gather => 3
        | .scatter => 7) + vwNum b.w * 2 ^ 3 + (b.atToken || pipeEnd).toNat * 2 ^ 5 + b.failed.toNat * 2 ^ 6
      + (if b.done.place = .virt then 0 else 2 ^ 7) + b.culvert.toNat * 2 ^ 14 + pos * 2 ^ 40
      + addrWord b.done * 2 ^ 296 + b.census * 2 ^ 424 + b.tstat.toNat * 2 ^ 432 + b.status.toNat * 2 ^ 436
    if b.indexed then
      common + (if b.base.place = .virt then 0 else 2 ^ 8) + b.rowBytes * 2 ^ 16 + addrWord b.base * 2 ^ 232
    else
      common + bits pt 64 3 * 2 ^ 8 + bits pt 67 3 * 2 ^ 11 + bits pt 70 1 * 2 ^ 15 + bits pt 72 24 * 2 ^ 16
        + bits pt 96 48 * 2 ^ 88 + bits pt 144 96 * 2 ^ 136 + bits pt 0 56 * 2 ^ 232 + bits pt 256 64 * 2 ^ 360

/-- The binding its 64 saved bytes stand for. -/
def bindingOf (x : Nat) : Binding :=
  let kind := bits x 0 2
  if kind = 0 then Binding.unbound
  else
    let k : BindKind := match kind with
      | 1 => .read
      | 2 => .write
      | _ => if bit1 x 2 then .scatter else .gather
    let b : Binding := { Binding.unbound with
      kind := k, culvert := bit1 x 14, w := vwOf (bits x 3 2), done := addrOf (bits x 296 64) (bit1 x 7), failed := bit1 x 6
      failProg := if bit1 x 6 && bit1 x 14 then 1 else 0
      census := bits x 424 8, tstat := BitVec.ofNat 4 (bits x 432 4), status := BitVec.ofNat 18 (bits x 436 18) }
    let fin := bit1 x 5
    let b := if k = .read ∨ k = .gather then { b with token := fin, idxEnd := fin } else { b with ended := fin, idxEnd := fin }
    let pos := bits x 40 48
    if kind = 3 then
      { b with base := addrOf (bits x 232 64) (bit1 x 8), rowBytes := bits x 16 24, pos := pos, fetched := pos }
    else
      let e := b.entryBytes
      let n := (pos + e - 1) / e
      { b with
        pat := BitVec.ofNat 512 (bits x 232 56 + bits x 8 3 * 2 ^ 64 + bits x 11 3 * 2 ^ 67 + bits x 15 1 * 2 ^ 70
          + bits x 16 24 * 2 ^ 72 + bits x 88 48 * 2 ^ 96 + bits x 136 96 * 2 ^ 144 + bits x 360 64 * 2 ^ 256)
        pos := n, fetched := n }

/-- An iterator in its 16 bytes (R295). -/
def Iter.saved (i : Iter) : Nat :=
  i.value.toNat + i.index.toNat * 2 ^ 64 + i.cm1.toNat * 2 ^ 80 + i.stride.toNat * 2 ^ 96 + i.live.toNat * 2 ^ 126
    + i.dir.toNat * 2 ^ 127
def iterFrom (x : Nat) : Iter :=
  ⟨BitVec.ofNat 64 x, BitVec.ofNat 16 (bits x 64 16), BitVec.ofNat 16 (bits x 80 16), BitVec.ofNat 30 (bits x 96 30),
    bit1 x 126, bit1 x 127⟩

/-- A pipe register in its 16 bytes (R151). -/
def PipeReg.saved (r : PipeReg) : Nat :=
  r.head + r.tail * 2 ^ 32 + r.free * 2 ^ 64 + r.phase * 2 ^ 96 + r.fin.toNat * 2 ^ 97 + r.finPos * 2 ^ 98
/-- The register for its definition: a slot in progress is not published yet, unless the end published it. -/
def pipeFrom (d : PipeDef) (x : Nat) : PipeReg :=
  let tail := bits x 32 18
  let mid := d.slotSize != 0 && tail % (64 * d.slotSize) != 0 && !bit1 x 97
  ⟨bits x 0 18, tail, bits x 64 13, bits x 96 1, bit1 x 97, bits x 98 18, d.slots - bits x 64 13 - mid.toNat⟩

/-- A late-reply entry in its 32 bytes (R210). -/
def Late.saved (e : Late) : Nat :=
  e.tag + (e.status.getD 0) * 2 ^ 16 + e.status.isSome.toNat * 2 ^ 24 + e.reg * 2 ^ 25 + e.vec.toNat * 2 ^ 30 + e.data.toNat * 2 ^ 64

/-- A tile's elements and its state (R211). -/
def Tile.bytes (t : Tile) : List Byte := t.el.toList.flatMap fun r => r.toList.flatMap fun e => leBytes e.toNat 4
def Tile.state (t : Tile) : Nat := t.steps.toNat + t.sat.toNat * 2 ^ 64 + t.poison.toNat * 2 ^ 65
/-- The tile of 16,384 bytes and 16 bytes of state. -/
def tileFrom (bytes : List Byte) (st : Nat) : Tile :=
  let rows := Vector.ofFn fun (r : Fin 64) => Vector.ofFn fun (e : Fin 64) =>
    BitVec.ofNat 32 (leNat ((bytes.drop (256 * r.val + 4 * e.val)).take 4))
  ⟨rows, BitVec.ofNat 64 st, bit1 st 64, bit1 st 65⟩

/-- SLOT_SIZE of a share (R153). -/
def sizeCode (share : Nat) : Nat := if share = 2 ^ 22 then 2 else if share = 2 ^ 21 then 1 else 0

/-- The header of a context's record (R153), as a number. -/
def Ctx.saveHeader (c : Ctx) (lease : Bool) (others : List Nat) : Nat :=
  let l := c.launch
  let mem := if l.rank = 0 then (List.zipIdx others).foldl (fun n x => n + x.1 * 2 ^ (16 * x.2)) 0 else 0
  0x53565843 + l.recSize * 2 ^ 32 + c.pc.toNat * 2 ^ 64 + c.budget * 2 ^ 128 + c.refills * 2 ^ 176 + l.image * 2 ^ 192
    + l.args * 2 ^ 256 + l.index * 2 ^ 320 + l.walker * 2 ^ 352 + l.prio * 2 ^ 358 + sizeCode l.share * 2 ^ 361
    + l.rank * 2 ^ 363 + l.gang * 2 ^ 365 + lease.toNat * 2 ^ 367 + l.asid * 2 ^ 368 + mem * 2 ^ 384
    + c.spois.toNat * 2 ^ 432 + c.vpois.toNat * 2 ^ 464 + c.gap * 2 ^ 512

/-- Bytes of a list of numbers of n bytes each. -/
def packed (n : Nat) (l : List Nat) : List Byte := l.flatMap fun x => leBytes x n

/-- Whether the token is the next entry of a pipe's consumer (R394, R396). -/
def State.pipeEnded (s : State) (c : Ctx) (b : Binding) : Bool :=
  let r := s.pipeReg c (bits b.pat.toNat 0 2)
  b.kind == .read && bit1 b.pat.toNat 70 && b.entries.isEmpty && r.fin && r.pub == 0
/-- The parts of a record (R152): offset and bytes, without the sluice part and the memory regions. -/
def State.recordParts (s : State) (c : Ctx) (lease : Bool) (others : List Nat) : List (Nat × List Byte) :=
  let l := c.launch
  let pipes := (List.range 4).map fun n => if l.gang = 0 then 0 else (s.pipeReg c n).saved
  let tiles := (List.range 4).map fun n => if n < l.accs then ((c.acc[n]?).getD Tile.zero).state else 0
  [(0, leBytes (c.saveHeader lease others) 256),
   (0x100, packed 8 ((c.s.set 0 0).toList.map BitVec.toNat)),
   (0x200, packed 32 (c.os.toList.map BitVec.toNat)),
   (0x300, packed 8 (c.k.toList.map BitVec.toNat)),
   (0x380, packed 16 ((c.m.set 0 (BitVec.allOnes 128)).toList.map BitVec.toNat)),
   (0x400, packed 64 (c.q.toList.map fun b => b.saved (s.pipeEnded c b))),
   (0x600, packed 16 (c.it.toList.map Iter.saved)),
   (0x680, packed 8 (c.bt.toList.map BitVec.toNat)),
   (0x6C0, packed 8 ((List.range 8).map fun i => ((c.rstack[i]?).getD 0).toNat)),
   (0x700, packed 8 ((List.range 32).map fun i => ((c.csr[i]?).getD 0).toNat)),
   (0x800, packed 16 pipes),
   (0x840, packed 16 tiles),
   (0x880, leBytes ((c.p ^^^ (c.undef.p &&& s.free 140 8)).toNat / 2 * 2) 8),
   (0x888, List.replicate 376 0),
   (0xC00, List.replicate 1024 0),
   (0x1000, packed 128 (c.v.toList.map BitVec.toNat)),
   (0x2000, (c.acc.toList.take l.accs).flatMap Tile.bytes),
   (0x2000 + 16384 * l.accs + l.dr, packed 32 ((List.range 16).map fun i => ((c.late[i]?).map Late.saved).getD 0))]

/-- Undefined ranges of a copied range stay undefined at their new place. -/
def State.moveUndef (s : State) (u : List (Nat × Nat)) (src dst n : Nat) : State :=
  u.foldl (fun s r =>
    let lo := max r.1 src
    let hi := min r.2 (src + n)
    if lo < hi then s.undefine (dst + lo - src) (hi - lo) else s) s

/-- Move n bytes of unkeyed memory to or from tier 1 under key slot 0, with the poison of their words. -/
def State.spillOut (s : State) (src dst n : Nat) : State :=
  let s' := s.tierWrite .reeve dst (s.mem.readList src n)
  (List.range ((n + 7) / 8)).foldl (fun s' i =>
    if poisonedAt s.poison (src + 8 * i) 8 then s'.poisonRange (dst + 8 * i) 8 else s') (s'.moveUndef s.undef src dst n)
def State.spillIn (s : State) (src dst n : Nat) : State :=
  let s' := (s.countBad src n).poke dst (s.tierRead .reeve src n)
  (List.range ((n + 7) / 8)).foldl (fun s' i =>
    if lineBad s.poison (src + 8 * i) 8 then s'.poisonRange (dst + 8 * i) 8 else s') (s'.moveUndef s.undef src dst n)

/-- Owner of the requests of a saved context's late entries: save record and entry (log 24). -/
def savedOwner (r : Nat) : CtxId := ⟨1000 + r, 0⟩
def State.reown (s : State) (a b : CtxId) : State :=
  let f := fun (r : Request) => match r.owner with
    | .late c n => if c = a then { r with owner := .late b n } else r
    | _ => r
  { s with fab := { s.fab with out := s.fab.out.map f } }

/-- Write a saved part of undefined registers as undefined: register i of a mask takes n bytes from an offset (R3). -/
def State.undefRegs {w : Nat} (s : State) (base n : Nat) (m : BitVec w) : State :=
  (List.range w).foldl (fun s i => if m.getLsbD i then s.undefine (base + n * i) n else s) s
/-- The mask of the saved registers that hold an undefined byte. -/
def State.undefMask (s : State) (w base n : Nat) : BitVec w :=
  (List.range w).foldl (fun m i => if s.undef.any fun r => r.1 < base + n * (i + 1) && base + n * i < r.2 then m ||| (1#w <<< i) else m) 0#w

/-- The mask of the saved registers a part of which lies in a line with an uncorrectable error (R14). -/
def State.badMask (s : State) (w base n : Nat) : BitVec w :=
  (List.range w).foldl (fun m i => if lineBad s.poison (base + n * i) n then m ||| (1#w <<< i) else m) 0#w

/-- Write one context's record (R152). -/
def State.saveOne (s : State) (i : CtxId) (others : List Nat) : State :=
  let c := s.ctx i
  match c.victim with
  | none => s
  | some r =>
    let base := s.saveBase r
    let lease := ((s.saves.find? fun v => v.num == r).map Save.lease).getD false
    let u := c.undef
    let s := (s.recordParts c lease others).foldl (fun s x => s.tierWrite .reeve (base + x.1) x.2) s
    let s := ((((s.undefRegs (base + 0x100) 8 u.s).undefRegs (base + 0x300) 8 u.k).undefRegs (base + 0x380) 16 u.m).undefRegs
      (base + 0x1000) 128 u.v)
    let acc := u.acc &&& BitVec.ofNat 4 (2 ^ c.launch.accs - 1)
    let s := (s.undefRegs (base + 0x840) 16 acc).undefRegs (base + 0x2000) 16384 acc
    let s := s.spillOut c.shareBase (base + 0x2000 + 16384 * c.launch.accs) (4096 * c.launch.sram + 8 * c.launch.spill)
    let s := if c.launch.gang > 0 ∧ c.launch.rank = 0 then
        s.spillOut (areaBase (polOf i.core) c.launch.gangArea)
          (base + 0x2000 + 16384 * c.launch.accs + c.launch.dr + 512) c.launch.ringBytes
      else s
    -- outstanding FLDs are named by their place in the saved buffer from here on
    let s := (List.zipIdx c.late).foldl (fun s x =>
      let f := fun (q : Request) => if q.owner = .late i x.1.seq then { q with owner := .late (savedOwner r) x.2 } else q
      { s with fab := { s.fab with out := s.fab.out.map f } }) s
    let made := (List.finRange 8).filter fun q => c.q[q].updated
    { s with saves := s.saves.map fun (v : Save) => if v.num = r then { v with full := true, made := made } else v }

/-- Whether a stopped group is saved now: every member has stopped (R150), the completion updates and packets it still owes have
been made and sent (R385, log 23), and the time of the save has passed since each stop (R156). -/
def State.maySave (s : State) (c : Ctx) : Bool :=
  (s.gangOf c).all fun i =>
    let x := s.ctx i
    x.phase == .saving && x.ops.isEmpty && x.victim.any fun r =>
      s.saves.all fun v => v.num != r || v.stopAt + x.launch.saveCycles ≤ s.cycle

/-- Put a resume entry into the queue it belongs to, or among those that wait (R150). -/
def State.resumeTo (s : State) (e : RunEntry) (lvl : Nat) (l : Launch) : Option Nat :=
  match s.inst e.inst with
  | some i =>
    s.bestPolder (fun p => (i.allowed l.node).getLsbD p && s.shareOf p == l.share) lvl
  | none => none

def execSaveDone (c : CtxId) (s : State) : Out :=
  .next <|
  let x := s.ctx c
  if !s.maySave x then s
  else
    let who := s.gangOf x
    let recs := who.filterMap fun i => (s.ctx i).victim
    let l := (s.ctx ((who.head?).getD c)).launch
    let s := who.foldl (fun s i => s.saveOne i (recs.drop 1)) s
    let s := who.foldl (fun s i => ((s.freeSlot i).count 0x2108).mapInst l.inst fun n => { n with preempts := min (n.preempts + 1) (2 ^ 32 - 1) }) s
    let e : RunEntry := ⟨l.walker, l.index, recs.head?, l.inst, 0⟩
    if (s.inst l.inst).all fun n => n.status != 0 then s.discardSaves l.inst
    else
      match s.resumeTo e l.prio l with
      | some p => s.joinQueue p l.prio e
      | none => { s with resumeWait := s.resumeWait ++ [e] }

/-- The first waiting resume entry that some polder can take, with the level (R150). -/
def State.resumeNext (s : State) : Option (RunEntry × Nat × Nat) :=
  s.resumeWait.findSome? fun e =>
    match s.savedLaunches e with
    | l :: _ => (s.resumeTo e l.prio l).map fun p => (e, l.prio, p)
    | [] => none

def execResumeEntryJoin (s : State) : Out :=
  .next <|
  match s.resumeNext with
  | some (e, lvl, p) =>
    ({ s with resumeWait := s.resumeWait.erase e } : State).joinQueue p lvl e
  | none => s

/-! ### Restoring (R154, R155, R210) -/

/-- Fill a slot's context from a record. What a line with an uncorrectable error held comes back marked poisoned, or undefined
where its register has no mark (R14, R103; log 121). -/
def State.loadCtx (s : State) (id : CtxId) (l : Launch) (r : Nat) : State :=
  let base := s.saveBase r
  let word := fun (off n : Nat) => s.recNat .reeve (base + off) n
  let bad := fun (w off n : Nat) => s.badMask w (base + off) n
  let h := word 0 256
  let its : Vector Iter 8 := Vector.ofFn fun i => iterFrom (word (0x600 + 16 * i.val) 16)
  let csr : Vector Word 17 := Vector.ofFn fun i => BitVec.ofNat 64 (word (0x700 + 8 * i.val) 8)
  let inTrap := csr[csrTrapState].getLsbD 0
  let live := (List.range 8).filter fun i => ((its[i]?).getD Iter.zero).live
  let pc := BitVec.ofNat 64 (bits h 64 64)
  let stack := (List.range 8).map fun i => BitVec.ofNat 64 (word (0x6C0 + 8 * i) 8)
  let lateAt := 0x2000 + 16384 * l.accs + l.dr
  let waiting := s.fab.out.filterMap fun r' => match r'.owner with
    | .late c n => if c = savedOwner r then some n else none
    | _ => none
  let late := (List.range 16).filterMap fun i =>
    let e := word (lateAt + 32 * i) 16
    if bit1 e 24 || waiting.contains i then
      some ({ seq := i, tag := bits e 0 16, vec := bit1 e 30, reg := bits e 25 5, sz := .d64, bound := none, late := true
              status := if bit1 e 24 then some (bits e 16 8) else none, data := BitVec.ofNat 64 (bits e 64 64)
              own := s.fab.out.any fun x => x.owner == .late (savedOwner r) i && x.pkt.dst == s.self } : Late)
    else none
  let made := ((s.saves.find? fun v => v.num == r).map Save.made).getD []
  let k := s.core id.core
  let same := k.lastAsid.contains (id.slot, l.asid) && k.lastImage.contains (id.slot, l.image)
  let tile := fun (n : Fin 4) => if n.val < l.accs then
      let t := tileFrom (s.recRead .reeve (base + 0x2000 + 16384 * n.val) 16384) (word (0x840 + 16 * n.val) 16)
      { t with poison := t.poison || lineBad s.poison (base + 0x2000 + 16384 * n.val) 16384 || lineBad s.poison (base + 0x840) 64 }
    else Tile.zero
  let c : Ctx :=
    { Ctx.idle id with
      phase := if same then .waiting else .loading
      launch := { l with image := bits h 192 64, args := bits h 256 64, index := bits h 320 32, asid := bits h 368 16
                         prio := bits h 358 3, prom := 0, passes := 0, declared := 0, dispatchTime := s.cycle }
      s := Vector.ofFn fun i => BitVec.ofNat 64 (word (0x100 + 8 * i.val) 8)
      spois := BitVec.ofNat 32 (bits h 432 32) ||| bad 32 0x100 8, vpois := BitVec.ofNat 32 (bits h 464 32) ||| bad 32 0x1000 128
      p := BitVec.ofNat 8 (word 0x880 8)
      v := Vector.ofFn fun i => BitVec.ofNat 1024 (word (0x1000 + 128 * i.val) 128)
      m := Vector.ofFn fun i => BitVec.ofNat 128 (word (0x380 + 16 * i.val) 16)
      os := Vector.ofFn fun i => BitVec.ofNat 256 (word (0x200 + 32 * i.val) 32), osVer := Vector.replicate 8 (s.cycle + 1)
      k := Vector.ofFn fun i => BitVec.ofNat 64 (word (0x300 + 8 * i.val) 8)
      acc := Vector.ofFn tile
      q := Vector.ofFn fun i =>
        let b := bindingOf (word (0x400 + 64 * i.val) 64)
        if b.kind = .unbound then b else { b with pc := s.free (900 + i.val) 64, updated := made.contains i }
      it := its, bt := Vector.ofFn fun i => BitVec.ofNat 22 (word (0x680 + 8 * i.val) 8)
      rstack := stack.filter fun e => e.getLsbD 63
      pc := pc, csr := csr, budget := bits h 128 48, refills := bits h 176 8, gap := bits h 512 16
      nest := (live.head?).map fun f => ⟨if inTrap then csr[csrTrapPc] else pc, f, live.length⟩
      suspended := inTrap && !live.isEmpty
      nextSeq := 16, late := late, bound := BitVec.allOnes 8
      undef := ⟨s.undefMask 32 (base + 0x100) 8, s.undefMask 32 (base + 0x1000) 128, if lineBad s.poison (base + 0x880) 8 then 254 else 0,
        s.undefMask 8 (base + 0x380) 16 ||| bad 8 0x380 16, s.undefMask 16 (base + 0x300) 8 ||| bad 16 0x300 8,
        s.undefMask 4 (base + 0x2000) 16384⟩ }
  ((s.countBad base (0x2000 + 16384 * l.accs)).mapCtx id fun _ => c).reown (savedOwner r) id

/-- Whether the member records agree with rank 0's header, each a record in use (R155). A header in a line with an uncorrectable error
agrees with none (log 121). -/
def State.recordOk (s : State) (recs : List Nat) : Bool :=
  let h := s.recHeader
  let h0 := h ((recs.head?).getD 0)
  (List.zipIdx recs).all fun x =>
    !lineBad s.poison (s.saveBase x.1) 256 && bits (h x.1) 0 32 == 0x53565843 && bits (h x.1) 368 16 == bits h0 368 16 && bits (h x.1) 365 2 == bits h0 365 2
      && bits (h x.1) 363 2 == x.2 && s.saves.any fun v => v.num == x.1 && v.full

/-- Records whose sluice entries are still RETURNING hold their context back (R78). -/
def State.returning (s : State) (r : Nat) : Bool :=
  let base := s.saveBase r
  s.slu.sends.any fun e => e.st == .returning && e.record.any fun a => base ≤ a && a < base + 4538368

/-- Free save records; a polder that lacked one may try again. -/
def State.freeSaves (s : State) (recs : List Nat) : State :=
  { s with saves := s.saves.filter fun v => !recs.contains v.num
           pols := s.pols.map fun (p : PolderSt) => { p with tried := false } }

/-- The sends of a context that went on after its stop are posted again from its record, which is freed (R79, R81, log 98). -/
def State.sendBack (s : State) (v : Save) : State :=
  match v.back with
  | some c => (s.repostSends c v.launch.asid (s.saveBase v.num + 0x0A00) v.vas).freeSaves [v.num]
  | none => s
/-- A record whose context went on and whose sends have all returned. -/
def State.backDue (s : State) : Option Save := s.saves.find? fun v => v.back.isSome && !s.returning v.num

/-- The saved tasks of an instance's coordinate whose restore is refused count as killed (R155). -/
def State.refuseRestore (s : State) (l : Launch) : State :=
  let mine := s.saves.filter fun v => v.walker == l.walker && v.index == l.index && v.full
  let s := mine.foldl (fun s v => s.discardSends v.launch.asid (s.saveBase v.num + 0x0A00)) s
  ((s.freeSaves (mine.map Save.num)).credit l true).endInst l.inst 2 l.node

def execRestore (p : Fin 24) (s : State) : Out :=
  .next <|
  let p := p.val
  match headEntry (s.pol p) with
  | none => s
  | some (lvl, e) =>
    let recs := s.recsOf e
    match s.savedLaunches e, s.entryMembers p e with
    | l0 :: ls, some ms =>
      if recs.any s.returning then s
      else if !s.recordOk recs then
        (recs.foldl (fun s r => s.countBad (s.saveBase r) 256) (s.leaveQueue p lvl e)).refuseRestore l0
      else
        match s.placement p s.tasks ms with
        | none => s
        | some (ids, area) =>
          let s := s.leaveQueue p lvl e
          let base0 := s.saveBase ((recs.head?).getD 0)
          let s := if ids.length > 1 then
              let regs := (List.zipIdx l0.pipes).map fun x => pipeFrom x.1 (s.recNat .reeve (base0 + 0x800 + 16 * x.2) 16)
              (s.mapPol p fun q => { q with areas := q.areas ++ [(area, regs)] }).spillIn
                (base0 + 0x2000 + 16384 * l0.accs + l0.dr + 512) (areaBase p area) l0.ringBytes
            else s
          let s := ((ids.zip recs).zip (l0 :: ls)).foldl (fun s x =>
            let ((id, r), l) := x
            let lease := bit1 (s.recHeader r) 367
            let l := { l with members := if ids.length > 1 then ids else [id], gangArea := area }
            let s := s.loadCtx id l r
            let s := s.spillIn (s.saveBase r + 0x2000 + 16384 * l.accs) (s.slotBase id) (4096 * l.sram + 8 * l.spill)
            let vas := ((s.saves.find? fun v => v.num == r).map Save.vas).getD []
            let s := s.repostSends id l.asid (s.saveBase r + 0x0A00) vas
            let left := ((s.ctx id).csrs csrLeaseLeft).toNat
            if lease && left != 0 then s.askLease id left else s) s
          s.freeSaves recs
    | _, _ => s

/-- System software discards a saved context without restoring it (R80): its sends are cancelled, its records are freed
and its tile tasks count as killed. -/
def execSavedContextDiscard (rec : Nat) (s : State) : Out :=
  .next <|
  match s.saves.find? fun v => v.num == rec && v.full with
  | none => s
  | some v =>
    let mine := s.saves.filter fun u => u.walker == v.walker && u.index == v.index && u.full
    let recs := mine.map Save.num
    let s := mine.foldl (fun s u => s.discardSends u.launch.asid (s.saveBase u.num + 0x0A00)) s
    let gone := fun (e : RunEntry) => e.record.any fun r => recs.contains r
    let s := { s with resumeWait := s.resumeWait.filter fun e => !gone e
                      pols := s.pols.map fun (q : PolderSt) => { q with runQ := q.runQ.filter fun e => !gone e.2 } }
    ((s.freeSaves recs).credit v.launch true)

end Sys2Proof.Machine
end

