-- ==== Sys2Proof/Machine/Graphs.lean ====
section
/-! DEFINITION. Host commands as such (R85 to R87), graph registration and release (R90, R91, R126 to R133, R151, R286), and
submit lines (R92 to R94). -/

namespace Sys2Proof.Machine

/-! ### Command status codes and the write-back (R85, R87) -/

def csOk : Nat := 0
def csOp : Nat := 1
def csState : Nat := 2
def csAddress : Nat := 3
def csInvalid : Nat := 4
def csFull : Nat := 5
def csBusy : Nat := 6
def csHandle : Nat := 7
def csKeyAuth : Nat := 8
def csDomain : Nat := 9
def csSlot : Nat := 10
def csSignature : Nat := 11
def csFeature : Nat := 12

/-- Arguments of a command block. -/
def cmdArg (b : BitVec 512) (i : Nat) : Nat := bits b.toNat (64 + 64 * i) 64

/-- Write the running command back: STATUS and DETAIL, BUSY clear, CMD_DONE and vector 8 (R85, R98). -/
def State.writeBack (s : State) (st detail : Nat) : State :=
  match s.hcmd with
  | none => s
  | some (a, b) =>
    let out := putBits (putBits b.toNat 8 8 st) 32 32 detail
    let s := (s.hostWrite a (leBytes out 64)).setRegF 0x0200 0 1 0
    (({ s with hcmd := none } : State).setCause 0).raiseIrq 8

/-- Carry out the running command when it is the one named; STATUS and DETAIL are what it answers (R85, R86). -/
def State.command (s : State) (op : Nat) (run : State → (Nat → Nat) → State × Nat × Nat) : State :=
  match s.hcmd with
  | some (_, b) =>
    if bits b.toNat 0 8 = op then
      let (s, st, d) := run s (cmdArg b)
      s.writeBack st d
    else s
  | none => s

/-! ### Graph registration (R91) -/

def vFormat : Nat := 1
def vCount : Nat := 2
def vEdge : Nat := 3
def vKind : Nat := 4
def vLaunch : Nat := 5
def vImage : Nat := 6
def vAlign : Nat := 7
def vFeature : Nat := 8
def vColl : Nat := 9
def vGang : Nat := 10
def vOffload : Nat := 11
def vSink : Nat := 12
def vCycle : Nat := 13

/-- Whether n bytes from an address cannot be read at registration: outside tier 1, or in a line with an error. -/
def State.unreadable (s : State) (a n : Nat) : Bool :=
  !inTier1 (a + n - 1) || poisonedAt s.poison (a / 64 * 64) ((a % 64 + n + 63) / 64 * 64)

/-- A code where its condition holds. -/
def codeIf (c : Bool) (v : Nat) : List Nat := if c then [v] else []

/-- Whether an image descriptor breaks R286. -/
def imgBad (d : Nat) : Bool :=
  bits d 0 32 != 0x4C4E524B || bits d 32 16 != 1 || bits d 48 16 != 0 || imgCode d % 32 != 0 || imgCode d < 32
    || 4194304 < imgCode d || bits d 96 32 % 32 != 0 || imgCode d ≤ bits d 96 32 || bits d 128 64 % 64 != 0
    || bits d 192 64 % 64 != 0 || bits d 384 640 != 0

/-- Whether a tile-task header has a field out of range (R133). -/
def hdrBad (h : Nat) : Bool :=
  bits h 0 32 == 0 || bits h 32 16 == 0 || 1024 < hdrSram h || bits h 59 1 != 0 || 8 < hdrStreams h || 4 < hdrAccs h
    || bits h 67 1 != 0 || bits h 70 2 != 0 || bits h 80 48 != 0
    || (List.range 4).any fun i =>
      let e := bits h (128 + 96 * i) 96
      bits e 0 4 != 0 || bits e 48 15 != 0

/-- Codes of one member image. -/
def State.imageCodes (s : State) (asid handle gang : Nat) : List Nat :=
  match (s.imageGet asid handle).2 with
  | .error _ | .ok none => [vImage]
  | .ok (some (d, h)) =>
    codeIf (imgBad d) vImage ++ codeIf (hdrBad h) vLaunch ++ codeIf (bits h 68 2 != gang) vGang
      ++ codeIf (bits d 256 128 &&& s.reg 0x0120 != bits d 256 128) vFeature
      ++ codeIf (bit1 d (256 + 13) && s.choose 9 2 == 1) vOffload

/-- Whether a pipe definition breaks R151. -/
def pipeBad (r n : Nat) : Bool :=
  let e := bits r (1280 + 64 * n) 64
  let d := lrPipe r n
  bits e 5 11 != 0 || bits e 42 22 != 0 ||
    (d.valid && (lrGang r < d.producer || lrGang r < d.consumer || d.producer == d.consumer || d.slotSize == 0
      || d.slots < 2 || 4096 < d.slots))

/-- Whether a semaphore entry has a reserved bit or kind (R132). -/
def semBad (e : Nat) : Bool := 3 < semKind e || bits e 116 12 != 0

/-- Codes of a launch record (R131): field ranges, alignment, features, and the pipes of a gang. -/
def State.launchCodes (s : State) (r : Nat) : List Nat :=
  let rank := lrDims r
  let perm := (List.range rank).map (lrPerm r)
  let bad := 6 < rank || bits r 131 2 == 3 || bits r 134 2 == 3 || bits r 141 3 != 0 || bits r 144 16 == 0
    || bits r 160 24 == 0 || bits r 192 48 == 0 || bits r 240 16 != 0 || bits r 562 14 != 0 || bits r 1536 512 != 0
    || bits r 64 64 % 64 != 0 || lrImage r 0 == 0
    || (List.range 4).any (fun m => if m ≤ lrGang r then lrImage r m % 128 != 0 else lrImage r m != 0)
    || (List.range 6).any (fun d => if d < rank then bits r (256 + 32 * d) 32 == 0 || bits r (448 + 16 * d) 16 == 0
        else bits r (256 + 32 * d) 32 != 0 || bits r (448 + 16 * d) 16 != 0)
    || perm.any (fun x => rank ≤ x) || !perm.Nodup || (List.range 6).any (fun j => rank ≤ j && lrPerm r j != 0)
    || (List.range rank).any (fun d => 65536 < lrTiles r d) || 2 ^ 32 - 1 < lrCount r
    || (bits r 131 2 == 1 && rank == 1) || (lrGang r != 0 && lrOrdered r)
    || (List.range 4).any (fun i => semBad (lrSem r i))
  let rings := (((List.range 4).map (lrPipe r)).filter PipeDef.valid).map fun d => 64 * d.slotSize * d.slots
  codeIf bad vLaunch
    ++ codeIf ((List.range 4).any fun i => semKind (lrSem r i) != 0 && bits (lrSem r i) 0 64 % 16 != 0) vAlign
    ++ codeIf (lrGang r != 0 && !s.feat 16) vFeature
    ++ codeIf ((List.range 4).any (pipeBad r) || 262144 < rings.sum) vGang

/-- Codes of a LAUNCH node's body (R128, R131, R133, R286). -/
def State.launchNodeCodes (s : State) (image asid e : Nat) : List Nat :=
  let off := bits e 64 64
  let res := codeIf (bits e 128 384 != 0) vFormat ++ codeIf (off % 256 != 0) vAlign
  if s.unreadable (image + off) 256 then res ++ [vFormat]
  else
    let r := s.tierNat .host (image + off) 256
    let codes := s.launchCodes r
    res ++ codes ++ (if codes.contains vLaunch then [] else
      (List.range (lrGang r + 1)).flatMap fun m => s.imageCodes asid (lrImage r m) (lrGang r))

/-- Codes of a COLL node's body (R55, R128). -/
def State.collNodeCodes (s : State) (asid e : Nat) : List Nat :=
  codeIf (bits e 129 383 != 0) vFormat ++ codeIf (!s.feat 4) vFeature ++
    if bit1 e 128 then []
    else if bits e 64 64 % 64 ≠ 0 then [vAlign]
    else
      match (s.vGet tlbIo asid (bits e 64 64) 64).2 with
      | .ok (l, m) => codeIf (m.poison || collBad (leNat (l.map Prod.fst))) vColl
      | .error _ => [vColl]

/-- Codes of a node entry (R91 step 3). -/
def State.nodeCodes (s : State) (image asid nodes off count i : Nat) : List Nat :=
  let a := image + 64 + 64 * i
  if s.unreadable a 64 then [vFormat]
  else
    let e := s.tierNat .host a 64
    let n := nodeSuccCount e
    let first := bits e 32 32
    let inside := first + n ≤ count
    let succ := if inside then (List.range n).map fun j => s.tierNat .host (image + off + 2 * (first + j)) 2 else []
    let kind := nodeKind e
    codeIf (bits e 3 13 != 0 || 4095 < n || !inside || succ.any fun x => 4096 ≤ x) vFormat
      ++ codeIf (succ.any fun x => x < 4096 && nodes ≤ x) vEdge ++ codeIf (4 < kind) vKind ++
      match kind with
      | 0 => s.launchNodeCodes image asid e
      | 1 => codeIf (bits e 192 40 == 0 || bits e 234 278 != 0) vFormat
          ++ codeIf (bits e 64 64 % 64 != 0 || bits e 128 64 % 64 != 0) vAlign
      | 2 => s.collNodeCodes asid e
      | 3 | 4 => codeIf (bits e 193 319 != 0) vFormat ++ codeIf (bits e 64 64 % 16 != 0) vAlign
      | _ => []

/-- The least of a list of codes. -/
def leastCode : List Nat → Option Nat
  | [] => none
  | c :: cs => some ((leastCode cs).elim c (min c))

/-- Nodes reached from a list by the successors, within `fuel` rounds. -/
def reach (succ : Nat → List Nat) : Nat → List Nat → List Nat
  | 0, seen => seen
  | fuel + 1, seen =>
    let more := ((seen.flatMap succ).filter fun x => !seen.contains x).eraseDups
    if more.isEmpty then seen else reach succ fuel (seen ++ more)

/-- The first error of a graph image: its code and node index (R91). DESIGN CHOICE, log 123: a header line with an uncorrectable
error fails with FORMAT and index 0xFFF. -/
def State.graphError (s : State) (image asid : Nat) : Option (Nat × Nat) :=
  let h := s.tierNat .host image 64
  let nodes := bits h 64 13
  let off := bits h 96 32
  let count := bits h 128 32
  if poisonedAt s.poison image 64 || bits h 0 32 != 0x47524148 || bits h 32 16 != 1 || bits h 48 16 != 0 || bits h 77 19 != 0
      || bits h 160 352 != 0 then some (vFormat, 0xFFF)
  else if off % 8 ≠ 0 then some (vAlign, 0xFFF)
  else if count != 0 && s.unreadable (image + off) (2 * count) then some (vFormat, 0xFFF)
  else if nodes = 0 ∨ 4096 < nodes then some (vCount, 0xFFF)
  else
    match (List.range nodes).findSome? fun i => (leastCode (s.nodeCodes image asid nodes off count i)).map fun c => (c, i) with
    | some e => some e
    | none =>
      let g : Graph := ⟨0, image, asid, []⟩
      match (List.range nodes).filter fun i => (s.succs g i).isEmpty with
      | [] => some (vSink, 0xFFF)
      | [_] =>
        ((List.range nodes).find? fun i => (reach (s.succs g) nodes (s.succs g i)).contains i).map fun i => (vCycle, i)
      | _ :: b :: _ => some (vSink, b)

/-- Count the uncorrectable error that one of n bytes of tier 1 read at registration holds (R91, R103). -/
def State.metAt (s : State) (a n : Nat) : State :=
  if inTier1 (a + n - 1) && lineBad s.poison a n then s.countUe a else s
/-- What registration's reads met: only those of the header, the successor array, and the node that is refused can have met an
error. -/
def State.graphMet (s : State) (image asid node : Nat) : State :=
  let h := s.tierNat .host image 64
  let s := s.metAt image 64
  if lineBad s.poison image 64 then s
  else
    let s := if bits h 128 32 = 0 then s else s.metAt (image + bits h 96 32) (2 * bits h 128 32)
    if node = 0xFFF then s
    else
      let a := image + 64 + 64 * node
      if s.unreadable a 64 then s.metAt a 64
      else
        let e := s.tierNat .host a 64
        match nodeKind e with
        | 0 =>
          let r := image + bits e 64 64
          if s.unreadable r 256 then s.metAt r 256
          else
            let x := s.tierNat .host r 256
            (List.range (lrGang x + 1)).foldl (fun s m => (s.imageGet asid (lrImage x m)).1) s
        | 2 => if bit1 e 128 then s else (s.vGet tlbIo asid (bits e 64 64) 64).1
        | _ => s

/-- The source nodes of a graph: those no successor entry names (R128). -/
def State.sources (s : State) (g : Graph) : List Nat :=
  let nodes := bits (s.tierNat .host g.image 64) 64 13
  let named := (List.range nodes).flatMap (s.succs g)
  (List.range nodes).filter fun i => !named.contains i

/-- REGISTER_GRAPH (R90, R91). -/
def execRegisterGraph (s : State) : Out :=
  .next <| s.command 2 fun s arg =>
    let a := arg 0
    if bits (arg 1) 16 48 ≠ 0 then (s, csOp, 0)
    else if a % 64 ≠ 0 || !inTier1 (a + 63) then (s, csAddress, 0)
    else
      match s.graphError a (arg 1) with
      | some (c, n) => (s.graphMet a (arg 1) n, csInvalid, c + n * 2 ^ 8)
      | none =>
        match (List.range 1024).find? fun h => s.graphs.all fun g => g.handle != h + 1 with
        | none => (s, csFull, 0)
        | some h =>
          let g : Graph := ⟨h + 1, a, arg 1, []⟩
          let copies := (s.sources g).map fun i =>
            let e := s.nodeEntry g i
            (i, BitVec.ofNat 512 e, BitVec.ofNat 2048 (if nodeKind e = 0 then s.launchRec g i else 0))
          ({ s with graphs := s.graphs ++ [{ g with copies := copies }] }, csOk, h + 1)

/-- RELEASE_GRAPH (R90). -/
def execReleaseGraph (s : State) : Out :=
  .next <| s.command 3 fun s arg =>
    if bits (arg 0) 16 48 ≠ 0 then (s, csOp, 0)
    else if (s.graphOf (arg 0)).isNone then (s, csHandle, 0)
    else if s.insts.any fun i => i.handle == arg 0 then (s, csBusy, 0)
    else ({ s with graphs := s.graphs.filter fun g => g.handle != arg 0 }, csOk, 0)

/-! ### Submit lines (R92 to R94) -/

/-- One observation of a line (R94). -/
def State.observe (s : State) (line : Nat) : State :=
  let l := s.hostNat (s.regF 0x0300 14 38 * 2 ^ 14 + 64 * line) 64
  let seq := bits l 0 32
  let last := s.lineLast.getD line 0
  if seq = last then s
  else
    let crec := bits l 128 64
    let s := { s with lineLast := s.lineLast.put line seq 0 }
    let s := s.hostWrite (s.regF 0x0308 11 41 * 2 ^ 11 + 8 * line) (leBytes seq 8)
    let i : Inst :=
      { num := 0, handle := bits l 32 16, line := line, seq := seq, args := bits l 64 64, crec := crec, cookie := bits l 192 64
        prio := line / 32, order := s.obsCtr, tStart := s.ftime, nodes := [], status := 0, node := 0xFFF, preempts := 0 }
    let s := { s with obsCtr := s.obsCtr + 1 }
    let formed := bits l 48 16 == 0 && bits l 256 256 == 0 && i.args % 64 == 0 && crec % 64 == 0
    if seq = (last + 1) % 2 ^ 32 ∧ formed = true then
      match s.graphOf i.handle with
      | none => s.writeRecord { i with status := 3 }
      | some g =>
        match firstFree (s.insts.map Inst.num) 1024 with
        | none => s.writeRecord { i with status := 4 }
        | some n =>
          if 16 ≤ (s.insts.filter fun x => x.handle == i.handle).length then s.writeRecord { i with status := 4 }
          else
            let count := bits (s.tierNat .host g.image 64) 64 13
            let nodes := (List.range count).map fun j => (⟨j, .pending, 0, [], false, 0, []⟩ : NodeSt)
            let s := { s with insts := s.insts ++ [{ i with num := n, nodes := nodes }] }
            (s.sources g).foldl (fun s j => s.enqueue n j) s
    else
      let s := s.count 0x2048
      if crec % 64 = 0 then s.writeRecord { i with status := 5 } else s

/-- Whether the front end observes submit lines: ENABLE, and no fatal state (R92, R104). -/
def State.observing (s : State) : Bool := s.served && s.regF 0x0300 0 1 == 1 && s.fatal.isNone

/-- A line's place in the order in which lines observed in one I/O cycle are taken (R94). -/
def lineOrder (line : Nat) : Nat := (7 - line / 32) * 32 + line % 32
/-- Whether a line may be observed now: none that follows it in that order has been in this I/O cycle (R94). -/
def State.lineMay (s : State) (line : Nat) : Bool :=
  line < 256 && s.obsLast.all fun x => x.1 != s.ftime || x.2 < lineOrder line

def execSubmitLineObservation (line : Nat) (s : State) : Out :=
  .next (if s.observing && s.lineMay line then { s.observe line with obsLast := some (s.ftime, lineOrder line) } else s)

/-- A write of SUBMIT (R92): an ENABLE that rises clears LAST and reads every line once, priority 7 first. -/
def State.writeSubmit (s : State) (v : Word) : State :=
  let new := bits v.toNat 0 1 + bits v.toNat 14 38 * 2 ^ 14
  let rise := s.regF 0x0300 0 1 == 0 && v.getLsbD 0
  let s := s.setReg 0x0300 new
  if rise && s.observing then
    let s := { s with lineLast := [] }
    { ((List.range 8).reverse.flatMap fun p => (List.range 32).map fun n => 32 * p + n).foldl (fun s n => s.observe n) s with
      obsLast := some (s.ftime, 256) }
  else s

def execSubmitEnable (v : Word) (s : State) : Out := .next (if s.served then s.writeSubmit v else s)
def execSubmitDisable (v : Word) (s : State) : Out := .next (if s.served then s.writeSubmit v else s)

end Sys2Proof.Machine
end

