-- ==== Sys2Proof/Machine/Faults.lean ====
section
/-! DEFINITION. Held translation faults: delivery, retry and abort (R121 to R125, R385, R389, R392, R406, R435),
copy-on-write fills (R115, R116), and invalidation (R119, R120). -/

namespace Sys2Proof.Machine

/-! ### Abort (R124) -/

/-- The status-word bit of a fault class (R384). -/
def faultBit (code : Nat) : Nat := if code = 3 ∨ code = 4 ∨ code = 5 then 2 ^ 7 else if code = 7 then 2 ^ 8 else 2 ^ 6

/-- TRAP_PROG of an XLATE trap (R206). -/
def progWord (engine progress : Nat) : Word := BitVec.ofNat 64 (engine + 8 * progress)

/-- The next bundle of the context traps XLATE; the first such event stands. -/
def Ctx.nextXlate (c : Ctx) (va engine progress : Nat) : Ctx :=
  { c with xlate := c.xlate.or (some (BitVec.ofNat 64 va, progWord engine progress)) }

/-- Change an operation. -/
def Ctx.mapOp (c : Ctx) (seq : Nat) (f : EngOp → EngOp) : Ctx :=
  { c with eng := c.eng.map fun e => if e.seq = seq then f e else e
           engA := c.engA.map fun e => if e.seq = seq then f e else e }
/-- Take an operation away. -/
def Ctx.dropOp (c : Ctx) (seq : Nat) : Ctx :=
  { c with eng := c.eng.filter fun e => e.seq != seq, engA := c.engA.filter fun e => e.seq != seq }

/-- A culvert descriptor could not be read: its register is failed, and so is what waits for it (R389). -/
def Ctx.descFailed (c : Ctx) (seq : Nat) (q : QNo) (st : BitVec 18) : Ctx :=
  let c := c.dropOp seq
  let copy := fun (e : EngOp) => match e.kind with
    | .copyA (some n) _ => if n = seq then { e with kind := .copyA none none, status := e.status ||| st, phase := .updating } else e
    | _ => e
  let c := { c with dr := if c.dr[q] == .reading seq then c.dr.set q (.failed st) else c.dr
                    eng := c.eng.map copy, engA := c.engA.map copy }
  if c.q[q].pend == some seq then
    ({ c with q := c.q.set q (({ c.q[q] with pend := none } : Binding).fail st) } : Ctx).bindUpdate q
  else c

/-- Abort of a culvert operation: its update carries the fault class; a descriptor update that faulted is left out, and a
completion update that faulted is abandoned; a descriptor read leaves a failed register; an FRTS read frees its send-table
entry; an FMSG ends with a status of R51 (R124, R226, R385, R389, R401, R406). -/
def State.abortOp (s : State) (c : CtxId) (seq : Nat) (h : HeldFault) : State :=
  match (s.ctx c).ops.find? fun e => e.seq == seq with
  | none => s
  | some e =>
    if e.phase = .updating then
      if e.owes.isSome then s.mapCtx c fun x => x.mapOp seq fun e =>
        { e with kind := e.kind.noDesc, status := e.status ||| BitVec.ofNat 18 (faultBit h.code) }
      else s.mapCtx c fun x => (x.dropOp seq).nextXlate h.va h.engine 0
    else
      match e.kind with
      | .cdesc q _ => s.mapCtx c fun x => x.descFailed seq q (BitVec.ofNat 18 (faultBit h.code))
      | .frts _ =>
        let s := s.setSlu fun u => { u with sends := u.sends.filter fun e => !(e.owner = c && e.st == .reading && e.seq == seq) }
        s.mapCtx c fun x => (x.dropOp seq).nextXlate h.va h.engine 0
      | .fmsg _ _ _ _ => s.mapCtx c fun x =>
        { x.dropOp seq with remote := x.remote.map fun (r : Remote) =>
          if r.seq = seq then { r with status := some (if faultBit h.code = 2 ^ 7 then 3 else 2) } else r }
      | _ => s.mapCtx c fun x => x.mapOp seq fun e =>
        { e with status := e.status ||| BitVec.ofNat 18 (faultBit h.code), phase := .updating }

/-- Abort of a stream: the binding fails, and the next bundle that names it traps (R124, R192, R193). -/
def State.abortStream (s : State) (c : CtxId) (q : QNo) (h : HeldFault) : State :=
  s.mapCtx c fun x =>
    let b := x.q[q]
    let b := { b with entries := [], failed := true, failVal := BitVec.ofNat 64 h.va, failProg := progWord h.engine h.progress
                      status := b.status ||| BitVec.ofNat 18 (faultBit h.code) }
    ({ x with q := x.q.set q b } : Ctx).bindUpdate q

/-- Abort of a load: the context traps, what the load had not landed is undefined, and the buffer is not complete (R124, R201, R360). -/
def State.abortLoad (s : State) (core : Nat) (b : Bool) (h : HeldFault) : State :=
  match (s.pipeOf core b).q with
  | [] => s
  | l :: _ =>
    (s.popLoad core b fun p =>
      { p.mapBuf l.buf fun c => { c.cutAt l.spec l.row with cut := true } with err := if p.err = 0 then 3 else p.err }).mapCtx l.ctx fun x =>
        x.nextXlate h.va h.engine h.progress

/-- Abort of a matrix store or MLDACC, whose tile keeps its contents; what waits behind it on the tile follows (R369). A store
that has written its rows sets its flags, and one from a marked tile that has written some sets POISON (R230, log 106). -/
def State.abortStore (s : State) (core : Nat) (h : HeldFault) : State :=
  match (s.core core).store with
  | [] => s
  | x :: _ =>
    let f := if x.load || x.row = 0 then 0 else if x.count ≤ x.row then x.flags else flagIf x.poison flagPoison
    let s := if x.load then s.settleTile x.ctx x.tile x.issued else s
    (((s.storeErr core 3).engFlags x.ctx 3 x.issued x.pc f).popStore core x).mapCtx x.ctx fun c =>
      c.nextXlate h.va h.engine h.progress

/-- Abort of a node's engine: a collective whose descriptor has been read ends LOST, every other node ends its instance KILLED
(R57, R124, R129, R435). A LAUNCH whose add is not made ends once its running tasks have retired (R436). A collective whose
DONE_VA faulted cannot make its increment, and its instance ends KILLED (log 25). -/
def State.abortNode (s : State) (n node : Nat) (h : HeldFault) : State :=
  match s.inst n with
  | none => s
  | some i =>
    match nodeKind (s.nodeEntry (s.instGraph i) node), s.collOf n node with
    | 0, _ =>
      (s.mapNode n node fun x => { x with adds := if h.write then x.adds.drop 1 else x.adds }).endInst n 2 node
    | 2, some c =>
      if c.written = collOutBytes c.desc.toNat ∨ h.va = bits c.desc.toNat 320 64 then
        (({ s with colls := s.colls.filter fun c => !(c.inst == n && c.node == node) } : State).endInst n 2 node).endNode n node
      else (s.mapColl n node fun c => { c with lost := true }).mapNode n node fun x =>
        { x with st := if x.st = .judging then .ready else x.st }
    | _, _ => (s.endInst n 2 node).endNode n node

/-- End a held fault by abort. -/
def State.abort (s : State) (h : HeldFault) : State :=
  let s := s.unhold fun x => x.tag == h.tag
  match h.holder with
  | .eng c seq => s.abortOp c seq h
  | .stream c q => s.abortStream c q h
  | .pipe core b => s.abortLoad core b h
  | .store core => s.abortStore core h
  | .overlay c => s.kill c
  | .coll n node => s.abortNode n node h
  | .send id => s.freeSend id
  | .stall c => s.mapCtx c fun x => { x with waived := some (BitVec.ofNat 64 h.va, progWord h.engine h.progress) }
  | .read c reg =>
    s.mapCtx c fun x => { x.nextXlate h.va h.engine 0 with
      writes := x.writes.filter fun w => !sameDest w.dest (.k reg 0), undef := { x.undef with k := x.undef.k ||| (1#16 <<< reg) } }

/-! ### Retry (R123, R124) -/

/-- The engine goes on from its progress point. A read of a completion object is made again (R386). -/
def State.retry (s : State) (h : HeldFault) : State :=
  let s := s.unhold fun x => x.tag == h.tag
  match h.holder with
  | .read c reg =>
    let clear := fun (s : State) => s.mapCtx c fun x =>
      { x with writes := x.writes.filter fun w => !sameDest w.dest (.k reg 0) }
    match s.xlate (tlbOf c.core) h.asid h.va .read with
    | (s, .error f) => (s.hold h.holder f false h.engine h.core h.slot h.asid h.va 0).1
    | (s, .ok ph) =>
      let v := match s.unread ph with
        | some _ => s.free (160 + reg) 64
        | none => BitVec.ofNat 64 (s.tierNat ph.key ph.pa 8)
      (clear (s.countAt ((s.unread ph).getD 0))).mapCtx c fun x => { x with writes := x.writes ++ [⟨s.cycle, .k reg v⟩] }
  | .send id => s.readSend id h.engine h.core h.slot
  | _ => s

/-! ### Delivery (R122) -/

/-- A fault record. -/
def HeldFault.record (h : HeldFault) : Nat :=
  h.code + h.level * 2 ^ 8 + h.write.toNat * 2 ^ 11 + h.engine * 2 ^ 12 + h.core * 2 ^ 16 + h.slot * 2 ^ 23 + h.asid * 2 ^ 32
    + h.tag * 2 ^ 48 + h.va % 2 ^ 64 * 2 ^ 64 + h.progress * 2 ^ 128 + h.pte.toNat * 2 ^ 192 + h.time * 2 ^ 256

/-- Whether the page of a copy-on-write fault has been made private meanwhile. -/
def State.cowGone (s : State) (h : HeldFault) : Bool :=
  match s.walk h.asid h.va with
  | .ok l => !l.pte.getLsbD 5
  | .error _ => false
/-- Whether the reeve resolves a fault itself (R115, R116). -/
def State.fillable (s : State) (h : HeldFault) : Bool :=
  h.code == 6 && !h.queued && ((s.cowPlan h.asid h.va).isSome || s.cowGone h)

/-- One attempt to deliver a fault, with the address-space entry as it stands. An access that waited behind another fault of
its engine is made first. -/
def State.deliverFault (s : State) (h : HeldFault) : State :=
  if h.queued then (if s.engHeld h.engine h.core then s else s.retry h)
  else match if h.code = 10 then none else s.ast h.asid with
  | none => s.abort { h with code := 10 }
  | some e =>
    let base := bits e 128 64
    if base = 0 then s.abort h
    else
      let size := 2 ^ bits e 192 4
      let s := if h.code = 6 && !h.waits then s.cowMet h.asid h.va else s
      -- a counter in a line with an uncorrectable error names any record (log 121)
      let n := s.recNat .host base 8
      let put := fun (s : State) (x : HeldFault) =>
        { s with xlt := { s.xlt with held := s.xlt.held.map fun (y : HeldFault) => if y.tag = h.tag then x else y } }
      if (n + 2 ^ 64 - bits e 256 64) % 2 ^ 64 = size then
        put (if h.waits then s else s.count 0x2098) { h with waits := true, tryAt := s.ftime }
      else
        let s := s.tierWrite .host (base + 64 + 64 * (n % size)) (leBytes h.record 64)
        put ((s.objBump (some .host) base 1 0).count 0x2080) { h with delivered := true, waits := false }

/-- The fault of a tag. -/
def State.fault (s : State) (tag : Nat) : Option HeldFault := s.xlt.held.find? fun h => h.tag == tag

def execFaultDelivery (tag : Nat) (s : State) : Out :=
  .next <|
  match s.fault tag with
  | some h => if h.delivered || h.waits || s.fillable h then s else s.deliverFault h
  | none => s
def execFaultDeliveryRetry (tag : Nat) (s : State) : Out :=
  .next <|
  match s.fault tag with
  | some h => if h.waits && !h.delivered then s.deliverFault h else s
  | none => s

/-- Whether a held fault is dealt with at once: its engine aborts with AS or for want of a ring, its access may be made behind
another that has ended, or 10 µs have passed since the last attempt to deliver it (R110, R122). -/
def State.faultDue (s : State) (h : HeldFault) : Bool :=
  !h.delivered &&
    if h.queued then !s.engHeld h.engine h.core
    else if s.fillable h then false
    else if h.code = 10 ∨ (s.ast h.asid).all fun e => bits e 128 64 == 0 then true
    else h.waits && h.tryAt + 10000 ≤ s.ftime

/-- XLT_RESUME (R123). -/
def State.resume (s : State) (tag : Nat) (abort : Bool) : State :=
  match s.fault tag with
  | none => s.count 0x2090
  | some h => if abort then s.abort h else s.retry h

def execXltResumeRetry (tag : Nat) (s : State) : Out := .next (if s.served then s.resume tag false else s)
def execXltResumeAbort (tag : Nat) (s : State) : Out := .next (if s.served then s.resume tag true else s)

/-- A copy-on-write fill: every fault on the page restarts after it, but for those the ring has been given, which the service
resolves (R115, R116, R123). -/
def execCowFill (tag : Nat) (s : State) : Out :=
  .next <|
  match s.fault tag with
  | none => s
  | some h =>
    if h.code ≠ 6 || h.delivered then s
    else
      match s.walk h.asid h.va with
      | .error _ => s
      | .ok l =>
        let same := fun (s : State) =>
          s.xlt.held.filter fun x => x.code == 6 && !x.delivered && x.asid == h.asid && l.va ≤ x.va && x.va < l.va + l.size
        let restart := fun (s : State) => (same s).foldl (fun s x => s.retry x) s
        if !l.pte.getLsbD 5 then restart s
        else
          match s.cowFill h.asid h.va with
          | some s => restart s
          | none => s

/-! ### Invalidation (R120) -/

/-- Whether an invalidation names an entry. -/
def Inval.names (i : Inval) (e : TlbEntry) : Bool :=
  (i.global || !e.global) && (i.all || e.asid == i.asid || e.global)
    && (!i.range || (e.va < i.base + i.pages * 65536 && i.base < e.va + e.size))

/-- The invalidation that words of the layout of XLT_INV and XLT_INV_VA name. -/
def invalOf (w v : Nat) : Inval :=
  ⟨bits w 0 16, bit1 w 16, bit1 w 17, bit1 w 18, bits v 16 39 * 65536, bits v 0 16 + 1⟩

/-- Start an invalidation, behind those that run (R120, R410). -/
def State.startInval (s : State) (i : Inval) : State :=
  ({ s with xlt := { s.xlt with inval := s.xlt.inval ++ [i] } } : State).setRegF 0x0710 63 1 1

/-- A write of XLT_INV: ignored while GO reads 1. -/
def State.writeXltInv (s : State) (v : Nat) : State :=
  if s.regF 0x0710 63 1 = 1 then s
  else
    let s := s.setReg 0x0710 (bits v 0 19)
    if bit1 v 63 then s.startInval (invalOf v (s.reg 0x0718)) else s

def execXltInvGo (v : Word) (s : State) : Out := .next (if s.served then s.writeXltInv v.toNat else s)

/-- The oldest invalidation completes: no entry it names remains, and GO reads 0 after the last. One of all address spaces
ends undefined translations (R109). -/
def execInvalidationComplete (s : State) : Out :=
  .next <|
  match s.xlt.inval with
  | [] => s
  | i :: rest =>
    let keep := fun e => !i.names e
    let loose := if i.all && !i.range then none else s.xlt.loose
    let s : State := { s with xlt := { s.xlt with inval := rest, tlb := s.xlt.tlb.filter keep, loose := loose } }
    if rest.isEmpty then s.setRegF 0x0710 63 1 0 else s

end Sys2Proof.Machine
end

