-- ==== Sys2Proof/Machine/Host.lean ====
section
/-! DEFINITION. The host port (R83, R84), the device registers (R6, R7 and each register's own rule), and the host commands
for features, keys, attestation and flash (R85 to R89, R99 to R102, R106). -/

namespace Sys2Proof.Machine

/-! ### CXL.mem (R84) -/

/-- Whether tier 1 is exposed (R84). -/
def State.exposedT1 (s : State) : Bool := s.hostUp && s.feat 22

/-- Whether an address lies in the dump region. -/
def State.inDump (s : State) (a : Nat) : Bool := s.dumpBase ≤ a && a < s.dumpBase + s.dumpSize
/-- Whether an address lies in the relay, join-table or episode-store region. -/
def State.inCarved (s : State) (a : Nat) : Bool := s.storeBase ≤ a && a < 0x18000000000

/-- The key of a CXL.mem access: key slot 0 for the dump region, else the slot HOST_MEM names. -/
def State.hostKey (s : State) (a : Nat) : Option KeyTag :=
  if s.inDump a then some .reeve else s.slotKey (s.regF 0x0600 0 14)

/-- A host read of a line; `hostRd` holds what it returns. -/
def execHostMemRead (line : Nat) (s : State) : Out :=
  .next <|
  let a := 64 * line
  if !s.exposedT1 || !inTier1 a then s
  else if s.inCarved a then { s.count 0x2040 with hostRd := some (0, true) }
  else
    match s.hostKey a with
    | none => { s.count 0x2040 with hostRd := some (0, true) }
    | some k =>
      let bad := s.tierPoison a 64
      { (if bad then s.countUe a else s) with
        hostRd := some (BitVec.ofNat 512 (leNat (s.tierRead k a 64)), bad) }

/-- A host write of the enabled bytes of a line. -/
def execHostMemWrite (line : Nat) (data : BitVec 512) (be : BitVec 64) (s : State) : Out :=
  .next <|
  let a := 64 * line
  if !s.exposedT1 || !inTier1 a then s
  else if s.inDump a then s
  else if s.inCarved a then s.count 0x2040
  else
    match s.hostKey a with
    | none => s.count 0x2040
    | some k =>
      let s' := (List.range 64).foldl (fun s i =>
        if be.getLsbD i then s.tierPut k (a + i) (data.extractLsb' (8 * i) 8) else s) s
      let whole := fun w => (List.range 8).all fun j => be.getLsbD (8 * (w % 8) + j)
      { s' with poison := s'.poison.filter fun w => !(w / 8 == line && whole w) }

/-! ### Commands (R86) -/

/-- Reserved bits of the arguments of a command: the bits it does not define (R86). An argument word that a command does not
use is ignored (log 103). -/
def argBad (op : Nat) (a : Nat → Nat) : Bool :=
  match op with
  | 2 => bits (a 1) 16 48 != 0
  | 3 => bits (a 0) 16 48 != 0
  | 4 => bits (a 0) 3 61 != 0
  | 10 => bits (a 0) 1 63 != 0
  | _ => false

/-- Whether a command is allowed now (R86). -/
def State.cmdAllowed (s : State) (op : Nat) : Bool :=
  let stopped := !bit1 (s.reg 0) 16
  let negotiated := s.feat 0
  if s.fatal.isSome then op == 9 || op == 10
  else if stopped then op == 10
  else if op = 1 then !negotiated
  else if op ≤ 7 then negotiated
  else true

/-- A write of HCMD (R85): the block is read, and a command that cannot run is written back at once. -/
def State.writeHcmd (s : State) (v : Nat) : State :=
  let s := if bit1 v 1 then s.setRegF 0x0200 1 1 0 else s
  if s.regF 0x0200 0 1 = 1 then s.setRegF 0x0200 1 1 1
  else if bits (s.reg 0) 8 8 = 1 then s
  else
    let a := bits v 6 46 * 64
    let s := (s.setRegF 0x0200 6 46 (a / 64)).setRegF 0x0200 0 1 1
    let b := BitVec.ofNat 512 (s.hostNat a 64)
    let op := bits b.toNat 0 8
    let s := { s with hcmd := some (a, b) }
    if op = 0 ∨ 11 < op ∨ bits b.toNat 16 16 ≠ 0 ∨ bits b.toNat 256 256 ≠ 0 ∨ argBad op (cmdArg b) = true then
      s.writeBack csOp 0
    else if !s.cmdAllowed op then s.writeBack csState 0
    else s

/-- Features a feature needs: one of each list (R89). -/
def featNeeds (b : Nat) : List Nat :=
  if b ∈ [4, 5, 6, 7] then [2, 3] else if b = 10 then [9] else if b = 13 then [1] else []

/-- NEGOTIATE (R88). -/
def execNegotiate (s : State) : Out :=
  .next <| s.command 1 fun s _ =>
    let sel := s.reg 0x0110
    let ok := sel &&& s.reg 0x0100 == sel && bit1 sel 0 &&
      (List.range 24).all fun b => !bit1 sel b || (featNeeds b).isEmpty || (featNeeds b).any fun n => bit1 sel n
    if ok then (s.setReg 0x0120 sel, csOk, bits sel 0 32) else (s, csFeature, 0)

/-! ### Keys (R99 to R101, R409) -/

/-- KEY_GENERATE (R100). -/
def execKeyGenerate (s : State) : Out :=
  .next <| s.command 4 fun s arg =>
    if !s.feat 9 then (s, csFeature, 0)
    else if arg 0 ≠ 0 && !s.feat 10 then (s, csFeature, 0)
    else if arg 1 % 32 ≠ 0 then (s, csAddress, 0)
    else
      let drawn := shake256 (Config.trng (s.key 1) 76) 76
      (s.hostWrite (arg 1) (blobOf (drawn.take 64) (drawn.drop 64) (arg 0)), csOk, 0)

/-- KEY_IMPORT (R100); its blob goes to a 32-byte aligned address (log 103). -/
def execKeyImport (s : State) : Out :=
  .next <| s.command 5 fun s arg =>
    if !s.feat 9 then (s, csFeature, 0)
    else if arg 0 % 8 ≠ 0 || arg 1 % 32 ≠ 0 then (s, csAddress, 0)
    else
      let env := s.hostRead (arg 0) 152
      let dom := ((env[68]?).getD 0).toNat
      if dom > 7 || (env.drop 69).take 3 != [0, 0, 0] then (s, csOp, 0)
      else
        match openEnvelope env with
        | none => (s, csKeyAuth, 0)
        | some key => (s.hostWrite (arg 1) (blobOf key (shake256 (Config.trng (s.key 2) 12) 12) dom), csOk, 0)

/-- Put a key into a slot, or empty it: what KEYOP does (R409). -/
def State.setSlot (s : State) (slot : Nat) (k : Option (BitVec 512 × Nat)) : State :=
  let rest := s.keys.filter fun x => x.slot != slot
  match k with
  | some (m, d) => { s with keys := rest ++ [⟨slot, .mat m, d, .loaded⟩] }
  | none => { s with keys := rest }

/-- The key of a list of bytes. -/
def keyBits (l : List Byte) : BitVec 512 := BitVec.ofNat 512 (leNat l)

/-- KEY_LOAD (R101); its blob lies at a 32-byte aligned address (log 103). -/
def execKeyLoad (s : State) : Out :=
  .next <| s.command 6 fun s arg =>
    let slot := arg 0
    if !s.feat 9 then (s, csFeature, 0)
    else if slot < 2 || 16384 ≤ slot then (s, csSlot, 0)
    else if arg 1 % 32 ≠ 0 then (s, csAddress, 0)
    else
      let blob := s.hostRead (arg 1) 96
      let dom := ((blob[12]?).getD 0).toNat
      match openBlob blob with
      | none => (s, csKeyAuth, 0)
      | some key =>
        if dom > 7 || (blob.drop 13).take 3 != [0, 0, 0] then (s, csOp, 0)
        else if dom ≠ 0 && !s.feat 10 then (s, csFeature, 0)
        else if dom ≠ 0 && dom ≠ s.domain then (s, csDomain, 0)
        else if s.keys.any fun k => k.slot == slot then (s, csBusy, 0)
        else (s.setSlot slot (some (keyBits key, dom)), csOk, 0)

/-- KEY_DESTROY (R101): the slot is marked; the write-back waits for its zeroising. -/
def execKeyDestroy (s : State) : Out :=
  .next <|
  match s.hcmd with
  | some (_, b) =>
    if bits b.toNat 0 8 ≠ 7 then s
    else
      let slot := cmdArg b 0
      if !s.feat 9 then s.writeBack csFeature 0
      else if slot < 2 || 16384 ≤ slot then s.writeBack csSlot 0
      else if s.keys.any fun k => k.slot == slot then
        { s with keys := s.keys.map fun (k : KeySlot) => if k.slot = slot then { k with st := .destroying } else k }
      else s.writeBack csOk 0
  | none => s

/-- Every access of this model performs within its own step, so a destroying slot can be zeroised at any later step
(R101). -/
def execKeySlotZeroise (slot : Nat) (s : State) : Out :=
  .next <|
  match s.keys.find? fun k => k.slot == slot && k.st == .destroying with
  | none => s
  | some _ =>
    let s := s.setSlot slot none
    match s.hcmd with
    | some (_, b) => if bits b.toNat 0 8 = 7 ∧ cmdArg b 0 = slot then s.writeBack csOk 0 else s
    | none => s

/-! ### Attestation, dump, flash, thermal flag (R22, R102, R104, R106) -/

/-- The configuration record in force as bytes. -/
def recBytes (r : Nat) : List Byte := leBytes r 4096

/-- ATTEST (R102). -/
def execAttest (s : State) : Out :=
  .next <| s.command 8 fun s arg =>
    let on := if s.feat 0 then s.feat 21 else bit1 (s.reg 0x0100) 21
    if !on then (s, csFeature, 0)
    else if arg 0 % 64 ≠ 0 || arg 1 % 64 ≠ 0 then (s, csAddress, 0)
    else
      let body := leBytes 0x54584152 4 ++ leBytes 1 2 ++ leBytes 0 2 ++ leBytes (s.cfgF 64 64) 8 ++ leBytes (s.cfgF 128 64) 8
        ++ shake256 s.fw 64 ++ shake256 (recBytes s.cfg) 64
        ++ leBytes (s.reg 0x0120) 16 ++ leBytes s.domain 8 ++ leBytes s.ftime 8 ++ s.hostRead (arg 0) 64
        ++ fitBytes s.flash.idKey 57 ++ agreePub ++ List.replicate 37 0
      (s.hostWrite (arg 1) (body ++ ed448Sign identitySeed body), csOk, 0)

def execDumpClear (s : State) : Out := .next <| s.command 9 fun s _ => (s.setReg 0x0500 0, csOk, 0)

/-- Whether a configuration record's fields pass R29 for a module of this serial number. -/
def recFieldsOk (serial r : Nat) : Bool :=
  let dumpB := bits r 448 64
  let dumpN := bits r 512 32 * 65536
  let total := (bits r 544 32 + bits r 576 32 + bits r 608 32) * 65536
  bits r 0 32 == 0x53464743 && bits r 32 16 == 1 && bits r 48 16 == 0 && bits r 64 64 == serial
    && bits r 216 104 == 0 && (List.range 24).all (fun p => bits r (320 + 2 * p) 2 != 3) && 1200 ≤ bits r 368 16 && bits r 368 16 ≤ 2600
    && bits r 387 61 == 0 && dumpB % 65536 == 0 && 64 ≤ bits r 512 32 && 512 ≤ bits r 544 32 && 1024 ≤ bits r 576 32
    && bits r 640 31216 == 0 && total + dumpN ≤ 2 ^ 38 && dumpB + dumpN ≤ 0x18000000000 - total

/-- FLASH_WRITE (R106). DESIGN CHOICE, log 124: a record is verified under the configuration keys of the signed image in flash, with
which it will be brought up, and not of the running one. -/
def execFlashWrite (s : State) : Out :=
  .next <| s.command 10 fun s arg =>
    let n := arg 2
    if arg 0 = 1 then
      if n ≠ 4096 then (s, csOp, 0)
      else
        let rec_ := s.hostRead (arg 1) 4096
        if firmwareOk s.flash.image && recordOk s.flash.image rec_ && recFieldsOk s.flash.serial (leNat rec_) then
          ({ s with flash := { s.flash with record := leNat rec_ } }, csOk, 0)
        else (s, csSignature, 0)
    else if n > 2 ^ 26 then (s, csOp, 0)
    else
      let img := s.hostRead (arg 1) n
      if firmwareOk img then ({ s with flash := { s.flash with image := img } }, csOk, 0) else (s, csSignature, 0)

/-- THERMAL_ACK: the flag in flash; BOOT_STATUS.ERROR keeps 0x08 until the next reset (R86). -/
def execThermalAck (s : State) : Out :=
  .next <| s.command 11 fun s _ =>
    ({ s with flash := { s.flash with thermal := false } }, csOk, 0)

/-! ### Counters and the job (R32, R58, R59, R60) -/

/-- Whether an offset is a counter of the form of R58. -/
def isCounter (off : Nat) : Bool :=
  off % 8 == 0 && ((0x1100 ≤ off && off ≤ 0x1150) || (0x1300 ≤ off && off ≤ 0x1340) || (0x1500 ≤ off && off ≤ 0x1588)
    || (0x2000 ≤ off && off ≤ 0x2060) || (0x2080 ≤ off && off ≤ 0x2098) || (0x2100 ≤ off && off ≤ 0x2130))

def execCounterClear (off : Nat) (s : State) : Out := .next (if s.served && isCounter off then s.setReg off 0 else s)

/-- A write of FAB_CTL writes JOB: a new fabric job (R32, R59, R60). TIME_SYNC is read-only; the time master's own offset is
zero, and with it TIME_SYNC is set, from which the rotor waits 10 ms after a loss (R40). -/
def State.writeFabCtl (s : State) (v : Nat) : State :=
  let master := bit1 v 15
  let wait := if master && s.regF 0x1000 31 1 == 0 then s.fab.resumeAt.map fun _ => s.ftime + 10000000 else s.fab.resumeAt
  let s := s.setReg 0x1000 (putBits v 31 1 (if master then 1 else s.regF 0x1000 31 1))
  { s with fab := { s.fab with reqCtr := 1, cache := [], hwm := [], early := [], out := s.fab.out.filter fun r => r.pkt.cls != 5
                               resumeAt := wait, slew := if master then 0 else s.fab.slew }
           slu := { s.slu with msgCtr := 1, ticketCtr := 1, sends := [], reqs := [], closed := [] } }

def execFabJobWrite (v : Word) (s : State) : Out := .next (if s.served then s.writeFabCtl v.toNat else s)

/-! ### Register writes (R6, R7) -/

/-- A write whose fields must lie in their ranges: else the register keeps its old value. -/
def State.writeIf (s : State) (off v : Nat) (ok : Bool) : State := if ok then s.setReg off v else s

/-- A write of RJ_CTL (R179). -/
def State.writeRjCtl (s : State) (v : Nat) : State :=
  let old := s.reg 0x1400
  let lg := if bit1 old 0 then bits old 5 5 else bits v 5 5
  if 12 ≤ lg ∧ lg ≤ 24 then
    let en := bit1 v 0 && (bit1 old 0 || s.feat 8)
    s.setReg 0x1400 (en.toNat + lg * 32)
  else s

/-- A write of a learner-queue register (R177, R180). -/
def State.writeLq (s : State) (q o v : Nat) : State :=
  let r := lqReg q
  let on := s.regF r 0 1 == 1
  match o with
  | 0 =>
    if 2 ^ 31 - 1 < bits v 32 32 then s
    else
      let asid := if on then s.regF r 16 16 else bits v 16 16
      let s := s.setReg r (bits v 0 2 + s.regF r 2 1 * 4 + asid * 2 ^ 16 + bits v 32 32 * 2 ^ 32)
      if bit1 v 2 then s.mapLq q fun l => { l with flush := true } else s
  | 8 => s.writeIf (r + 8) (bits v 0 64) (bits v 32 32 != 0)
  | 0x10 => s.setReg (r + 0x10) (bits v 0 32)
  | 0x18 => s.writeIf (r + 0x18) (bits v 0 55) (!on && bits v 0 55 % s.slotBytes == 0)
  | 0x20 => s.writeIf (r + 0x20) (bits v 0 17) (!on && bits v 0 17 ≤ 65536)
  | 0x28 => if bit1 v 51 then s.mapLq q fun l => { l with error := false } else s
  | _ => s

/-- Mark the contexts that an open segment or window may serve, before and after its register at an offset changes. -/
def State.reopen (s : State) (off v lo : Nat) (serves : Ctx → Bool) (mark : Ctx → Ctx) : State :=
  let old := s.reg off
  if old = v then s
  else
    (s.tasks.filter fun c => serves c && (c.launch.asid == bits old lo 16 || c.launch.asid == bits v lo 16)).foldl
      (fun s c => s.mapCtx c.id mark) (s.setReg off v)

/-- A write of a multicast window (R197): one that enables a range beyond a targeted share, or names a slot the core
does not have, is ignored. What lands through a window that changes is undefined: peer stores on their way, and what the culvert work
of then writes. -/
def State.writeMcw (s : State) (off v : Nat) : State :=
  let p := (off - 0x3000) / 0x40
  let last := (bits v 0 10 + bits v 10 10 + 1) * 4096
  let bad := bit1 v 48 && (List.range 4).any fun i =>
    bit1 v (20 + i) && (s.shareOf p < last || s.slotsOf p ≤ bits v (24 + 2 * i) 2)
  if bad then s
  else
    let w := (off - 0x3000) % 0x40 / 8
    let hit := fun (x : PeerStore) => if polOf x.src.core = p ∧ x.mc.any (fun m => m.1 == w) = true then { x with loose := true } else x
    let s := if s.reg off = bits v 0 49 then s else { s with peers := s.peers.map hit }
    s.reopen off (bits v 0 49) 32 (fun c => polOf c.id.core == p && c.culvertWork) fun c =>
      { c with mcLoose := c.mcLoose ||| (1#8 <<< w) }

/-- A write of BZ_ASID (R381). -/
def State.writeBzAsid (s : State) (off v : Nat) : State :=
  s.reopen off v 0 Ctx.culvertWork fun c => { c with bzLoose := c.bzLoose ||| (1#24 <<< ((off - 0x3600) / 8)) }

/-- A change of XLT_AST or XLT_FABRIC while an instance is in flight or a sluice request pending leaves translations undefined
in the address spaces it names, all for none named (R109). -/
def State.loosen (s : State) (change : Bool) (asids : List Nat) : State :=
  if !change || (s.insts.isEmpty && s.slu.reqs.isEmpty) then s
  else
    let all := match s.xlt.loose with
      | none => asids
      | some l => if l.isEmpty || asids.isEmpty then [] else l ++ asids
    { s with xlt := { s.xlt with loose := some all } }

/-- A write of HOST_MEM (R84). -/
def State.writeHostMem (s : State) (v : Nat) : State :=
  let size := bits v 24 7
  let base := bits v 40 11
  s.writeIf 0x0600 (bits v 0 14 + size * 2 ^ 24 + base * 2 ^ 40) (size ≤ 64 && base + size ≤ 1536)

/-- A register write by offset. The registers with steps of their own behave as those steps; RESET_CTL is `reset`. -/
def State.writeReg (s : State) (off : Nat) (w : Word) (reset : State → Bool → State) : State :=
  let v := w.toNat
  if off = 0x0010 then
    if bits v 0 16 = 0x5752 ∧ bits v 16 2 = 1 then reset s false
    else if bits v 0 16 = 0x5752 ∧ bits v 16 2 = 2 then reset s true
    else s
  else if off = 0x0200 then s.writeHcmd v
  else if !bit1 (s.reg 0) 16 then s
  else if isCounter off then s.setReg off 0
  else if 0x1800 ≤ off ∧ off < 0x1C00 then s.writeLq ((off - 0x1800) / 0x40) (off % 0x40) v
  else if 0x3000 ≤ off ∧ off < 0x3600 ∧ off % 8 = 0 then s.writeMcw off v
  else if 0x3600 ≤ off ∧ off < 0x36C0 ∧ off % 8 = 0 then s.writeBzAsid off (bits v 0 17)
  else
    match off with
    | 0x0110 => s.setRegF 0x0110 0 64 v
    | 0x0118 => s.setRegF 0x0110 64 64 v
    | 0x0300 => s.writeSubmit w
    | 0x0308 => s.setReg off (bits v 11 41 * 2 ^ 11)
    | 0x0400 => s.setReg off (s.reg off &&& (0xFF - bits v 0 7))
    | 0x0408 => s.setReg off (bits v 0 8)
    | 0x0600 => s.writeHostMem v
    | 0x0700 => (s.loosen (bits v 0 52 != s.reg off) []).setReg off (bits v 0 52)
    | 0x0708 =>
      (s.loosen (bits v 0 17 != s.reg off) [s.regF off 0 16, bits v 0 16]).setReg off (bits v 0 17)
    | 0x0710 => s.writeXltInv v
    | 0x0718 => s.writeIf off (bits v 0 55) (s.regF 0x0710 63 1 == 0)
    | 0x0720 => s.resume (bits v 0 16) (bit1 v 16)
    | 0x0800 => s.setReg off (bits v 14 38 * 2 ^ 14)
    | 0x0808 => s.writeIf off (bits v 0 17) (bits v 0 17 ≤ 65536)
    | 0x0810 => s.writeIf off (bits v 0 16) (256 ≤ bits v 0 16)
    | 0x1000 => s.writeFabCtl v
    | 0x1008 => s.writeIf off (bits v 0 52) (bits v 0 6 == 0)
    | 0x1010 => s.writeIf off (bits v 0 36) (1000 ≤ bits v 0 32 && bits v 0 32 ≤ 4000000)
    | 0x1200 =>
      s.writeIf off (bits v 0 7 + bits v 8 5 * 2 ^ 8 + bits v 16 10 * 2 ^ 16 + bits v 26 3 * 2 ^ 26 + bits v 32 1 * 2 ^ 32)
        (bits v 0 7 ≤ 64 && 1 ≤ bits v 8 5 && bits v 8 5 ≤ 16 && 1 ≤ bits v 16 10 && bits v 16 10 ≤ 512)
    | 0x1208 =>
      s.writeIf off v (1000 ≤ bits v 0 32 && bits v 0 32 ≤ 1000000 && 1000 ≤ bits v 32 32 && bits v 32 32 ≤ 4000000)
    | 0x1210 => s.writeIf off v (100 ≤ bits v 0 32 && bits v 0 32 ≤ 1000000 && 10 ≤ bits v 32 32 && bits v 32 32 ≤ 250000)
    | 0x1400 => s.writeRjCtl v
    | 0x1408 => s.writeIf off v (1000 ≤ bits v 0 32 && 1000 ≤ bits v 32 32)
    | 0x1410 => s.setReg off (bits v 0 32)
    | 0x1418 => s.setReg off v
    | 0x1420 => s.setReg off v
    | 0x1428 =>
      match execHostRewardPost w s with
      | .next s => s
      | _ => s
    | 0x2070 => s.writeIf off (bits v 0 32) (bits v 0 32 != 0)
    | _ => s

/-! ### Register values as they read (R7) -/

/-- A register as it reads: write-only registers read zero, and the status registers are views (R62, R179, R180). -/
def State.regRead (s : State) (off : Nat) : Nat :=
  match off with
  | 0x0010 | 0x0720 | 0x1418 | 0x1420 | 0x1428 => 0
  | 0x0100 | 0x0110 | 0x0120 => s.regF off 0 64
  | 0x0108 | 0x0118 | 0x0128 => s.regF (off - 8) 64 64
  | 0x1218 => min s.slu.reqs.length 4096 + min s.inUse (2 ^ 26 - 1) * 2 ^ 16 + min s.slu.sends.length 2048 * 2 ^ 42
  | 0x1220 => s.slu.ticketCtr
  | 0x1430 =>
    let used := (s.join.filter fun e => e.slot.isSome).length
    s.join.length + s.orphans.length * 2 ^ 21 + (s.epSlots - used) * 2 ^ 38
  | _ =>
    if 0x1800 ≤ off ∧ off < 0x1C00 then
      let q := (off - 0x1800) / 0x40
      let l := s.lq q
      if off % 0x40 = 0 then s.reg off + l.flush.toNat * 4
      else if off % 0x40 = 0x28 then
        let waiting := (s.join.filter fun e => e.tag == q && e.st == .complete).length
        l.ready.length + l.out.length * 2 ^ 17 + min waiting 65535 * 2 ^ 34 + l.error.toNat * 2 ^ 51
      else s.reg off
    else s.reg off

/-- BOOT_STATUS as the host port's configuration space reports it, from stage 2 onward (R26). -/
def State.bootStatusCfg (s : State) : Option Nat := if s.hostUp then some (s.regRead 0) else none

end Sys2Proof.Machine
end

