-- ==== Sys2Proof/Machine/Reset.lean ====
section
/-! DEFINITION. Resets and bring-up (R23 to R29), clocks, temperature and memory health (R14, R18, R21, R22, R103), fatal
errors with their dump (R104, R105), and register writes by offset. -/

namespace Sys2Proof.Machine

/-! ### Bring-up (R24 to R29) -/

/-- What outlives a reset: memory with its poison and keys, flash, what the outside world has sent or received, and the
model's own counter. A warm reset keeps a held dump. -/
def State.afterReset (s : State) (cold : Bool) : State :=
  { State.reset with
    mem := s.mem, undef := s.undef, poison := s.poison, lineKeys := s.lineKeys, inputs := s.inputs, tx := s.tx, txBeacons := s.txBeacons
    irq := s.irq, hostRd := s.hostRd, flash := s.flash, freeCtr := s.freeCtr
    regs := if cold then [] else NatMap.put [] 0x0500 (s.reg 0x0500) 0 }

/-- Set a field of BOOT_STATUS (R26). -/
def State.boot (s : State) (lo n v : Nat) : State := s.setRegF 0 lo n v
/-- A stage that fails and stops bring-up. -/
def State.bootStop (s : State) (stage err : Nat) : State := (s.boot 0 4 stage).boot 8 8 err

/-- Initialise tier 1 or tier 2: all-zero bits under no key slot (R24). -/
def State.initTier (s : State) (inTier : Nat → Bool) : State :=
  { s with mem := s.mem.filter fun c => !inTier c.1, undef := s.undef.filter fun r => !inTier r.1, poison := s.poison.filter fun w => !inTier (8 * w)
           lineKeys := s.lineKeys.filter fun l => !inTier (64 * l.1) }

/-- Feature bits the device offers (R88, R89): FEATURES restricted to what bring-up found working. -/
def offered (cfg : Nat) (tier2 : Bool) (engines : BitVec 12) : Nat :=
  let f := bits cfg 192 24
  let off := fun f b keep => if keep then f else putBits f b 1 0
  let f := off f 1 tier2
  let f := off f 2 (bits engines.toNat 0 6 != 0)
  let f := off f 3 (bits engines.toNat 6 6 != 0)
  let f := off f 8 (bits cfg 608 32 != 0)
  off f 20 ((List.range 24).any fun p => bits cfg (320 + 2 * p) 2 != 0)

/-- Stages 5 to 8, after the record is accepted. Slots 0 and 1 take the keys of R99. A cold reset whose tier-2 links do not all
train leaves tier 2 as it was, in no one's sight, until a cold reset initialises it (log 101). -/
def State.bootRest (s : State) (b : BringUp) (cold : Bool) : State :=
  if !b.tier1Ok then s.bootStop 5 5
  else
    let s := if cold then s.initTier inTier1 else s
    let all := b.links == BitVec.allOnes 4
    let s := if all then ((s.boot 19 4 15).boot 23 1 1) else s.boot 8 8 6
    let s := if cold && all then s.initTier inTier2 else s
    let s := (s.boot 24 12 b.engines.toNat)
    let s := if b.engines == BitVec.allOnes 12 then s else s.boot 8 8 7
    let up := fun n => b.engines.getLsbD (n / 4)
    let pairs := (List.range 48).foldl (fun (m : BitVec 48) n => if up n then m ||| (1#48 <<< n) else m) 0#48
    let s := { s with
      fab := { s.fab with pairsUp := pairs, planesUp := pairs.extractLsb' 24 24 }
      keys := [⟨0, .reeve, 0, .loaded⟩, ⟨1, .host, 0, .loaded⟩] }
    (((s.setReg 0x0100 (offered s.cfg all b.engines)).boot 0 4 8).boot 16 1 1)

/-- Bring-up through the stages of R25. -/
def State.bringUp (s : State) (b : BringUp) (cold : Bool) : State :=
  let s := { s.afterReset cold with hostLink := b.hostUp }
  let s := if b.hostUp && b.hostX8 then s.boot 18 1 1 else s
  if !b.pufOk then s.bootStop 2 1
  else if !b.hostUp then s.boot 0 4 2
  else
    let s := { s with fw := s.flash.image }
    if !firmwareOk s.fw then s.bootStop 3 2
    else
      let s := if s.flash.thermal then s.boot 8 8 8 else s
      if !Machine.recordOk s.fw (recBytes s.flash.record) then s.bootStop 4 3
      else if !recFieldsOk s.flash.serial s.flash.record then s.bootStop 4 4
      else ({ s with cfg := s.flash.record }.boot 17 1 1).bootRest b cold

/-- Cold reset after power-on or a thermal trip (R24). -/
def execColdReset (b : BringUp) (s : State) : Out := .next (s.bringUp b true)
/-- A CXL reset of the host port's device function (R24). -/
def execCxlReset (b : BringUp) (s : State) : Out := .next (if s.hostUp then s.bringUp b false else s)
/-- A write of RESET_CTL (R27): served from stage 2 onward, but not in a thermal trip. -/
def execResetCtlWarm (b : BringUp) (s : State) : Out := .next (if s.hostUp then s.bringUp b false else s)
def execResetCtlCold (b : BringUp) (s : State) : Out := .next (if s.hostUp then s.bringUp b true else s)

/-! ### Clock and temperature (R21, R22) -/

/-- The polder clock in MHz: 650 while a die is hot (R22). -/
def State.effClock (s : State) : Nat := if s.hot then 650 else s.clock
/-- Whether FTIME goes on at the end of this polder cycle: the last of an I/O cycle of 1 ns (R22, R40). -/
def State.ioEnds (s : State) : Bool := s.effClock / 25 ≤ s.phase + 40

/-- A die reaches 105 °C. -/
def execThermalThrottle (_die : Nat) (s : State) : Out :=
  .next (if s.tripped || s.hot then s else { (s.count 0x2058).setCause 6 with hot := true })
/-- Every die is below 100 °C again. -/
def execThermalRecover (s : State) : Out := .next { s with hot := false }
/-- A die reaches 115 °C: all dies stop, THERMAL is written to flash, and the module stays in reset. -/
def execThermalTrip (s : State) : Out :=
  .next { s.afterReset true with flash := { s.flash with thermal := true }, tripped := true }

/-- One sample of module power (R21). While a die is hot the samples step the clock that holds after it (log 101). -/
def execPowerSample (watts : Nat) (s : State) : Out :=
  .next <|
  let limit := s.cfgF 368 16
  if s.tripped then s
  else if limit < watts then
    let s := { s with coolSince := none }
    if s.clock ≤ 650 then s else { s.count 0x2058 with clock := s.clock - 25 }
  else if watts * 100 < limit * 95 then
    match s.coolSince with
    | none => { s with coolSince := some s.ftime }
    | some t =>
      if t + 1000000 ≤ s.ftime then { s with coolSince := some s.ftime, clock := min (s.clock + 25) 1300 } else s
  else { s with coolSince := none }

/-! ### Memory health (R14, R18, R103) -/

/-- The counter of corrected errors of an address. -/
def ceCounter (a : Nat) : Nat := if inTier1 a then 0x2010 else if inTier2 a then 0x2020 else 0x2000

/-- The device finds an error in a line: a corrected one is counted, an uncorrectable one poisons the line. -/
def execScrub (line : Nat) (uncorrectable : Bool) (s : State) : Out :=
  .next <|
  let a := 64 * line
  if a < 2 ^ 52 && !s.paOk a then s
  else if uncorrectable then (s.poisonRange a 64).countUe a
  else s.count (ceCounter a)

/-- A tier-2 link goes down while the device runs (R18); it stays down until the next reset. -/
def execTier2LinkDown (link : Fin 4) (s : State) : Out :=
  .next (if s.regF 0 (19 + link.val) 1 = 1 then (s.boot (19 + link.val) 1 0).count 0x2030 else s)

/-! ### Fatal errors (R104, R105) -/

/-- Registers of the Host, fabric and sluice chapters, in offset order (R105). -/
def dumpRegs : List Nat :=
  [0x0100, 0x0108, 0x0110, 0x0118, 0x0120, 0x0128, 0x0200, 0x0300, 0x0308, 0x0400, 0x0408, 0x0500, 0x0600, 0x1000, 0x1008,
    0x1010]
    ++ (List.range 11).map (fun i => 0x1100 + 8 * i) ++ [0x1200, 0x1208, 0x1210, 0x1218, 0x1220]
    ++ (List.range 9).map (fun i => 0x1300 + 8 * i) ++ (List.range 13).map (fun i => 0x2000 + 8 * i) ++ [0x2070]

/-- A walker's 32 bytes (R136). -/
def State.walkerNum (s : State) (n : Nat) : Nat :=
  match s.walker n with
  | none => 0
  | some w =>
    w.record + w.cursor * 2 ^ 64 + w.last * 2 ^ 96 + w.emitted * 2 ^ 128 + w.retired * 2 ^ 160 + w.mask.toNat * 2 ^ 192
      + w.prio * 2 ^ 216 + 2 ^ 219 + w.ordered.toNat * 2 ^ 220 + w.inst * 2 ^ 232

/-- A run-queue entry (R142). -/
def entryNum (l : Nat) (e : RunEntry) : Nat :=
  match e.record with
  | some r => r + e.walker * 2 ^ 32 + l * 2 ^ 38 + 2 ^ 41
  | none => e.index + e.walker * 2 ^ 32 + l * 2 ^ 38
/-- A run queue in the dump's form (R142). -/
def runQueueBytes (p : PolderSt) : List Byte :=
  let level := fun l => p.runQ.filter fun e => e.1 == l
  packed 1 ((List.range 8).map fun l => (level l).length)
    ++ packed 8 ((List.range 8).flatMap fun i => (level (7 - i)).map fun e => entryNum e.1 e.2)

/-- A request-table entry in the dump's form (R105). -/
def slReqBytes (r : SlReq) : List Byte :=
  let st := match r.st with
    | .waiting => 0
    | .draining => 1
    | .paused => 2
  leBytes (r.src + r.msgid * 2 ^ 16 + st * 2 ^ 64 + r.prio * 2 ^ 72 + r.tokens.length * 2 ^ 80
    + rangeSize r.ungranted * 2 ^ 128 + r.ticket * 2 ^ 192) 32

/-- Put parts at their offsets into a block of n zero bytes. -/
def blockOf (n : Nat) (parts : List (Nat × List Byte)) : List Byte :=
  parts.foldl (fun b p => b.take p.1 ++ p.2 ++ b.drop (p.1 + p.2.length)) (List.replicate n 0)

/-- A context slot in the pre-emption layout, its sluice records and late-reply buffer included (R78, R105, R152). -/
def State.contextBytes (s : State) (c : Ctx) : List Byte :=
  let l := c.launch
  let mem := s.view s.mem
  let ring := if l.gang > 0 ∧ l.rank = 0 then
      [(8704 + 16384 * l.accs + l.dr, mem (areaBase (polOf c.id.core) l.gangArea) l.ringBytes)] else []
  let sends := s.slu.sends.filter fun e => e.owner = c.id && (e.st == .posted || e.st == .queued)
  blockOf l.recSize (s.recordParts c (c.lease != .none) []
    ++ [(0x0A00, packed 64 ((sends.take 8).map savedRecord)),
        (0x2000 + 16384 * l.accs, mem c.shareBase (4096 * l.sram + 8 * l.spill))] ++ ring)

/-- Sections 1 to 6 of the dump (R105), in TYPE order. -/
def State.dumpSections (s : State) : List (List Byte) :=
  [dumpRegs.flatMap fun o => leBytes o 8 ++ leBytes (s.regRead o) 8,
   packed 4 ((List.range 256).map fun n => s.lineLast.getD n 0)
     ++ s.graphs.flatMap fun g => leBytes g.handle 2 ++ leBytes (s.insts.filter fun i => i.handle == g.handle).length 2,
   packed 32 ((List.range 64).map s.walkerNum),
   (List.range 24).flatMap fun p => runQueueBytes (s.pol p),
   leBytes (s.regRead 0x1218) 8 ++ s.slu.reqs.flatMap slReqBytes,
   packed 8 [s.join.length, s.orphans.length] ++ packed 4 ((List.range 16).map fun q => (s.lq q).ready.length)
     ++ packed 8 ((List.range 18).map fun i => s.reg (0x1500 + 8 * i))]

/-- The next multiple of 64. -/
def up64 (n : Nat) : Nat := (n + 63) / 64 * 64

/-- Place sections one after another while they fit: the entries, the parts, the end of the last, and whether one was
left out. -/
def placeSections (room : Nat) : List (Nat × List Byte) → Nat → List Nat × List (Nat × List Byte) × Nat × Bool
  | [], end_ => ([], [], end_, false)
  | (t, b) :: rest, end_ =>
    let at_ := up64 end_
    if at_ + b.length + 114 ≤ room then
      let (es, ps, e, x) := placeSections room rest (at_ + b.length)
      ((t + at_ / 64 * 2 ^ 8 + b.length * 2 ^ 32) :: es, (at_, b) :: ps, e, x)
    else
      let (es, ps, e, _) := placeSections room rest end_
      (es, ps, e, true)

/-- The records that fit whole, and whether all did. -/
def takeWhole (room : Nat) : List (List Byte) → List Byte × Bool
  | [] => ([], true)
  | b :: bs => if b.length ≤ room then let (x, all) := takeWhole (room - b.length) bs; (b ++ x, all) else ([], false)

/-- The dump (R105): its bytes with the signature, and whether sections were omitted. -/
def State.dump (s : State) (code writer : Nat) : List Byte × Bool :=
  let room := s.dumpSize
  let first := (List.zipIdx s.dumpSections).map fun x => (x.2 + 1, x.1)
  let (_, _, e, _) := placeSections room first 256
  let slots := (List.range 24).flatMap s.slots
  let (cx, all) := takeWhole (room - 114 - up64 e) (slots.map fun i => s.contextBytes (s.ctx i))
  let (es, ps, e, cut) := placeSections room (first ++ [(7, cx)]) 256
  let cut := cut || !all
  let head := leBytes 0x58444D50 4 ++ leBytes 1 2 ++ [BitVec.ofNat 8 code, BitVec.ofNat 8 writer] ++ leBytes (s.cfgF 64 64) 8
    ++ leBytes (s.cfgF 128 64) 8 ++ leBytes s.ftime 8 ++ leBytes (e + 114) 8 ++ leBytes es.length 1 ++ leBytes cut.toNat 1
    ++ leBytes 0 6 ++ packed 8 es
  let body := blockOf e ((0, head) :: ps)
  (body ++ ed448Sign identitySeed body, cut)

/-- Every result in flight lands, and no handler runs. -/
def State.landAll (s : State) : State :=
  let far := (s.tasks.flatMap fun c => c.writes.map RegWrite.due ++ c.flags.map FlagLand.due).foldl max s.cycle
  let s1 := s.tasks.foldl (fun s c => s.landDue c.id) { s with cycle := far }
  let s1 := s1.peers.foldl (fun s p => s.pokeCells p.cells) s1
  { s1 with cycle := s.cycle, peers := [] }

/-- FATAL is set and vector 10 raised. -/
def State.setFatal (s : State) : State := if s.regF 0x0400 7 1 = 1 then s else (s.setCause 7).raiseIrq 10

/-- A fatal error (R104), with its code and the writing reeve. Whether the dump is finished within 2 s is the part's
choice (log 2); an unfinished one leaves VALID clear and FATAL to the deadline. -/
def State.fatalError (s : State) (code writer : Nat) : State :=
  if s.fatal.isSome || s.tripped || !bit1 (s.reg 0) 16 then s
  else
    let s := { s.landAll with fatal := some code, fatalAt := s.ftime }
    if s.regF 0x0500 0 1 = 1 then (s.count 0x2060).setFatal
    else
      let (d, cut) := s.dump code writer
      if s.choose 4 2 = 0 then
        ((s.tierWrite .reeve s.dumpBase d).setReg 0x0500
          (1 + cut.toNat * 2 + code * 2 ^ 8 + (d.length + 63) / 64 * 2 ^ 32)).setFatal
      else s.tierWrite .reeve s.dumpBase (d.take (s.choose 5 d.length))

def execFeWedged (s : State) : Out := .next (s.fatalError 1 0)
def execReeveHang (r : Fin 2) (s : State) : Out := .next (s.fatalError 2 (1 - r.val))
def execReeveTrap (r : Fin 2) (s : State) : Out := .next (s.fatalError 3 (1 - r.val))
/-- The writer is reeve 1 when reeve 0's memory holds the error (R104): which memory does is the part's (log 2). -/
def execStateUe (s : State) : Out := .next (s.fatalError 4 (s.choose 12 2))
def execDieLink (s : State) : Out := .next (s.fatalError 5 0)
/-- 2 s after a fatal error, step 4 takes place in any case (R104). -/
def execFatalDeadline (s : State) : Out :=
  .next (if s.fatal.isSome && s.fatalAt + 2000000000 ≤ s.ftime then s.setFatal else s)

/-! ### Register writes by offset -/

/-- How a reset that a register write starts goes: the part's own (log 2). -/
def State.someBringUp (s : State) : BringUp :=
  { pufOk := s.choose 6 2 == 0, hostUp := s.choose 7 2 == 0, hostX8 := s.choose 8 2 == 1, tier1Ok := s.choose 9 2 == 0
    links := s.free 10 4, engines := s.free 11 12 }

def execRegisterWrite (off : Nat) (v : Word) (s : State) : Out :=
  .next <| if !s.hostUp then s else s.writeReg off v fun s cold => s.bringUp s.someBringUp cold

end Sys2Proof.Machine
end

