-- ==== Sys2Proof/Machine/Fabric.lean ====
section
/-! DEFINITION. Packets of the scale-up fabric at their target and at their source (R46 to R54, R400 to R405), and links,
beacons and the rotor (R34 to R43). -/

namespace Sys2Proof.Machine

/-! ### Requests at the target (R48 to R50) -/

/-- A load of the packet's length (R48). -/
def State.targetLoad (s : State) (p : Packet) : State × Packet :=
  let n := p.data.length
  match s.targetXlate p.va .read with
  | (s, .error st) => (s, s.response p st 0 0 [])
  | (s, .ok ph) =>
    let st := s.targetOk p ph false true n
    if st ≠ 0 then (s.targetMet ph, s.response p st 0 0 [])
    else
      let (s, l, m) := s.physRead ph n
      (s, s.response p m.poison.toNat (BitVec.ofNat 64 (leNat ((l.map Prod.fst).take 8))) 0 [])

/-- A store of the packet's bytes, checked as a whole (R48). Data that a source read as poison stay poison (log 26); a poisoned
page discards the bytes and answers POISON (R114). A store into a completion object whose update may still happen leaves it undefined
(R249). -/
def State.targetStore (s : State) (p : Packet) : State × Packet :=
  match s.targetXlate p.va .write with
  | (s, .error st) => (s, s.response p st 0 0 [])
  | (s, .ok ph) =>
    let st := s.targetOk p ph false false p.data.length
    if st ≠ 0 then (s.targetMet ph, s.response p st 0 0 [])
    else
      let (s, m) := s.physWrite ph (p.data.map fun b => (b, p.status == 1))
      let s := match s.fabAsid with
        | some asid => s.clobberVirt tlbIo asid p.va p.data.length
        | none => s
      (s, s.response p m.poison.toNat 0 0 [])

/-- An atomic (R49). A word that holds an uncorrectable error stays as it is (log 26), and so does one on a poisoned page; both
answer POISON (R114). -/
def State.targetAtomic (s : State) (p : Packet) : State × Packet :=
  let n := if bit1 p.op 4 then 8 else 4
  match s.targetXlate p.va .write with
  | (s, .error st) => (s, s.response p st 0 0 [])
  | (s, .ok ph) =>
    let st := s.targetOk p ph true true n
    if st ≠ 0 then (s.targetMet ph, s.response p st 0 0 [])
    else if poisonedAt s.poison ph.pa n then (s.countUe ph.pa, s.response p 1 0 0 [])
    else if ph.pz then (s, s.response p 1 0 0 [])
    else
      let old := s.tierNat ph.key ph.pa n
      match atomicNew (p.op % 16) (8 * n) old p.opa.toNat p.opb.toNat with
      | none => (s, s.response p 9 0 0 [])
      | some (new, sat) =>
        let s := s.tierWrite ph.key ph.pa (leBytes new n)
        (s, s.response p 0 (BitVec.ofNat 64 old) (BitVec.ofNat 64 sat.toNat) [])

/-- An add to the counter of a completion object (R403). -/
def State.targetSignal (s : State) (p : Packet) : State × Packet :=
  match s.targetXlate p.va .write with
  | (s, .error st) => (s, s.response p st 0 0 [])
  | (s, .ok ph) =>
    let st := s.targetOk p ph false false 8
    let st := if st = 0 && p.va % 16 != 0 then 4 else st
    if st ≠ 0 then (s.targetMet ph, s.response p st 0 0 [])
    else if ph.pz then (s, s.response p 1 0 0 [])
    else
      let s := if poisonedAt s.poison ph.pa 8 then s.countUe ph.pa
        else s.tierWrite ph.key ph.pa (leBytes (s.tierNat ph.key ph.pa 8 + p.opa.toNat) 8)
      (s, s.response p 0 0 0 [])

/-- A read is repeated for a repeated request (R45). -/
def execReqRd (p : Packet) (s : State) : Out :=
  .next (s.onRequest p (p.cls == 0) fun s => let (s, r) := s.targetLoad p; s.send r)
def execReqWr (p : Packet) (s : State) : Out :=
  .next (s.onRequest p (p.cls == 1) fun s => s.once p fun s => s.targetStore p)
/-- DESIGN CHOICE, log 113: an atomic whose OP R49 reserves counts in FAB_MALFORMED and takes no entry of the reply cache. -/
def execReqAt (p : Packet) (s : State) : Out :=
  .next (s.onRequest p (p.cls == 2 && p.op % 16 < 11 && p.op < 32) fun s => s.once p fun s => s.targetAtomic p)
/-- A packet of a reserved class is counted and discarded (R46); `arrival` sends it here. -/
def execMsg (p : Packet) (s : State) : Out :=
  .next <|
  if p.cls = 4 then s.onRequest p true fun s => s.once p fun s => s.targetStore p
  else if !s.fabricOn then s
  else if !p.crcOk then s.count 0x1110
  else s.count 0x1138
def execSig (p : Packet) (s : State) : Out :=
  .next (s.onRequest p (p.cls == 9) fun s => s.once p fun s => s.targetSignal p)

/-! ### Responses at the source (R47, R52, R402, R408) -/

/-- The size code of an FLD travels in OP. -/
def szOf (n : Nat) : MemSz := (memSzOf n).getD .d64

/-- The status and data of an FLD of a saved context, in its record's late-reply buffer (R54, R210, log 24). -/
def State.lateSaved (s : State) (r idx status : Nat) (data : Word) : State :=
  match s.saves.find? fun v => v.num == r with
  | none => s
  | some v =>
    let a := s.saveBase r + 0x2000 + 16384 * v.launch.accs + v.launch.dr + 32 * idx
    let w := s.tierNat .reeve a 8
    (s.tierWrite .reeve a (leBytes (putBits (putBits w 16 8 status) 24 1 1) 8)).tierWrite .reeve (a + 8) (leBytes data.toNat 8)

/-- What a result register takes from a response (R402, R408). -/
def remoteValue (q : Packet) (status : Nat) (opa : Word) : Word :=
  if q.cls = 7 then (opa &&& 0xFF) ||| BitVec.ofNat 64 (status % 256 * 256)
  else if status = 0 then (if bit1 q.op 4 then opa else opa &&& 0xFFFFFFFF) else 0

/-- A request ends with a status (R51). -/
def State.complete (s : State) (r : Request) (status : Nat) (opa opb : Word) : State :=
  match r.owner with
  | .host => s
  | .coll i n => s.mapColl i n fun c => if c.seq = r.pkt.opa.toNat then { c with lost := true } else c
  | .late c seq =>
    let v := if status ≤ 1 then BitVec.ofInt 64 (memSzVal (szOf r.pkt.op) opa.toNat) else 0
    if 1000 ≤ c.core then s.lateSaved (c.core - 1000) seq status v
    else s.mapCtx c fun x => { x with late := x.late.map fun (e : Late) =>
      if e.seq = seq then { e with status := some status, data := v } else e }
  | .remote c seq =>
    match (s.ctx c).remote.find? fun e => e.seq == seq with
    | none => s
    | some e =>
      let v := remoteValue r.pkt status opa
      let f := fun (e : Remote) => if e.seq = seq then { e with status := some status, reg := e.reg.map fun d => (d.1, v) } else e
      s.mapCtx c fun x =>
        let x := { x with remote := x.remote.map f }
        if e.sat && status = 0 && opb.getLsbD 0 then (x.firstEvent (s.feat 19) s.cycle e.issued e.pc e.slot flagSat).stick e.slot flagSat else x

/-- Restart the time-out of a request. -/
def State.restart (s : State) (key more : Nat) : State :=
  let f := fun (r : Request) =>
    if r.key = key then { r with deadline := s.ftime + s.regF 0x1010 0 32, retries := r.retries + more } else r
  { s with fab := { s.fab with out := s.fab.out.map f } }

/-- A response: one that no request waits for is discarded; BUSY restarts the time-out (R47). -/
def execResp (p : Packet) (s : State) : Out :=
  .next <|
  if !s.fabricOn then s
  else if !p.crcOk then s.count 0x1110
  else if !s.pktOk p (p.cls == 3 && p.status ≤ 10) then s.count 0x1138
  else
    match s.fab.out.find? fun r => r.key == p.reqid && r.pkt.dst == p.src && r.pkt.cls != 8 with
    | none => s
    | some r =>
      if p.status = 10 then s.restart r.key 0
      else (s.endRetx r.key).complete r p.status p.opa p.opb

/-- A request's time-out: it is sent again, or given up with LOST (R47, R57, R67). -/
def execE2eTimeout (key : Nat) (s : State) : Out :=
  .next <|
  match s.fab.out.find? fun r => r.key == key && r.deadline ≤ s.ftime with
  | none => s
  | some r =>
    if r.retries < s.regF 0x1010 32 4 then
      let s := ((s.restart key 1).count 0x1118).send r.pkt
      if r.pkt.cls = 5 then s.mapSend (key / 4 - 2 ^ 62) fun e => { e with lastSent := s.ftime } else s
    else
      let s := (s.endRetx key).count 0x1120
      if r.pkt.cls = 5 then s.sluiceGiveUp (key / 4 - 2 ^ 62) (key % 4) else s.complete r 11 0 0

/-! ### The bound of an FLD (R52, R54) -/

/-- Land an FLD's datum: all of an s register, the low 64 bits of a v register (R400). -/
def State.landFld (s : State) (c : Ctx) (vec : Bool) (reg : Nat) (x : Word) (pois : Bool) : Ctx :=
  if vec then
    let old := (c.v[reg]?).getD 0
    s.landDest c (.v reg ((old >>> 64 <<< 64) ||| x.setWidth 1024) pois)
  else if reg = 0 then c
  else s.landDest c (.s reg x pois)

/-- One late-reply entry at its bound: an OK response lands and frees the entry; else the register is poisoned and the
entry stays (R52). -/
def State.atBound (s : State) (c : Ctx) (e : Late) : Ctx :=
  if e.status = some 0 then
    s.landFld { c with late := c.late.filter fun x => x.seq != e.seq } e.vec e.reg e.data false
  else
    let c := { c with late := c.late.map fun (x : Late) => if x.seq = e.seq then { x with bound := none, late := true } else x }
    if e.vec then { c with vpois := c.vpois ||| (1#32 <<< e.reg) }
    else if e.reg = 0 then c
    else { c with spois := c.spois ||| (1#32 <<< e.reg) }

/-- The FLDs of a context whose bounds have passed. -/
def Ctx.bounds (c : Ctx) : List Late := c.late.filter fun e => e.bound.any fun b => b ≤ c.bundles

def execFldBound (c : CtxId) (s : State) : Out :=
  .next (s.mapCtx c fun x => x.bounds.foldl (fun x e => s.atBound x e) x)

/-! ### Time (R40) -/

/-- Whether rotor planes may be used. -/
def State.rotorOn (s : State) : Bool := s.feat 3 && s.regF 0x1000 31 1 == 1 && s.fab.resumeAt.isNone && s.fabricOn

/-- Set TIME_SYNC when the offset still to be slewed is within 10 ns; after a loss of the beacons the rotor waits 10 ms more
(R40). An offset above 10 ns clears TIME_SYNC and stops the rotor, which goes on with TIME_SYNC (DESIGN CHOICE, log 112). -/
def State.judgeSync (s : State) : State :=
  if s.regF 0x1000 31 1 = 0 ∧ s.fab.slew.natAbs ≤ 10 then
    let s := s.setRegF 0x1000 31 1 1
    { s with fab := { s.fab with resumeAt := s.fab.resumeAt.map fun _ => s.ftime + 10000000 } }
  else if s.regF 0x1000 31 1 = 1 ∧ 10 < s.fab.slew.natAbs then ((s.setRegF 0x1000 31 1 0).count 0x1150).setCause 5
  else s

/-- The pod a plane joins this package's pod to in its slot (R33, R34). -/
def State.partnerOf (s : State) (n : Nat) : Nat := partner ((slotAt s.ftime n + n) % 63) (podOf s.self)

/-- A beacon: time unless this package is the master, and on a rotor plane plane state, newest wins, and from the partner of the
plane's slot the credits for that slot (R37). -/
def execBeacon (b : Beacon) (s : State) : Out :=
  .next <|
  if !s.fabricOn then s
  else
    let s := match b.plane with
      | none => s
      | some n => { s with fab := { s.fab with
          credits := if s.partnerOf n = podOf b.sender then s.fab.credits.put n b.credits 0 else s.fab.credits
          creditSlot := if s.partnerOf n = podOf b.sender then s.fab.creditSlot.put n (slotAt s.ftime n + 1) 0 else s.fab.creditSlot
          peerPlanes := (podOf b.sender, b.planes) :: s.fab.peerPlanes.filter fun x => x.1 != podOf b.sender } }
    if s.regF 0x1000 15 1 = 1 then s
    else ({ s with fab := { s.fab with lastBeacon := s.ftime, slew := (b.time : Int) - (s.ftime : Int) } } : State).judgeSync

/-- Whether no valid beacon has come for 1 ms. -/
def State.timeLost (s : State) : Bool :=
  s.regF 0x1000 15 1 == 0 && s.regF 0x1000 31 1 == 1 && s.fab.lastBeacon + 1000000 ≤ s.ftime

def execBeaconLoss (s : State) : Out :=
  .next <|
  if s.timeLost then
    let s := ((s.setRegF 0x1000 31 1 0).count 0x1150).setCause 5
    { s with fab := { s.fab with resumeAt := some 0, slew := 0 } }
  else s

def execRotorResume (s : State) : Out :=
  .next <|
  match s.fab.resumeAt with
  | some t => if s.regF 0x1000 31 1 = 1 ∧ t ≤ s.ftime then { s with fab := { s.fab with resumeAt := none } } else s
  | none => s

/-- The beacon this package sends on a plane or torus link, with the relay credits it grants a pod: the 4 KiB units of the pod's
partition that hold no packet (R37, log 50). -/
def State.beaconFor (s : State) (plane : Option Nat) (pod : Nat) : Beacon :=
  let used := (s.fab.relay.filter fun x => x.1 == pod).length
  ⟨plane, s.self, s.ftime, s.cfgF 544 32 * 65536 / 64 / 4096 - used, s.fab.planesUp⟩

def execTorusBeacon (s : State) : Out :=
  .next <|
  if s.feat 2 && s.fabricOn then
    let links := (List.range 6).filter fun l => s.torusUp l && s.regF 0x1000 (22 + 3 * (l / 2)) 3 != 0
    { s with txBeacons := s.txBeacons ++ links.map fun l => (l, s.beaconFor none (podOf s.self)) }
  else s

/-! ### The rotor (R34 to R37) -/

/-- Whether a packet can go on a plane now: the slot's data window is open, and the last flit passes the switch before it closes,
at 9/16 ns a flit and the hop bound of R39 (R34, R36). A pod above PODS has no link. -/
def State.fits (s : State) (n : Nat) (p : Packet) : Bool :=
  let into := (s.ftime - n * 128) % 4096
  s.rotorOn && podOf s.self ≤ s.pods && s.fab.planesUp.getLsbD n && n * 128 ≤ s.ftime && 256 ≤ into
    && into + (9 * (1 + (p.data.length + 63) / 64) + 15) / 16 + 100 ≤ 4096

/-- Put a packet on a rotor plane in its slot, which is its injection (R44). -/
def State.rotorEmit (s : State) (n : Nat) (p : Packet) : State :=
  s.emit (linkOf n) { p with heading := some (linkOf n, false), slot := none }

/-- Count a slot of a plane in which a packet waits for relay credit, once (R37, R58; DESIGN CHOICE, log 114: each plane's slot
by itself). -/
def State.countStall (s : State) (n slot : Nat) : State :=
  if s.fab.stallSlot.getD n 0 = slot + 1 then s
  else { s.count 0x1140 with fab := { s.fab with stallSlot := s.fab.stallSlot.put n (slot + 1) 0 } }

/-- Another packet stands in the place of a waiting one. -/
def State.rewait (s : State) (p q : Packet) : State :=
  { s with fab := { s.fab with waiting := s.fab.waiting.erase p ++ [q] } }

/-- Choose the route of a waiting packet in a slot (R36): a direct one is kept for its slot, a relay leaves now. A relay that
only credit keeps from being chosen is counted (R37). -/
def State.rotorChoose (s : State) (p : Packet) (slot : Nat) : State :=
  let b := podOf p.dst
  let r := s.route (fun n => 1 ≤ s.creditFor slot n) b slot
  let s := match s.route (fun _ => true) b slot with
    | .via c n => if r = .via c n then s else s.countStall n slot
    | _ => s
  match r with
  | .direct t => s.rewait p { p with slot := some t }
  | .via c n =>
    if s.fits n p then
      let s := { s with fab := { s.fab with
        waiting := s.fab.waiting.erase p, credits := s.fab.credits.put n (s.fab.credits.getD n 0 - 1) 0 } }
      s.rotorEmit n { p with relayed := true, inter := c, time := s.ftime }
    else s
  | .wait => s

/-- A waiting packet of this package for another pod (R36): one with a direct route leaves in its slot, on the lowest plane that
joins the pods, and chooses again where it did not fit; another chooses in the slot of a plane whose data window is open. Which
packet goes first, and whether the link has room now, is the part's choice (log 2). -/
def State.rotorSend (s : State) (p : Packet) : State :=
  match p.slot with
  | some t =>
    match s.joining (podOf s.self) (podOf p.dst) t with
    | none => s.rewait p { p with slot := none }
    | some n =>
      let now := slotAt s.ftime n
      if now = t && s.fits n p then
        ({ s with fab := { s.fab with waiting := s.fab.waiting.erase p } } : State).rotorEmit n
          { p with rotorDone := true, time := s.ftime }
      else if t < now || (now = t && 256 ≤ (s.ftime - n * 128) % 4096) then s.rewait p { p with slot := none }
      else s
  | none =>
    let l := (List.range 24).filter fun n => s.fits n p
    match l[s.choose 512 l.length]? with
    | none => s
    | some n => s.rotorChoose p (slotAt s.ftime n)

/-- A packet stored as relay goes on the lowest plane that joins this pod to its destination's, in a slot after the one it came
in (R36). -/
def State.relaySend (s : State) (x : Nat × Packet) : State :=
  match (List.range 24).find? fun n => let t := slotAt s.ftime n
      s.fits n x.2 && x.2.slot.all (· ≤ t) && s.joining (podOf s.self) (podOf x.2.dst) t == some n with
  | none => s
  | some n =>
    ({ s with fab := { s.fab with relay := s.fab.relay.erase x } } : State).rotorEmit n { x.2 with rotorDone := true }

/-- A slot of a plane begins: in its guard the beacon goes out, with no data, where the slot has a link (R34, R37). -/
def execRotorSlotStart (plane : Fin 24) (s : State) : Out :=
  .next <|
  let n := plane.val
  let c := s.partnerOf n
  if !s.rotorOn || !s.fab.planesUp.getLsbD n || s.ftime < n * 128 || 256 ≤ (s.ftime - n * 128) % 4096 then s
  else if s.pods < c || s.pods < podOf s.self then s
  else { s with txBeacons := s.txBeacons ++ [(linkOf n, s.beaconFor (some n) c)] }

/-! ### Links (R35, R42, R43) -/

/-- A packet that is not for this package: on along its route, into relay space, or dropped (R35, R36, R43). Relay space keeps
the first slot in which it may go on: the one after the slot of the plane it came on. -/
def execTorusHop (p : Packet) (s : State) : Out :=
  .next <|
  if !s.fabricOn then s
  else if p.dst = s.self then s.arrives p
  else if podOf p.dst = podOf s.self then s.torusOut p
  else if p.relayed && p.inter == podOf s.self then
    let slot := slotAt p.time (p.heading.elim 0 fun h => h.1 - 6)
    { s with fab := { s.fab with relay := s.fab.relay ++ [(podOf p.src, { p with slot := some (slot + 1) })] } }
  else s

/-- A fibre pair goes down: pair 24 + n takes plane n with it (R19, R42, R43), and the two are counted as one (R58; DESIGN
CHOICE, log 114). -/
def State.pairDown (s : State) (n : Nat) : State :=
  if s.fab.pairsUp.getLsbD n then
    let s := { s with fab := { s.fab with
      pairsUp := s.fab.pairsUp &&& ~~~(1#48 <<< n), replays := s.fab.replays.put n 0 0
      planesUp := if 24 ≤ n then s.fab.planesUp &&& ~~~(1#24 <<< (n - 24)) else s.fab.planesUp } }
    (s.count 0x1108).setCause 5
  else s

/-- A replay on a pair; the eighth without acknowledgement takes it down (R42). Whether an acknowledgement came since the
last replay is not seen here (log 2). -/
def execLinkReplay (pair : Fin 48) (s : State) : Out :=
  .next <|
  let n := if s.choose 12 2 = 0 then 1 else s.fab.replays.getD pair.val 0 + 1
  if n < 8 then { s with fab := { s.fab with replays := s.fab.replays.put pair.val n 0 } } else s.pairDown pair.val

def execLossOfLight (pair : Fin 48) (s : State) : Out := .next (s.pairDown pair.val)

/-- The packets in injection that need no rotor plane (R35). -/
def State.localPackets (s : State) : List Packet := s.fab.waiting.filter fun p => podOf p.dst == podOf s.self

/-- Inject one of them; packets carry no order, so which is the part's choice (R38, log 2). TIME is the time of injection (R44). -/
def State.inject (s : State) : State :=
  let l := s.localPackets
  match l[s.choose 513 l.length]? with
  | some p => ({ s with fab := { s.fab with waiting := s.fab.waiting.erase p } } : State).forward { p with time := s.ftime }
  | none => s

end Sys2Proof.Machine
end

