-- ==== Sys2Proof/Machine/Culvert.lean ====
section
/-! DEFINITION. The C slots at issue: address operands (R380), resources (R382), completion objects (R384 to R386),
patterns and bindings (R388 to R396), and the meanings of the C-slot instructions (R386 to R412). -/

namespace Sys2Proof.Machine

/-! ### Operands (R380) -/

/-- Whether C1 executes. -/
def State.inC1 (s : State) : Bool := s.slotNow == 5

/-- Form an address operand and go on; ADDRESS with the k value where its form is wrong. -/
def State.operand (s : State) (k : KNo) (fl : Bool) (f : State → Addr → State) : State :=
  let w := s.readK k.val
  let n := w.toNat
  let off := if bit1 n 63 then ((s.rd.it[bits n 60 3]?).getD Iter.zero).value.toNat else 0
  let a := bits n 0 55
  let bad := s.raise causeAddress w 0
  if bits n 56 4 ≠ 0 then bad
  else if bit1 n 55 then
    if !fl || bits a 28 27 != 0 then bad
    else
      let x := (a + off) % 2 ^ 28
      if x < 201326592 then f s ⟨.boez, x⟩ else bad
  else if fl then (if bits a 32 23 != 0 then bad else f s ⟨.loc, (a + off) % 2 ^ 32⟩)
  else f s ⟨.virt, (a + off) % 2 ^ 64⟩

/-- Check n bytes of a local operand under R108; a load or source takes neither P nor M. -/
def State.withRange (s : State) (a : Addr) (n : Nat) (load : Bool) (f : State → State) : State :=
  if a.place = .loc ∧ s.localOk s.cur a.a n load = false then s.raise causeAddress (BitVec.ofNat 64 a.a) 0 else f s

/-- A completion object: 16-byte aligned, else ADDRESS with the address it names (R206, R385). -/
def State.object (s : State) (k : KNo) (fl load : Bool) (f : State → Addr → State) : State :=
  s.operand k fl fun s a =>
    if a.a % 16 ≠ 0 then s.raise causeAddress (BitVec.ofNat 64 a.a) 0 else s.withRange a 16 load fun s => f s a

/-- Whether a range is a boezem range that is closed to the context (R381). -/
def State.closed (s : State) (c : Ctx) (a : Addr) (n : Nat) : Bool :=
  a.place == .boez && !s.boezOpen c.launch.asid a.a n

/-- Status bits of R384 that checks at issue or first use set. -/
def stMalformed : BitVec 18 := BitVec.ofNat 18 (2 ^ 12)
def stProt : BitVec 18 := BitVec.ofNat 18 (2 ^ 7)

/-! ### Engine operations (R382) -/

/-- Operations that an FDRAIN holds back (R253). -/
def EngKind.drains : EngKind → Bool
  | .csig _ _ | .publ _ | .fmsg _ _ _ _ | .pkt _ _ => true
  | _ => false

/-- Hand an operation to the engines of the executing slot, with its number; `entry` says whether it takes an operation entry. -/
def State.startOp (s : State) (kind : EngKind) (done : Option Addr) (st : BitVec 18) (entry : Bool := false) : State :=
  let c := s.cur
  let ws := c.fenceWaits
  let e : EngOp := { newOp c.nextSeq s.inC1 (s.cycle + 1) kind done .waiting with
    status := st, waits := ws, drain := if kind.drains then c.drainSeq else 0, racy := c.racing s.cycle ws, pc := c.pc
    issued := s.cycle, entry := entry }
  s.setCur fun c =>
    let c := { c with nextSeq := c.nextSeq + 1 }
    if s.inC1 then { c with engA := c.engA ++ [e] } else { c with eng := c.eng ++ [e] }

/-- Whether every operation entry of the executing slot is in use (R382). -/
def State.entriesFull (s : State) : Bool :=
  16 ≤ ((if s.inC1 then s.cur.engA else s.cur.eng).filter EngOp.entry).length

/-- An operation that takes an entry of the slot, or RLIMIT. One whose completion object lies in a closed boezem segment moves
nothing (R381). -/
def State.entryOp (s : State) (kind : EngKind) (done : Option Addr) (st : BitVec 18) : State :=
  if s.entriesFull then s.raise causeRlimit 0 0
  else
    if done.any fun a => s.closed s.cur a 16 then s.startOp .update done (st ||| stProt) true else s.startOp kind done st true

/-! ### Copies and publication (R387, R389, R390, R397, R398) -/

def execCnop (s : State) : Out := .next s

def execCcopy (a b c d : KNo) (cl sl dl : Bool) (s : State) : Out :=
  .next (s.op (.ccopy a b c d cl sl dl) fun s =>
    s.operand a dl fun s dst => s.operand b sl fun s src => s.object d cl false fun s done =>
      let n := (s.readK c.val).toNat
      if n = 0 then s.entryOp .update (some done) 0
      else if 2 ^ 40 ≤ n then s.entryOp .update (some done) stMalformed
      else
        s.withRange dst n false fun s => s.withRange src n true fun s =>
          if s.closed s.cur dst n || s.closed s.cur src n then s.entryOp .update (some done) stProt
          else s.entryOp (.copy dst src n) (some done) 0)

/-- CDESC. A closed boezem range leaves the register failed at once (R381, R389). -/
def execCdesc (a : KNo) (la : Bool) (q : QNo) (s : State) : Out :=
  .next (s.op (.cdesc a la q) fun s =>
    s.operand a la fun s x =>
      if x.a % 64 ≠ 0 then s.raise causeAddress (BitVec.ofNat 64 x.a) 0
      else
        s.withRange x 128 true fun s =>
          if s.entriesFull then s.raise causeRlimit 0 0
          else if s.closed s.cur x 128 then s.setCur fun c => { c with dr := c.dr.set q (.failed stProt) }
          else
            let n := s.cur.nextSeq
            (s.entryOp (.cdesc q x) none 0).setCur fun c => { c with dr := c.dr.set q (.reading n) })

def execCcopya (d : KNo) (cl : Bool) (q : QNo) (s : State) : Out :=
  .next (s.op (.ccopya d cl q) fun s =>
    s.object d cl false fun s done =>
      match s.cur.dr[q] with
      | .empty => s.entryOp .update (some done) stMalformed
      | .failed st => s.entryOp .update (some done) st
      | .reading n => s.entryOp (.copyA (some n) none) (some done) 0
      | .loaded x => s.entryOp (.copyA none (some x)) (some done) 0)

/-- PUBL. kA has no flag: k[A] is the virtual address as it stands (R380, R397, log 60). -/
def execPubl (a d : KNo) (cl : Bool) (s : State) : Out :=
  .next (s.op (.publ a d cl) fun s =>
    s.object d cl false fun s done => s.entryOp (.publ (s.readK a.val)) (some done) 0)

/-- COFFL and CREST: `loc` is the end with an address flag, `va` the virtual end (R398). -/
def State.offload (s : State) (loc : Addr) (va w : Word) (done : Addr) (ownBytes : Nat → Nat) (load : Bool)
    (kind : Addr → Nat → Int → Bool → EngKind) : State :=
  let n := bits w.toNat 0 40
  if n = 0 ∨ bits w.toNat 49 15 ≠ 0 then s.entryOp .update (some done) stMalformed
  else
    s.withRange loc (ownBytes n) load fun s =>
      if s.closed s.cur loc (ownBytes n) then s.entryOp .update (some done) stProt
      else s.entryOp (kind ⟨.virt, va.toNat⟩ n (sext (bits w.toNat 40 8) 8) (bit1 w.toNat 48)) (some done) 0

def execCoffl (a b c d : KNo) (t : Elem) (f : OffFmt) (cl sl : Bool) (s : State) : Out :=
  .next (s.op (.coffl a b c d t f cl sl) fun s =>
    s.operand a sl fun s src => s.object d cl false fun s done =>
      s.offload src (s.readK b.val) (s.readK c.val) done (elemBytes t) true fun dst n e _ => .coffl dst src n e t f)
def execCrest (a b c d : KNo) (t : Elem) (f : OffFmt) (cl dl : Bool) (s : State) : Out :=
  .next (s.op (.crest a b c d t f cl dl) fun s =>
    s.operand a dl fun s dst => s.object d cl false fun s done =>
      s.offload dst (s.readK b.val) (s.readK c.val) done (elemBytes t) false fun src n e sg => .crest dst src n e t f sg)

/-! ### Patterns (R391, R394) -/

/-- Fields of a pattern that R391 calls malformed. -/
def patMalformed (p : Nat) : Bool :=
  let dims := [patRun p, patCnt1 p, patCnt2 p, patCnt3 p]
  bits p 56 8 != 0 || bit1 p 71 || bits p 240 16 != 0 || bits p 320 192 != 0 || patType p == 7 || (patBz p && !patLocal p) ||
    if patPipe p then bits p 72 168 != 0 || patTdv p || bits p 2 53 != 0
    else dims.any (· == 0) || 2 ^ 48 ≤ patTotal p

/-- The status a pattern fails its check with, or none (R391). -/
def State.patCheck (s : State) (c : Ctx) (p : Nat) (write : Bool) : Option (BitVec 18) :=
  if patMalformed p then some stMalformed
  else if patPipe p then none
  else
    let every := fun (f : Nat → Bool) => (List.range (patTotal p)).all fun j => f (patAt p j).a
    let td : Bool := match patDesc p with
      | some a => patTdesc p % 64 != 0 || (a.place == .loc && (decide (2 ^ 32 ≤ patTdesc p) || !s.localOk c a.a 64 true))
      | none => false
    if td then some stMalformed
    else
      match patPlace p with
      | .virt => none
      | .loc => if every fun a => s.localOk c a 1 (!write) then none else some stMalformed
      | .boez => if every fun a => s.boezOpen c.launch.asid a 1 then none else some stProt

/-- Whether a pipe pattern may bind an end of its pipe (R394). -/
def Ctx.pipeBinds (c : Ctx) (p : Nat) (write : Bool) (e : Nat) : Bool :=
  let d := c.pipeDef (patPipeNo p)
  c.launch.gang > 0 && d.valid && c.launch.rank == (if write then d.producer else d.consumer) && 1 ≤ d.per e

/-- Give a binding its descriptor's pattern, checked (R391, R392). -/
def State.bindPattern (s : State) (c : Ctx) (b : Binding) (d : BitVec 1024) : Binding :=
  let w := b.kind == .write
  let p := if w then dstPat d else srcPat d
  let b := { b with pat := BitVec.ofNat 512 p, pend := none }
  match s.patCheck c p w with
  | some st => b.fail st
  | none => if patPipe p && !c.pipeBinds p w b.eBytes then b.fail stMalformed else b

/-- A binding whose descriptor register is failed or empty fails with its status (R389). -/
def State.bindFrom (s : State) (c : Ctx) (b : Binding) (r : DescReg) : Binding :=
  match r with
  | .empty => ({ b with pend := none } : Binding).fail stMalformed
  | .failed st => ({ b with pend := none } : Binding).fail st
  | .reading n => { b with pend := some n }
  | .loaded d => s.bindPattern c b d

/-! ### Bindings (R392 to R395) -/

/-- Unbind a stream: a reader discards its entries and makes its update; a writer's entries are written first, by an
operation that takes the binding over. An entry of a scatter that has no index is dropped (R393, log 30). -/
def State.unbind (s : State) (q : QNo) : State :=
  let c := s.cur
  let b := c.q[q]
  let free := fun (c : Ctx) => { c with q := c.q.set q Binding.unbound }
  let mine := fun (h : HeldFault) => h.holder == .stream c.id q
  match b.kind with
  | .unbound => s
  | .read | .gather =>
    let s := s.unhold mine
    s.setCur fun c => free (c.bindUpdate q (s.cycle + 1))
  | .write | .scatter =>
    if b.updated then s.setCur free
    else
      let seq := c.nextSeq
      let b := if b.kind = .scatter then { b with entries := b.entries.take b.idx.length } else b
      let b := if b.failed then { b with entries := [] } else b
      let e : EngOp := { newOp seq b.culvert (s.cycle + 1) (.closing b) (some b.done) .waiting with
        status := b.status, census := b.census, waits := b.waits, racy := b.racy, pc := b.pc, issued := b.issued }
      let s := s.setCur fun c => free
        (if b.culvert then { c with nextSeq := seq + 1, engA := c.engA ++ [e] }
         else { c with nextSeq := seq + 1, eng := c.eng ++ [e] })
      let held := s.xlt.held.map fun (h : HeldFault) => if mine h then { h with holder := .eng c.id seq } else h
      { s with xlt := { s.xlt with held := held } }

/-- A new binding of q by the executing slot. Reads of a stream that is bound again see every store of an earlier bundle, as
after FENCE.q (R248). -/
def State.newBinding (s : State) (q : QNo) (kind : BindKind) (w : VW) (done : Addr) : Binding :=
  let c := s.cur
  let ws := c.fenceWaits
  let again := (kind == .read || kind == .gather) && c.bound.getLsbD q.val
  { Binding.unbound with
    kind := kind, culvert := s.inC1, w := w, done := done, waits := ws
    racy := if again then s.ownStores else c.racing s.cycle ws
    since := if again then s.cycle + 1 else s.cycle, pc := c.pc, issued := s.cycle }

/-- Bind; a failed binding makes its update at once. One whose completion object lies in a closed boezem segment fails (R381). -/
def State.bind (s : State) (q : QNo) (b : Binding) : State :=
  let b := if s.closed s.cur b.done 16 then b.fail stProt else b
  let s := (s.unbind q).setCur fun c => { c with q := c.q.set q b, bound := c.bound ||| (1#8 <<< q.val) }
  if b.failed then s.setCur fun c => c.bindUpdate q (s.cycle + 1) else s

def execCbind (d : KNo) (cl : Bool) (w : VW) (wr : Bool) (q : QNo) (s : State) : Out :=
  .next (s.op (.cbind d cl w wr q) fun s =>
    s.object d cl false fun s done =>
      s.bind q (s.bindFrom s.cur (s.newBinding q (if wr then .write else .read) w done) s.cur.dr[q]))
def execCunbind (q : QNo) (s : State) : Out := .next (s.op (.cunbind q) fun s => s.unbind q)

/-- An indexed binding (R395). -/
def State.bindTable (s : State) (kind : BindKind) (a b d : KNo) (cl tl : Bool) (q : QNo) : State :=
  s.operand a tl fun s base => s.object d cl false fun s done =>
    let n := (s.readK b.val).toNat
    let x := { s.newBinding q kind (if n = 32 then .w256 else if n = 64 then .w512 else .w1024) done with base := base, rowBytes := n }
    s.bind q (if n = 32 ∨ n = 64 ∨ n = 128 then x else ({ x with rowBytes := 0 } : Binding).fail stMalformed)
def execCgather (a b d : KNo) (cl tl : Bool) (q : QNo) (s : State) : Out :=
  .next (s.op (.cgather a b d cl tl q) fun s => s.bindTable .gather a b d cl tl q)
def execCscatter (a b d : KNo) (cl tl : Bool) (q : QNo) (s : State) : Out :=
  .next (s.op (.cscatter a b d cl tl q) fun s => s.bindTable .scatter a b d cl tl q)

def execCeos (q : QNo) (s : State) : Out :=
  .next (s.op (.ceos q) fun s =>
    let b := s.cur.q[q]
    match b.kind with
    | .unbound | .read => s.raise causeStream 0 0
    | .gather => s.setCur fun c => { c with q := c.q.set q { b with idxEnd := true } }
    | .write | .scatter => s.setCur fun c => { c with q := c.q.set q { b with ended := true, last := s.cycle } })
/-- CIDX. An index after CEOS raises STREAM, as a push to an ended stream does (log 31). -/
def execCidx (a : KNo) (q : QNo) (s : State) : Out :=
  .next (s.op (.cidx a q) fun s =>
    let b := s.cur.q[q]
    if (b.kind != .gather && b.kind != .scatter) || b.idxEnd || b.ended then s.raise causeStream 0 0
    else if 32 ≤ b.idx.length - b.idxUsed then s.stall
    else s.setCur fun c => { c with q := c.q.set q { b with idx := b.idx ++ [(s.readK a.val).setWidth 32] } })

/-! ### Completion objects (R386) -/

/-- A word of a completion object as CCNT and CSTAT read it: from the boezem and the share at once. A word with an
uncorrectable error, or in a closed boezem segment (R381, log 62), has no stated value (log 1). -/
def State.objWord (s : State) (a : Addr) (n : Nat) : State × Word :=
  let p := if a.place = .boez then boezemBase + a.a + n else s.cur.place (bits a.a 0 22 + n)
  let (m, po) := s.loadMem
  if s.closed s.cur a 16 then (s, s.free 300 64)
  else if poisonedAt po p 8 then (s.count 0x2008, s.free 300 64) else (s, BitVec.ofNat 64 (leNat (s.view m p 8)))

/-- Read word n of an object into a k register, `gone` cycles after its issue: L is 6 cycles for a local object and 2,048 for a
virtual one. A translation fault is held, and the register stays undefined until the read is made again. -/
def State.readWord (s : State) (x : Addr) (d : KNo) (n gone : Nat) : State :=
    match x.place with
    | .virt =>
      let c := s.cur
      match s.xlate (tlbOf c.id.core) c.launch.asid (x.a + n) .read with
      | (s, .error f) =>
        let s := s.setCur fun c => { c with
          writes := (c.writes.filter fun w => !sameDest w.dest (.k d.val 0)) ++ [⟨s.cycle + 2 ^ 63, .k d.val 0⟩] }
        (s.hold (.read c.id d.val) f false (culEng s.inC1) c.id.core c.id.slot c.launch.asid (x.a + n) 0).1
      | (s, .ok ph) =>
        let v := match s.unread ph with
          | some _ => s.free 300 64
          | none => BitVec.ofNat 64 (s.tierNat ph.key ph.pa 8)
        (s.countAt ((s.unread ph).getD 0)).write (2048 - gone) (.k d.val v)
    | _ => let (s, v) := s.objWord x n; s.write (6 - gone) (.k d.val v)

/-- Whether C0 of this bundle updates an object and does nothing else: a CSIG, or an operation that moves no byte. -/
def State.firstOn (s : State) (x : Addr) : Bool :=
  s.inC1 && s.cur.ops.any fun e => e.start == s.cycle + 1 && e.done == some x && match e.kind with
    | .csig _ _ | .update => true
    | _ => false
/-- CCNT and CSTAT read at their issue; in C1 they come after an update of C0 on the same object, which is made in the next cycle
unless something holds it back (R276; log 125). -/
def State.readObject (s : State) (a : KNo) (d : KNo) (ol : Bool) (n : Nat) : State :=
  s.object a ol true fun s x =>
    if s.firstOn x then
      let c := s.cur
      let e : EngOp := { newOp c.nextSeq true (s.cycle + 1) (.look x d.val n) none .waiting with pc := c.pc, issued := s.cycle }
      s.setCur fun c => { c with nextSeq := c.nextSeq + 1, engA := c.engA ++ [e] }
    else s.readWord x d n 0

def execCcnt (a d : KNo) (ol : Bool) (s : State) : Out := .next (s.op (.ccnt a d ol) fun s => s.readObject a d ol 0)
def execCstat (a d : KNo) (ol : Bool) (s : State) : Out := .next (s.op (.cstat a d ol) fun s => s.readObject a d ol 8)

/-- Whether the counter of an object has reached a target now; a translation fault is held. A counter in a closed boezem segment
never has (log 62). -/
def State.counterAt (s : State) (a : Addr) (target : Word) : State × Bool :=
  let c := s.cur
  match a.place with
  | .virt =>
    if s.isHeld (.stall c.id) then (s, false)
    else
      match s.objCounter (tlbOf c.id.core) c.launch.asid a.a with
      | (s, .error f) => (s.holdEng c.id (.stall c.id) (culEng s.inC1) f false a.a 0, false)
      | (s, .ok (.error o)) => (if c.stalled then s else s.countAt o, false)
      | (s, .ok (.ok n)) => (s, target.toNat ≤ n)
  | _ =>
    let p := if a.place = .boez then boezemBase + a.a else c.place (bits a.a 0 22)
    let (m, po) := s.loadMem
    if s.closed c a 16 then (s, false)
    else if poisonedAt po p 8 then (if c.stalled then s else s.count 0x2008, false)
    else (s, target.toNat ≤ leNat (s.view m p 8))

/-- CWAIT: after an aborted fault the bundle takes effect without an acquire, and the next one traps XLATE (R386). -/
def execCwait (a b : KNo) (ol : Bool) (s : State) : Out :=
  .next (s.op (.cwait a b ol) fun s => s.object a ol true fun s x =>
    match s.cur.waived with
    | some v => s.setCur fun c => { c with waived := none, xlate := c.xlate.or (some v) }
    | none =>
      match s.counterAt x (s.readK b.val) with
      | (s, true) => s
      | (s, false) => s.stall)
def execCsig (a b c : KNo) (ol : Bool) (s : State) : Out :=
  .next (s.op (.csig a b c ol) fun s => s.object a ol false fun s x =>
    s.entryOp (.csig (s.readK b.val) (s.readK c.val)) (some x) 0)

/-! ### Fabric operations (R399 to R405) -/

/-- Judge a rank word: the target, or the status the operation completes with at once (R51, R399, R433). -/
def State.target (s : State) (w : Word) (fld post : Bool) : State × Except Nat Nat :=
  let n := w.toNat
  let l := bits n 16 16
  if bits n 56 8 ≠ 0 || (fld && l == 0) || (!fld && l != 0) || (!post && bits n 48 8 != 0) then (s, .error 9)
  else
    match s.rankAddr (bits n 0 16) with
    | (s, none) => (s, .error 7)
    | (s, some a) => if s.linksOk a then (s, .ok a) else (s, .error 5)

/-- A packet of the executing slot. -/
def State.fabPkt (s : State) (cls op dst va : Nat) (tag : Nat) (opa opb : Word) (data : List Byte) : Packet :=
  { s.mkPacket cls op dst with ctx := s.cur.id, engine := culEng s.inC1, va := va, tag := tag, opa := opa, opb := opb, data := data }

/-- Take a reply or write entry for a remote operation and send its packet, or hold its status at once (R382, R399). -/
def State.remoteOp (s : State) (w : Word) (post reply sat : Bool) (reg : Option Nat) (mk : State → Nat → EngKind)
    (early : Nat → Word) : State :=
  let used := (s.cur.remote.filter fun r => r.reply == reply).length
  if (if reply then 16 else 64) ≤ used then s.raise causeRlimit 0 0
  else
    let (s, t) := s.target w false post
    let seq := s.cur.nextSeq
    let put := fun (s : State) (st : Option Nat) (own : Bool) => s.setCur fun c =>
      { c with remote := c.remote ++
        [⟨seq, bits w.toNat 32 16, reply, sat, st, reg.map fun n => (n, early (st.getD 0)), s.slotNow, c.pc, s.cycle, own⟩] }
    match t with
    | .error st => (put s (some st) false).setCur fun c => { c with nextSeq := c.nextSeq + 1 }
    | .ok dst => (put s none (dst == s.self && !post)).startOp (mk s dst) none 0

def execFld (a b : KNo) (r : Fin 32) (vec : Bool) (sz : MemSz) (s : State) : Out :=
  .next (s.op (.fld a b r vec sz) fun s =>
    if 16 ≤ s.cur.late.length then s.raise causeRlimit 0 0
    else
      let w := s.readK b.val
      let (s, t) := s.target w true false
      let seq := s.cur.nextSeq
      let put := fun (s : State) (st : Option Nat) (own : Bool) => s.setCur fun c =>
        { c with late := c.late ++
          [⟨seq, bits w.toNat 32 16, vec, r.val, sz, some (c.bundles + bits w.toNat 16 16), false, st, 0, own⟩] }
      match t with
      | .error st => (put s (some st) false).setCur fun c => { c with nextSeq := c.nextSeq + 1 }
      | .ok dst =>
        let p := s.fabPkt 0 sz.code dst (s.readK a.val).toNat (bits w.toNat 32 16) 0 0 (List.replicate (memSzBytes sz) 0)
        (put s none (dst == s.self)).startOp (.pkt p true) none 0)

def execFst (a b : KNo) (r : Fin 32) (vec : Bool) (sz : StSz) (s : State) : Out :=
  .next (s.op (.fst a b r vec sz) fun s =>
    let w := s.readK b.val
    let x := if vec then (s.readV r.val).toNat else (s.readK r.val).toNat
    s.remoteOp w false false false none (fun s dst =>
      .pkt (s.fabPkt 1 0 dst (s.readK a.val).toNat (bits w.toNat 32 16) 0 0 (leBytes x (stSzBytes sz))) false) fun _ => 0)

/-- The low 32 or all 64 bits of an operand (R402). -/
def lowW (w64 : Bool) (x : Word) : Word := if w64 then x else x &&& 0xFFFFFFFF
def execFatom (a b c d : KNo) (w64 : Bool) (op : Fin 16) (s : State) : Out :=
  .next (s.op (.fatom a b c d w64 op) fun s =>
    let w := s.readK b.val
    s.remoteOp w false true (op.val == 2) (some d.val) (fun s dst =>
      .pkt (s.fabPkt 2 (op.val + 16 * w64.toNat) dst (s.readK a.val).toNat (bits w.toNat 32 16) (lowW w64 (s.readK c.val)) 0 [])
        false) fun _ => 0)
def execFcas (a b c d : KNo) (w64 : Bool) (s : State) : Out :=
  .next (s.op (.fcas a b c d w64) fun s =>
    let w := s.readK b.val
    s.remoteOp w false true false (some d.val) (fun s dst =>
      .pkt (s.fabPkt 2 (10 + 16 * w64.toNat) dst (s.readK a.val).toNat (bits w.toNat 32 16) (lowW w64 (s.readK c.val))
        (lowW w64 (s.readK d.val)) []) false) fun _ => 0)
def execFdrain (s : State) : Out := .next (s.op .fdrain fun s => s.setCur fun c => { c with newDrain := true })

/-- The first status other than OK in issue order. -/
def firstBad : List Nat → Nat
  | [] => 0
  | x :: xs => if x = 0 then firstBad xs else x

/-- Insertion of a status by issue number. -/
def bySeq (x : Nat × Nat) : List (Nat × Nat) → List (Nat × Nat)
  | [] => [x]
  | y :: ys => if x.1 < y.1 then x :: y :: ys else y :: bySeq x ys

/-- What FWAIT releases: destinations in issue order, a later one for the same register replacing an earlier. -/
def putLast (l : List Dest) (d : Dest) : List Dest := (l.filter fun x => !sameDest x d) ++ [d]

/-- FWAIT. A reply that is in time and whose bound is still open lands by its bound and holds nothing (R405). -/
def execFwait (a d : KNo) (s : State) : Out :=
  .next (s.op (.fwait a d) fun s =>
    let c := s.cur
    let t := bits (s.readK a.val).toNat 0 16
    let wait := (c.late.any fun e => e.tag == t && e.status.isNone) || c.remote.any fun r => r.tag == t && r.status.isNone
    if wait then s.stall
    else
      let late := c.late.filter fun e => e.tag == t && !(e.bound.isSome && e.status == some 0)
      let rem := c.remote.filter fun r => r.tag == t
      let sts := (late.map fun e => (e.seq, e.status.getD 0)) ++ rem.map fun r => (r.seq, r.status.getD 0)
      let found := (sts.foldl (fun l x => bySeq x l) []).map Prod.snd
      let lands := late.foldl (fun l e =>
        let st := e.status.getD 0
        let v := if st ≤ 1 then e.data else 0
        putLast l (if e.vec then .v e.reg (((s.readV e.reg) >>> 64 <<< 64) ||| v.setWidth 1024) (st == 1)
          else .s e.reg v (st == 1))) []
      let lands := rem.foldl (fun l r => match r.reg with
        | some (n, v) => putLast l (.k n v)
        | none => l) lands
      let lands := putLast lands (.k d.val (BitVec.ofNat 64 (firstBad found + (if found.isEmpty then 0 else 256))))
      let s := s.setCur fun c => { c with
        late := c.late.filter fun e => !(e.tag == t && !(e.bound.isSome && e.status == some 0))
        remote := c.remote.filter fun r => r.tag != t }
      lands.foldl (fun s x => s.write 4 x) s)

def execFmsg (a b c : KNo) (sl : Bool) (lenM1 : Fin 32) (s : State) : Out :=
  .next (s.op (.fmsg a b c sl lenM1) fun s =>
    s.operand c sl fun s src =>
      let n := 8 * (lenM1.val + 1)
      s.withRange src n true fun s =>
        let w := s.readK b.val
        let seq := s.cur.nextSeq
        let s' := s.remoteOp w false false false none (fun s _ => .fmsg src n (s.readK a.val) w) fun _ => 0
        -- a closed boezem source completes with PROT, and nothing is sent (R381)
        if s.closed s.cur src n then
          s'.setCur fun c => { c.dropOp seq with remote := c.remote.map fun (r : Remote) =>
            if r.seq = seq ∧ r.status.isNone = true then { r with status := some 3 } else r }
        else s')
def execFsig (a b c : KNo) (s : State) : Out :=
  .next (s.op (.fsig a b c) fun s =>
    let w := s.readK b.val
    s.remoteOp w false false false none (fun s dst =>
      .pkt (s.fabPkt 9 0 dst (s.readK a.val).toNat (bits w.toNat 32 16) (s.readK c.val) 0 []) false) fun _ => 0)

/-- RWPOST (R408): the rank word's EXP travels with the post. -/
def execRwpost (a b c o : KNo) (s : State) : Out :=
  .next (s.op (.rwpost a b c o) fun s =>
    let w := s.readK c.val
    let r := (s.readK b.val).toNat
    s.remoteOp w true true false (some o.val) (fun s dst =>
      .pkt (s.fabPkt 7 1 dst 0 (bits w.toNat 32 16) (s.readK a.val)
        (BitVec.ofNat 64 (bits r 32 32 + bits w.toNat 48 8 * 2 ^ 32)) (leBytes (bits r 0 32) 8)) false)
      fun st => BitVec.ofNat 64 (256 * st))

/-! ### Sluice requests (R406) -/

def execFrts (a : KNo) (s : State) : Out :=
  .next (s.op (.frts a) fun s =>
    let va := s.readK a.val
    let mine := s.slu.sends.filter fun e => e.owner == s.cur.id
    if va.toNat % 64 ≠ 0 then s.raise causeAddress va 0
    else if 8 ≤ mine.length || 2048 ≤ s.slu.sends.length then s.raise causeRlimit 0 0
    else
      let e : SlSend :=
        { owner := s.cur.id, asid := s.cur.launch.asid, desc := 0, descVa := some va, msgid := s.slu.msgCtr, start := 0
          domain := none, tokens := [], spillSent := false, acked := [], err := none, st := .reading, dst := 0, lastSent := 0
          seq := s.cur.nextSeq, record := none }
      (s.setSlu fun u => { u with msgCtr := u.msgCtr + 1, sends := u.sends ++ [e] }).startOp (.frts va) none 0)
def execFcancel (a : KNo) (s : State) : Out :=
  .next (s.op (.fcancel a) fun s =>
    let va := s.readK a.val
    let es := s.slu.sends.filter fun e =>
      e.owner == s.cur.id && e.descVa == some va && (e.st == .posted || e.st == .queued)
    es.foldl (fun s e => s.cancelSend e.msgid none) s)

/-! ### Episodes and learner queues (R407) -/

/-- Hand an operation to the join unit; it starts at issue unless a FENCE holds it back. -/
def State.startEp (s : State) (k : EpKind) (reg pred : Nat) : State :=
  let c := s.cur
  let ws := c.fenceWaits
  let e : EpOp := ⟨c.nextSeq, s.cycle, k, reg, pred, if s.waitsMet c ws then some s.cycle else none, ws, none⟩
  s.setCur fun c => { c with nextSeq := c.nextSeq + 1, ep := c.ep ++ [e] }

def execEpopen (a b d : KNo) (s : State) : Out :=
  .next (s.op (.epopen a b d) fun s => s.startEp (.opn (s.readK a.val) (s.readK b.val)) d.val 0)
def execEpstep (a b c d st : KNo) (s : State) : Out :=
  .next (s.op (.epstep a b c d st) fun s =>
    s.startEp (.step (s.readK a.val) (s.readK b.val) (s.readK c.val) (s.readK d.val)) st.val 0)
def execEpclose (a b st : KNo) (s : State) : Out :=
  .next (s.op (.epclose a b st) fun s => s.startEp (.close (s.readK a.val) (s.readK b.val)) st.val 0)
def execLqpop (a d : KNo) (p : PNo) (q : KNo) (s : State) : Out :=
  .next (s.op (.lqpop a d p q) fun s =>
    let x := (s.readK a.val).toNat
    if x % 32 ≠ 0 || 2 ^ 32 ≤ x || !s.localOk s.cur x 32 true then s.raise causeAddress (s.readK a.val) 0
    else s.startEp (.pop (s.cur.place (bits x 0 22)) q.val) d.val p.val)
def execLqack (a b st q : KNo) (s : State) : Out :=
  .next (s.op (.lqack a b st q) fun s => s.startEp (.ack (s.readK a.val) (s.readK b.val) q.val) st.val 0)

/-! ### Privileged operations (R409, R410) -/

/-- A k register of the reeve. -/
def State.reeve (s : State) (k : KNo) : Nat := (s.reeveK[k]).toNat

/-- KEYOP: illegal outside reeve firmware. The blob is read by physical address, under key slot 1 (R15); one outside the map is a
physical address fault (R12). -/
def execKeyop (a b : KNo) (s : State) : Out :=
  .next <|
  if !s.reeveRun then s.op (.keyop a b) fun s => s
  else
    let w := s.reeve a
    let slot := bits w 0 14
    if slot < 2 || bits w 16 48 != 0 then s
    else
      match bits w 14 2 with
      | 0 =>
        let at_ := s.reeve b
        if at_ % 32 ≠ 0 then s
        else if !inTier1 (at_ + 95) then (if s.paOk at_ && s.paOk (at_ + 95) then s else s.count 0x2038)
        else if s.linePoison at_ 96 then s.countUe at_
        else
          let blob := s.tierRead .host at_ 96
          match openBlob blob with
          | some key => s.setSlot slot (some (keyBits key, ((blob[12]?).getD 0).toNat))
          | none => s
      | 1 => s.setSlot slot none
      | _ => s
def execTlbinv (a b : KNo) (s : State) : Out :=
  .next <|
  if !s.reeveRun then s.op (.tlbinv a b) fun s => s else s.startInval (invalOf (bits (s.reeve a) 0 19) (s.reeve b))

end Sys2Proof.Machine
end

