-- ==== Sys2Proof/Machine/CulvertEng.lean ====
section
/-! DEFINITION. The culverts at work: transfers by granule (R243, R387, R390, R398), streams (R392 to R395), descriptor
reads (R389, R406), publication (R118, R258, R397) and completion updates (R226, R385). -/

namespace Sys2Proof.Machine

/-! ### Runs of bytes (R243) -/

/-- Bytes from sequence byte j that follow one another within one 64-byte granule. -/
def runLen (at_ : Nat → Addr) (j n : Nat) : Nat :=
  let a := at_ j
  ((List.range (min 64 (n - j))).takeWhile fun i => at_ (j + i) == ⟨a.place, a.a + i⟩ && (a.a + i) / 64 == a.a / 64).length

/-- A fault at an address, with the bytes a write had moved before it. -/
structure RunFault where
  fault : XFault
  va : Nat
  wrote : Nat := 0
  deriving DecidableEq, Repr

/-- Read sequence bytes j to n. -/
def State.getRuns (s : State) (i : CtxId) (racy : List (Nat × Byte)) (at_ : Nat → Addr) (n : Nat) :
    Nat → Nat → State × Except RunFault (List PByte × Met)
  | 0, _ => (s, .ok ([], .none))
  | fuel + 1, j =>
    if n ≤ j then (s, .ok ([], .none))
    else
      let k := max 1 (runLen at_ j n)
      match s.eRead i racy (at_ j) k with
      | (s, .error f) => (s, .error ⟨f.fault, (at_ j).a + f.off, 0⟩)
      | (s, .ok (l, m)) =>
        match State.getRuns s i racy at_ n fuel (j + k) with
        | (s, .error f) => (s, .error f)
        | (s, .ok (l', m')) => (s, .ok (l ++ l', m.add m'))

/-- Write bytes from sequence byte j; what was written before a fault stays (R124). -/
def State.putRuns (s : State) (i : CtxId) (racy : List (Nat × Byte)) (at_ : Nat → Addr) :
    Nat → Nat → List PByte → State × Except RunFault Met
  | 0, _, _ => (s, .ok .none)
  | fuel + 1, j, bytes =>
    if bytes.isEmpty then (s, .ok .none)
    else
      let k := max 1 (runLen at_ j (j + bytes.length))
      match s.eWrite i racy (at_ j).a 1 (at_ j) (bytes.take k) with
      | (s, .error f) => (s, .error ⟨f.fault, (at_ j).a + f.off, f.off⟩)
      | (s, .ok m) =>
        match State.putRuns s i racy at_ fuel (j + k) (bytes.drop k) with
        | (s, .error f) => (s, .error { f with wrote := f.wrote + k })
        | (s, .ok m') => (s, .ok (m.add m'))

/-! ### What a transfer reads and writes -/

/-- Length and bytes of the source. -/
def srcSeq : EngKind → Option (Nat × (Nat → Addr))
  | .copy _ a n => some (n, addrPlus a)
  | .copyA _ (some d) => some (patTotal (srcPat d), patAt (srcPat d))
  | .coffl _ a n _ t _ => some (elemBytes t n, addrPlus a)
  | .crest _ a n _ t f _ => some (imageBytes f t n, addrPlus a)
  | .fmsg a n _ _ => some (n, addrPlus a)
  | _ => none
/-- Length and bytes of the destination, with the range that picks a multicast window. -/
def dstSeq : EngKind → Option (Nat × (Nat → Addr) × Option (Nat × Nat))
  | .copy a _ n => some (n, addrPlus a, some (a.a, n))
  | .copyA _ (some d) => some (patTotal (dstPat d), patAt (dstPat d), none)
  | .coffl a _ n _ t f => some (imageBytes f t n, addrPlus a, none)
  | .crest a _ n _ t _ _ => some (elemBytes t n, addrPlus a, some (a.a, elemBytes t n))
  | _ => none

/-! ### Encoding and decoding (R217 to R219, R398) -/

/-- Source bytes that are converted together; 0 where the bytes are carried as they are. -/
def unitBytes : EngKind → Nat
  | .coffl _ _ _ _ t .bs4 => 4 * t.size
  | .coffl _ _ _ _ t .sb1 => t.size
  | .crest _ _ _ _ _ .bs4 _ => 17
  | .crest _ _ _ _ _ .sb1 _ => 1
  | _ => 0
/-- Element patterns of packed bytes. -/
def elemsOf (t : Elem) (l : List Byte) : List Nat := (List.range (8 * l.length / t.size)).map fun k => lane (leNat l) t.size k
/-- Whole bytes of element patterns. -/
def packBytes (t : Elem) (l : List Nat) : List Byte := leBytes (packLanes t.size l) ((l.length * t.size + 7) / 8)

/-- One unit converted; `k` is its number. -/
def convertUnit (e : EngKind) (k : Nat) (u : List Byte) : List Byte × BitVec 5 :=
  match e with
  | .coffl _ _ _ b t .bs4 =>
    let xs := (elemsOf t u).map (valT t)
    bs4Enc (xs ++ List.replicate (32 - xs.length) 0) t.size b
  | .coffl _ _ _ _ t .sb1 =>
    (leBytes (packLanes 1 ((elemsOf t u).map fun x => if 0 < valT t x then 1 else 0)) 1, 0)
  | .crest _ _ n b t .bs4 _ =>
    let xs := (List.range (min 32 (n - 32 * k))).map fun j => bs4Dec (sext ((u[0]?).getD 0).toNat 8) (bs4Nib u j) t b
    (packBytes t (xs.map fun x => (x.1 % 2 ^ t.size).toNat), (xs.map Prod.snd).foldl (· ||| ·) 0)
  | .crest _ _ n _ t .sb1 sg =>
    (packBytes t ((List.range (min 8 (n - 8 * k))).map fun j => (sb1Val sg (bit1 (leNat u) j) % 2 ^ t.size).toNat), 0)
  | _ => (u, 0)

/-- Whether output byte j of a unit is fed by a poisoned source byte: an element of a BS4 block by the block exponent and its
own byte, every other output by the whole unit (R398). -/
def fedPoison (e : EngKind) (u : List PByte) (j : Nat) : Bool :=
  match e with
  | .crest _ _ _ _ t .bs4 _ => ((u.take 1) ++ (u.drop (1 + j / (t.size / 8) / 2)).take 1).any Prod.snd
  | _ => u.any Prod.snd

/-- Convert every whole unit that has been read, and the last partial one; a poisoned source byte poisons what it feeds. -/
def EngOp.convert (total : Nat) : Nat → EngOp → EngOp
  | 0, e => e
  | fuel + 1, e =>
    let n := unitBytes e.kind
    if e.buf.isEmpty then e
    else if n = 0 then { e with out := e.out ++ e.buf, buf := [] }
    else if e.buf.length < n && e.rpos < total then e
    else
      let u := e.buf.take n
      let (b, f) := convertUnit e.kind ((e.rpos - e.buf.length) / n) (u.map Prod.fst)
      EngOp.convert total fuel { e with
        buf := e.buf.drop n, out := e.out ++ (List.zipIdx b).map fun x => (x.1, fedPoison e.kind u x.2)
        status := e.status ||| (if f &&& flagSat != 0 then 1#18 else 0) ||| (if f &&& flagLoss != 0 then 32#18 else 0) }

/-! ### Source and destination that overlap (R387) -/

/-- The frame byte of a virtual address under an access, where it has one. -/
def State.frameAt (s : State) (asid va : Nat) (acc : Acc) : Option Nat :=
  match (s.walk asid va).bind fun l => s.useLeaf l va acc with
  | .ok ph => some ph.pa
  | .error _ => none
/-- Where n bytes from an address lie: the virtual range, and the places behind it page by page. Two ranges share a byte where one
of these does. -/
def State.spans (s : State) (c : Ctx) (acc : Acc) (a : Addr) (n : Nat) : List (Bool × Nat × Nat) :=
  match a.place with
  | .virt => (true, a.a, n) :: (List.range (pagesOf n)).filterMap fun k =>
      let page := a.a / 4096 * 4096 + 4096 * k
      let lo := max page a.a
      let hi := min (page + 4096) (a.a + n)
      if lo < hi then (s.frameAt c.launch.asid lo acc).map fun p => (false, p, hi - lo) else none
  | .loc => (s.localPlaces c a.a n).map fun p => (false, p, n)
  | .boez => [(false, boezemBase + a.a, n)]

/-- Whether a written range and a read one share a byte. -/
def State.meets (s : State) (c : Ctx) (x : Addr) (n : Nat) (y : Addr) (m : Nat) : Bool :=
  (s.spans c .write x n).any fun p => (s.spans c .read y m).any fun q =>
    p.1 == q.1 && p.2.1 < q.2.1 + q.2.2 && q.2.1 < p.2.1 + p.2.2

/-- Lowest and highest address of a pattern before reduction. -/
def patSpan (p : Nat) : Int × Int :=
  let d := [((patCnt1 p : Int) - 1) * patStride p 144, ((patCnt2 p : Int) - 1) * patStride p 176, ((patCnt3 p : Int) - 1) * patStride p 208]
  ((patAddr p : Int) + (d.map (min 0)).sum, (patAddr p : Int) + patRun p + (d.map (max 0)).sum)
/-- Whether two patterns certainly share no byte. -/
def patApart (p q : Nat) : Bool :=
  let a := patSpan p
  let b := patSpan q
  let fits := fun (x : Int × Int) (r : Nat) => 0 ≤ x.1 && x.2 ≤ 2 ^ placeBits (patPlace r) && (patPlace r != .loc || x.2 ≤ 2 ^ 22)
  patPlace p != patPlace q || (fits a p && fits b q && (a.2 ≤ b.1 || b.2 ≤ a.1))

/-- The frames of the pages a virtual pattern touches. -/
def State.patFrames (s : State) (c : Ctx) (acc : Acc) (p : Nat) : List Nat :=
  if patPlace p = .virt then
    (((List.range (patTotal p)).map fun j => (patAt p j).a / 4096).eraseDups).filterMap fun v =>
      (s.frameAt c.launch.asid (v * 4096) acc).map (· / 4096)
  else []
/-- Whether source and destination may share a byte. -/
def State.overlaps (s : State) (c : Ctx) (e : EngKind) : Bool :=
  match e with
  | .copy a b n => s.meets c a n b n
  | .copyA _ (some d) => !patApart (srcPat d) (dstPat d)
      || (s.patFrames c .write (dstPat d)).any fun f => (s.patFrames c .read (srcPat d)).contains f
  | .coffl a b n _ t f => s.meets c a (imageBytes f t n) b (elemBytes t n)
  | .crest a b n _ t f _ => s.meets c a (elemBytes t n) b (imageBytes f t n)
  | _ => false
/-- Whether a destination byte is a source byte as well: its value is free (log 1). -/
def State.shared (s : State) (c : Ctx) (e : EngKind) (a : Addr) : Bool :=
  match srcSeq e with
  | none => false
  | some (n, src) =>
    match e with
    | .copyA _ _ => (List.range n).any fun j => s.meets c a 1 (src j) 1
    | _ => s.meets c a 1 (src 0) n

/-! ### Held copies and what they count (R122, R226) -/

/-- A culvert operation of a context meets a fault. -/
def State.holdOp (s : State) (i : CtxId) (e : EngOp) (f : RunFault) (write : Bool) : State :=
  s.holdEng i (.eng i e.seq) (culEng e.slot) f.fault write f.va (e.pos / 64 * 64)

/-- The census of sequence bytes of a TYPE: poisoned elements are not counted (R225, R390). -/
def censusBytes (ty : Nat) (l : List PByte) : Nat :=
  match elemOf ty with
  | none => 255
  | some t =>
    let n := if t.size = 4 then 1 else t.size / 8
    let units := (List.range (l.length / n)).map fun k => (l.drop (n * k)).take n
    (units.map fun u => if u.any Prod.snd then 255 else censusList t (elemsOf t (u.map Prod.fst))).foldl min 255

/-- Bytes of an element of a TYPE, at least one. -/
def tyBytes (ty : Nat) : Nat := max 1 (((elemOf ty).map fun t => t.size).getD 8 / 8)

/-- Take written bytes into a copy's census and poison; an unfinished element waits in `part` (R226, R390). -/
def EngOp.counted (e : EngOp) (bytes : List PByte) : EngOp :=
  let e := { e with wpois := e.wpois || bytes.any Prod.snd }
  match e.kind with
  | .copyA _ (some d) =>
    if patTdv (dstPat d) then
      let l := e.part ++ bytes
      let n := tyBytes (patType (dstPat d))
      let whole := l.length / n * n
      { e with census := min e.census (censusBytes (patType (dstPat d)) (l.take whole)), part := l.drop whole }
    else e
  | _ => e

/-- Destination bytes as they are written: those that are source bytes as well are free (log 1), and undefined once written. -/
def State.mixIn (s : State) (c : Ctx) (e : EngOp) (dst : Nat → Addr) (l : List PByte) : List PByte :=
  (List.zipIdx l).map fun x =>
    if e.mixed && s.shared c e.kind (dst (e.pos + x.2)) then (s.free (2 ^ 36 - 1 - x.2) 8, false) else x.1

/-- What a copy has written of destination bytes that are source bytes as well is undefined: n bytes from the copy's place on
(R3, R387). -/
def State.loseShared (s : State) (c : Ctx) (e : EngOp) (dst : Nat → Addr) (win : Option (Nat × Nat)) (n : Nat) : State :=
  if !e.mixed then s
  else
    let lose := fun (t : State) (a : Addr) =>
      match win, a.place with
      | some (base, m), .loc => (t.localPlaces c base m).foldl (fun t p => t.undefine (p + (a.a - base)) 1) t
      | _, _ => t.loseAt c a 1
    (((List.range n).map fun k => dst (e.pos + k)).filter fun a => s.shared c e.kind a).foldl lose s

/-! ### Patterns that do not run upwards (R243) -/

/-- Whether the bytes of a pattern lie at rising addresses, so that a granule's bytes follow one another. -/
def patRising (p : Nat) : Bool :=
  let up := fun (n : Nat) (step span : Int) => n ≤ 1 || span ≤ step
  let s1 : Int := patRun p
  let s2 := s1 + ((patCnt1 p : Int) - 1) * patStride p 144
  let s3 := s2 + ((patCnt2 p : Int) - 1) * patStride p 176
  up (patCnt1 p) (patStride p 144) s1 && up (patCnt2 p) (patStride p 176) s2 && up (patCnt3 p) (patStride p 208) s3
    && (patSpan p).2 ≤ 2 ^ placeBits (patPlace p)
/-- The last of n sequence bytes that share a granule with byte i, where they cover the granule; else i. -/
def wholeLast (at_ : Nat → Addr) (n i : Nat) : Nat :=
  let g := fun (a : Addr) => (a.place, a.a / 64)
  let l := (List.range n).filter fun j => g (at_ j) == g (at_ i)
  if (List.range 64).all fun k => l.any fun j => (at_ j).a % 64 == k then l.getLastD i else i
/-- The end of the sequence bytes that move together with those from i to hi: with each byte its whole granules. -/
def togetherTo (last : Nat → Nat) : Nat → Nat → Nat → Nat
  | 0, _, hi => hi
  | fuel + 1, i, hi => if hi ≤ i then hi else togetherTo last fuel (i + 1) (max hi (last i + 1))

/-- Move the next bytes of a CCOPYA together with every byte of the granules they lie in, as one access. -/
def State.transferWhole (s : State) (i : CtxId) (e : EngOp) (n : Nat) (src dst : Nat → Addr) : State :=
  let c := s.ctx i
  let racy := e.racy ++ c.racing (e.start - 1) e.waits
  let put := fun (s : State) (x : EngOp) => s.mapCtx i fun c => c.mapOp e.seq fun _ => x
  let hi := if e.mixed then n else togetherTo (fun k => max (wholeLast src n k) (wholeLast dst n k)) n e.pos (e.pos + 1)
  if n ≤ e.pos then put s { e with phase := .updating }
  else
    match s.getRuns i racy src hi n e.pos with
    | (s, .error f) => s.holdOp i e f false
    | (s, .ok (l, m)) =>
      let bytes := s.mixIn c e dst l
      let e := { e with status := e.status ||| metBits m }
      match s.putRuns i racy dst n e.pos bytes with
      | (s, .error f) =>
        (put (s.loseShared c e dst none f.wrote) { e.counted (bytes.take f.wrote) with part := e.part, rpos := hi, ahead := f.wrote }).holdOp
          i e f true
      | (s, .ok x) => put (s.loseShared c e dst none bytes.length)
          ({ e with pos := hi, rpos := hi, ahead := 0, status := e.status ||| metBits x }.counted bytes)

/-! ### One move of a transfer -/

/-- Read the next source granule, or write the next destination granule whose bytes are there. Where the two overlap, all
is read first (R387). -/
def State.transfer (s : State) (i : CtxId) (e : EngOp) : State :=
  let c := s.ctx i
  let racy := e.racy ++ c.racing (e.start - 1) e.waits
  match srcSeq e.kind, dstSeq e.kind with
  | some (n, src), some (m, dst, win) =>
    let put := fun (s : State) (x : EngOp) => s.mapCtx i fun c => c.mapOp e.seq fun _ => x
    let k := runLen dst e.pos m
    if m ≤ e.pos then put s { e with phase := .updating }
    else if k ≤ e.out.length && (!e.mixed || n ≤ e.rpos) then
      let a := dst e.pos
      let bytes := s.mixIn c e dst (e.out.take k)
      let (base, len) := win.getD (a.a, 1)
      match s.eWrite i racy base len a bytes with
      | (s, .error f) => s.holdOp i e ⟨f.fault, a.a + f.off, 0⟩ true
      | (s, .ok x) =>
        let e₀ := e
        let e := { e with pos := e.pos + k, out := e.out.drop k, status := e.status ||| metBits x }
        put (s.loseShared c e₀ dst win k) (e.counted bytes)
    else
      let r := runLen src e.rpos n
      match s.eRead i racy (src e.rpos) r with
      | (s, .error f) => s.holdOp i e ⟨f.fault, (src e.rpos).a + f.off, 0⟩ false
      | (s, .ok (l, x)) =>
        put s (EngOp.convert n 65 { e with rpos := e.rpos + r, buf := e.buf ++ l, status := e.status ||| metBits x })
  | _, _ => s
/-- One move of a copy, upwards granule by granule, else by what must move together. -/
def State.moveOp (s : State) (i : CtxId) (e : EngOp) : State :=
  match e.kind with
  | .copyA _ (some d) =>
    if patRising (srcPat d) && patRising (dstPat d) then s.transfer i e
    else s.transferWhole i e (patTotal (srcPat d)) (patAt (srcPat d)) (patAt (dstPat d))
  | _ => s.transfer i e

/-! ### Entries of streams (R392 to R395) -/

/-- Elements of TYPE in sequence bytes: the progress of a stream (R124). -/
def elemsDone (p bytes : Nat) : Nat := 8 * bytes / ((elemOf (patType p)).map fun t => t.size).getD 8
/-- Elements or indices a binding has transferred, at a number of entries. -/
def Binding.progress (b : Binding) (entries : Nat) : Nat :=
  if b.kind = .gather ∨ b.kind = .scatter then entries else elemsDone b.pat.toNat (entries * b.eBytes)

/-- Pages of 4 KiB that n bytes of shadow-mapped memory touch, for R258. -/
def State.shadowPages (s : State) (asid : Nat) (a : Addr) (n : Nat) : List Nat :=
  if a.place = .virt then
    [a.a / 4096, (a.a + n - 1) / 4096].filter fun p => match s.walk asid (p * 4096) with
      | .ok l => l.pte.getLsbD 6
      | .error _ => false
  else []
def Binding.usePages (b : Binding) (l : List Nat) : Binding := { b with pages := l.foldl setAdd b.pages }
/-- The same for n bytes of a sequence from byte j. -/
def State.seqPages (s : State) (asid : Nat) (at_ : Nat → Addr) (j n : Nat) : List Nat :=
  (List.range n).foldl (fun l k => (s.shadowPages asid (at_ (j + k)) 1).foldl setAdd l) []

/-- The status a table row fails with, or none: local rows pass R108, boezem rows R381. -/
def State.rowBad (s : State) (c : Ctx) (b : Binding) (a : Addr) (load : Bool) : Option (BitVec 18) :=
  if a.place = .loc ∧ s.localOk c a.a b.rowBytes load = false then some stMalformed
  else if s.closed c a b.rowBytes then some stProt
  else none

/-- A failed binding, its update due. -/
def State.failBinding (s : State) (i : CtxId) (q : QNo) (st : BitVec 18) : State :=
  s.mapCtx i fun c => ({ c with q := c.q.set q ((c.q[q].fail st)) } : Ctx).bindUpdate q

/-- What a write of an entry leaves: the binding after it, or why it could not be written, after a fault with what had been. -/
inductive Written where
  | done (b : Binding)
  | fault (b : Binding) (f : RunFault)
  | bad (st : BitVec 18)
  deriving DecidableEq, Repr

/-- Write the first pushed entry of a binding to memory or into its ring (R392, R394, R395). -/
def State.putEntry (s : State) (i : CtxId) (b : Binding) (x : SEntry) (rest : List SEntry) : State × Written :=
  let c := s.ctx i
  let racy := b.racy ++ x.racy ++ c.racing x.pushed b.waits
  let eb := b.eBytes
  let bytes := (leBytes x.data.toNat eb).map fun y => (y, x.poison)
  let next := { b with entries := rest, pos := b.pos + 1
                       status := if x.poison then b.status ||| 2#18 else b.status }
  if b.pipe then
    let n := patPipeNo b.pat.toNat
    let d := c.pipeDef n
    let r := s.pipeReg c n
    let s := s.placeWrite [] (c.pipeBase n + r.tail) bytes
    let full := r.tail % (64 * d.slotSize) / eb + 1 == d.per eb
    (s.mapPipe i n fun r => { r with tail := if full then d.next r.tail else r.tail + eb
                                     pub := if full && !r.fin then r.pub + 1 else r.pub }, .done next)
  else if b.kind = .scatter then
    let a := b.row ((b.idx.headD 0).toNat)
    match s.rowBad c b a false with
    | some st => (s, .bad st)
    | none =>
      match s.putRuns i racy (addrPlus a) 65 0 bytes with
      | (s, .error f) => (s, .fault (b.usePages (s.seqPages c.launch.asid (addrPlus a) 0 f.wrote)) f)
      | (s, .ok m) =>
        (s, .done (({ next with idx := b.idx.drop 1, status := next.status ||| metBits m } : Binding).usePages
          (s.shadowPages c.launch.asid a b.rowBytes)))
  else
    let p := b.pat.toNat
    let bytes := bytes.take (patTotal p - b.pos * eb)
    let saw := fun (b : Binding) (l : List PByte) =>
      if patTdv p then
        { b with census := min b.census (censusBytes (patType p) l)
                 tstat := if l.any Prod.snd then b.tstat ||| 1#4 else b.tstat }
      else b
    match s.putRuns i racy (patAt p) 257 (b.pos * eb) bytes with
    | (s, .error f) =>
      (s, .fault ((saw b (bytes.take f.wrote)).usePages (s.seqPages c.launch.asid (patAt p) (b.pos * eb) f.wrote)) f)
    | (s, .ok m) => (s, .done { saw next bytes with status := next.status ||| metBits m, pages := [] })

/-- CEOS on a producer: END and END_POS, and the slot that holds entries is published early (R394). -/
def State.endPipe (s : State) (i : CtxId) (b : Binding) : State :=
  let n := patPipeNo b.pat.toNat
  let d := (s.ctx i).pipeDef n
  s.mapPipe i n fun r =>
    if r.fin then r
    else { r with fin := true, finPos := r.tail
                  pub := if r.tail % (64 * d.slotSize) != 0 then r.pub + 1 else r.pub }

/-- After an entry: a pipe producer's end is set; a memory stream has ended and makes its update (R392, R394, R395). -/
def State.afterEntry (s : State) (i : CtxId) (q : QNo) : State :=
  let b := (s.ctx i).q[q]
  if !b.writtenOut then s
  else if b.pipe then (if b.ended then s.endPipe i b else s)
  else s.mapCtx i fun c =>
    ({ c with q := c.q.set q { b with ended := true, entries := [] } } : Ctx).bindUpdate q

/-- Whether an operation that took a binding over still writes into the same pipe. -/
def Ctx.closingPipe (c : Ctx) (b : Binding) : Bool :=
  b.pipe && c.ops.any fun e => match e.kind with
    | .closing x => x.pipe && patPipeNo x.pat.toNat == patPipeNo b.pat.toNat && !x.entries.isEmpty
    | _ => false

/-- Whether a culvert may move a stream. -/
def State.streamReady (s : State) (c : Ctx) (q : QNo) : Bool :=
  let b := c.q[q]
  b.kind != .unbound && c.phase != .saving && !b.failed && b.pend.isNone && !s.isHeld (.stream c.id q) && s.waitsMet c b.waits

/-- Write the next pushed entry of a stream, once the culvert has its contents (R325). -/
def execStreamEntryWrite (c : CtxId) (q : QNo) (s : State) : Out :=
  .next <|
  let x := s.ctx c
  let b := x.q[q]
  if !s.streamReady x q || (b.kind != .write && b.kind != .scatter) || x.closingPipe b then s
  else
    match b.entries with
    | [] => s.afterEntry c q
    | e :: rest =>
      if s.cycle < e.ready then s
      else if b.kind = .scatter ∧ b.idx = [] then s.afterEntry c q
      else
        match s.putEntry c b e rest with
        | (s, .fault b f) => (s.mapCtx c fun x => { x with q := x.q.set q b }).holdEng c (.stream c q) (culEng b.culvert) f.fault
            true f.va (b.progress b.pos)
        | (s, .bad st) => s.failBinding c q st
        | (s, .done b) => (s.mapCtx c fun x => { x with q := x.q.set q b }).afterEntry c q

/-- The racing stores of a stream's fill, without those an earlier fill has seen at a byte (R244). -/
def Binding.unseen (b : Binding) (racy : List (Nat × Byte)) : List (Nat × Byte) :=
  (List.zipIdx racy).filterMap fun x =>
    let n := ((b.seen.find? fun y => y.1 == x.1.1).map Prod.snd).getD 0
    if (racy.take x.2).countP (fun r => r.1 == x.1.1) < n then none else some x.1
/-- What a fill that read n bytes of a sequence has seen of them. -/
def State.sawBytes (s : State) (c : Ctx) (racy : List (Nat × Byte)) (at_ : Nat → Addr) (j n : Nat) (b : Binding) : Binding :=
  let places := ((List.range n).filterMap fun k =>
    let a := at_ (j + k)
    if a.place = .loc then some (c.place (bits a.a 0 22)) else none).filter fun p => racy.any fun r => r.1 == p
  places.eraseDups.foldl (fun b p =>
    let n := ((b.seen.find? fun y => y.1 == p).map Prod.snd).getD 0
    { b with seen := (p, n + s.racyPick racy p) :: b.seen.filter fun y => y.1 != p }) b
/-- Put an entry that has been read behind the others. -/
def Binding.took (b : Binding) (l : List PByte) (m : Met) : Binding :=
  let bad := l.any Prod.snd
  { b with entries := b.entries ++ [⟨BitVec.ofNat 1024 (leNat (l.map Prod.fst)), bad, 0, 0, []⟩], fetched := b.fetched + 1
           status := b.status ||| metBits { m with poison := m.poison || bad } }

/-- Read the next entry of a read stream, a gather or a pipe ahead of its pop; with the last the update is due (R247, R392,
R394, R395). -/
def execStreamFill (c : CtxId) (q : QNo) (s : State) : Out :=
  .next <|
  let x := s.ctx c
  let b := x.q[q]
  let racy := b.unseen (b.racy ++ (x.recent.filter fun r => b.since ≤ r.2.2.1).map fun r => (r.1, r.2.1))
  let eb := b.eBytes
  let room := b.entries.length < 8
  if !s.streamReady x q then s
  else if b.kind = .read then
    if b.pipe then
      let n := patPipeNo b.pat.toNat
      let d := x.pipeDef n
      let r := s.pipeReg x n
      if room && pipeHas d r eb b.pos b.fetched then
        let (s, l) := s.placeRead [] (x.pipeBase n + pipeAt d r eb b.pos b.fetched) eb
        s.mapCtx c fun x => { x with q := x.q.set q (b.took l .none) }
      else s
    else if room && !b.token && b.fetched < b.count then
      let p := b.pat.toNat
      let hi := min ((b.fetched + 1) * eb) (patTotal p)
      match s.getRuns c racy (patAt p) hi 257 (b.fetched * eb) with
      | (s, .error f) => s.holdEng c (.stream c q) (culEng b.culvert) f.fault false f.va (b.progress b.fetched)
      | (s, .ok (l, m)) =>
        let b' := s.sawBytes x racy (patAt p) (b.fetched * eb) (hi - b.fetched * eb) b
        s.mapCtx c fun x =>
          let x := { x with q := x.q.set q (b'.took l m) }
          if b.count ≤ b.fetched + 1 then x.bindUpdate q else x
    else s
  else if b.kind = .gather then
    match b.idx.drop b.idxUsed with
    | [] => if b.idxEnd then s.mapCtx c fun x => x.bindUpdate q else s
    | ix :: more =>
      if !room then s
      else
        let a := b.row ix.toNat
        match s.rowBad x b a true with
        | some st => s.failBinding c q st
        | none =>
          match s.getRuns c racy (addrPlus a) b.rowBytes 65 0 with
          | (s, .error f) => s.holdEng c (.stream c q) (culEng b.culvert) f.fault false f.va (b.progress b.fetched)
          | (s, .ok (l, m)) =>
            let b := ({ (s.sawBytes x racy (addrPlus a) 0 b.rowBytes b).took l m with idxUsed := b.idxUsed + 1 } : Binding).usePages (s.shadowPages x.launch.asid a b.rowBytes)
            s.mapCtx c fun x =>
              let x := { x with q := x.q.set q b }
              if b.idxEnd && more.isEmpty then x.bindUpdate q else x
  else s

/-! ### Packets of the C slots (R399 to R405) -/

/-- Give a remote operation its status. -/
def Ctx.endRemote (c : Ctx) (seq st : Nat) : Ctx :=
  { c with remote := c.remote.map fun (r : Remote) => if r.seq = seq then { r with status := some st } else r }

/-- An FMSG whose source has been read is sent; a link that has gone down meanwhile gives TARGET (R401, R433). -/
def State.sendMsg (s : State) (i : CtxId) (e : EngOp) (va w : Word) : State :=
  let (s, t) := s.target w false false
  let s' := s.mapCtx i fun c => c.dropOp e.seq
  match t with
  | .error st => s'.mapCtx i fun c => c.endRemote e.seq st
  | .ok dst =>
    let p : Packet := { s.mkPacket 4 0 dst with
      ctx := i, engine := culEng e.slot, va := va.toNat, tag := bits w.toNat 32 16
      status := if e.buf.any Prod.snd then 1 else 0, data := e.buf.map Prod.fst }
    s'.request p (.remote i e.seq)

/-- One move of an FMSG: the next granule of its source, whose page must not have a key domain, or the packet. -/
def State.moveMsg (s : State) (i : CtxId) (e : EngOp) (src : Addr) (n : Nat) (va w : Word) : State :=
  let c := s.ctx i
  if n ≤ e.rpos then s.sendMsg i e va w
  else
    let a := addrPlus src e.rpos
    let k := runLen (addrPlus src) e.rpos n
    let go := fun (s : State) =>
      match s.eRead i (e.racy ++ c.racing (e.start - 1) e.waits) a k with
      | (s, .error f) => s.holdOp i e ⟨f.fault, a.a + f.off, 0⟩ false
      | (s, .ok (l, _)) => s.mapCtx i fun c => c.mapOp e.seq fun e => { e with rpos := e.rpos + k, buf := e.buf ++ l, phase := .moving }
    if a.place = .virt then
      match s.xlate (tlbOf i.core) c.launch.asid a.a .read with
      | (s, .error f) => s.holdOp i e ⟨f, a.a, 0⟩ false
      | (s', .ok ph) =>
        if s.keyDomain (leafKeyId ph.leaf.pte.toNat) ≠ 0 then s'.mapCtx i fun c => (c.dropOp e.seq).endRemote e.seq 6
        else go s
    else go s

/-! ### Operations in general -/

/-- Whether an operation that waits may begin (R252, R253, R382). -/
def State.opReady (s : State) (c : Ctx) (e : EngOp) : Bool :=
  e.start ≤ s.cycle && s.waitsMet c e.waits && c.drained e.drain && !s.isHeld (.eng c.id e.seq)

/-- The status a CCOPYA's patterns fail with, or none (R390, R391). -/
def State.copyCheck (s : State) (c : Ctx) (d : BitVec 1024) : Option (BitVec 18) :=
  let p := srcPat d
  let q := dstPat d
  match s.patCheck c p false, s.patCheck c q true with
  | some a, some b => some (a ||| b)
  | some a, none => some a
  | none, some b => some b
  | none, none => if patPipe p || patPipe q || patTotal p != patTotal q then some stMalformed else none

/-- The operation of a number. -/
def State.opOf (s : State) (i : CtxId) (seq : Nat) : Option EngOp := (s.ctx i).ops.find? fun e => e.seq == seq

/-- The earlier operations of the same bundle whose updates are on an object: C0 comes before C1 (R276). -/
def Ctx.before (c : Ctx) (e : EngOp) (x : Option Addr) : List EngOp :=
  if e.start = 0 || x.isNone then [] else c.ops.filter fun o => o.start == e.start && o.seq < e.seq && o.done == x
/-- Whether an update waits for one of C0. -/
def Ctx.behindC0 (c : Ctx) (e : EngOp) : Bool := !(c.before e e.done).isEmpty

/-- One move of an operation that a culvert carries on by itself: it begins, moves a granule, writes an entry of an unbound
stream, or sends its packet. -/
def State.engMove (s : State) (i : CtxId) (seq : Nat) : State :=
  let c := s.ctx i
  match s.opOf i seq with
  | none => s
  | some e =>
    let put := fun (x : EngOp) => s.mapCtx i fun c => c.mapOp seq fun _ => x
    if !s.opReady c e then s
    else
      match e.phase, e.kind with
      | .updating, _ => s
      | .waiting, .copyA none (some d) =>
        match s.copyCheck c d with
        | some st => put { e with kind := .copyA none none, status := e.status ||| st, phase := .updating }
        | none => put { e with phase := .moving, mixed := s.overlaps c e.kind }
      | .waiting, .copyA none none => put { e with phase := .updating }
      | .waiting, .csig _ _ => put { e with phase := .updating }
      | .waiting, .update => put { e with phase := .updating }
      | .waiting, .look x r n =>
        if !(c.before e (some x)).isEmpty then s
        else
          let t := ({ s.mapCtx i fun c => c.dropOp seq with slotNow := 5 } : State).bringIn i
          { t.readWord x (Fin.ofNat 16 r) n (s.cycle - e.issued) with slotNow := 0 }
      | .waiting, .pkt p late =>
        (s.mapCtx i fun c => c.dropOp seq).request p (if late then .late i seq else .remote i seq)
      | _, .fmsg src n va w => s.moveMsg i e src n va w
      | _, .closing b =>
        match b.entries with
        | [] => (if b.pipe && b.ended then s.endPipe i b else s).mapCtx i fun c => c.mapOp seq fun e => { e with phase := .updating }
        | x :: rest =>
          if s.cycle < x.ready then s
          else
            match s.putEntry i b x rest with
            | (s, .fault b f) => (s.mapCtx i fun c => c.mapOp seq fun e => { e with kind := .closing b, phase := .moving }).holdEng i
                (.eng i seq) (culEng e.slot) f.fault true f.va (b.progress b.pos)
            | (s, .bad st) => s.mapCtx i fun c => c.mapOp seq fun e => { e with status := e.status ||| st, phase := .updating }
            | (s, .done b) => s.mapCtx i fun c => c.mapOp seq fun e => { e with kind := .closing b, status := e.status ||| b.status, phase := .moving }
      | .waiting, .copy _ _ _ | .waiting, .coffl _ _ _ _ _ _ | .waiting, .crest _ _ _ _ _ _ _ =>
        put { e with phase := .moving, mixed := s.overlaps c e.kind }
      | .moving, .copy _ _ _ | .moving, .coffl _ _ _ _ _ _ | .moving, .crest _ _ _ _ _ _ _ | .moving, .copyA _ (some _) =>
        s.moveOp i e
      | _, _ => s

/-- Slot flags of status bits (R385). -/
def statusFlags (st : Nat) : BitVec 5 :=
  flagIf (bit1 st 0) flagSat ||| flagIf (bit1 st 1) flagPoison ||| flagIf (bit1 st 5) flagLoss

/-- The completion update of an operation, after its descriptor's; either may fault and is then held (R226, R385). -/
def execCulvertCompletionUpdate (c : CtxId) (seq : Nat) (s : State) : Out :=
  .next <|
  match s.opOf c seq with
  | none => s
  | some e =>
    if e.phase ≠ .updating || s.isHeld (.eng c seq) || s.cycle < e.start || (s.ctx c).behindC0 e then s
    else
      let racy := e.racy ++ (s.ctx c).racing e.issued e.waits
      match e.owes with
      | some (a, cen, st) =>
        let pz := s.discards (s.ctx c) a
        match s.descUpdate c racy a cen st with
        | (s, some f) => s.holdOp c e ⟨f, a.a, 0⟩ true
        | (s, none) => s.mapCtx c fun x => x.mapOp seq fun e =>
          { e with kind := e.kind.noDesc, status := if pz then e.status ||| 2#18 else e.status }
      | none =>
        let (add, st) := match e.kind with
          | .csig a b => (a.toNat, b.toNat)
          | _ => (1, e.status.toNat)
        match e.done with
        | none => s.mapCtx c fun x => x.dropOp seq
        | some a =>
          let pz := flagIf (s.discards (s.ctx c) a) flagPoison
          match s.objUpdate c racy a add st with
          | (s, some f) => s.holdOp c e ⟨f, a.a, 0⟩ true
          | (s, none) =>
            (s.engFlags c (culSlot e.slot) e.issued e.pc (statusFlags st ||| pz)).mapCtx c fun x => x.dropOp seq

/-! ### Descriptor reads (R389, R406) -/

/-- The oldest CDESC read of a stream register. -/
def Ctx.cdescOp (c : Ctx) (q : QNo) : Option EngOp :=
  c.ops.find? fun e => match e.kind with
    | .cdesc r _ => r == q
    | _ => false

/-- A culvert descriptor has been read: its register is loaded, and so is what waits for it. -/
def State.descLoaded (s : State) (i : CtxId) (seq : Nat) (q : QNo) (d : BitVec 1024) : State :=
  let copy := fun (e : EngOp) => match e.kind with
    | .copyA (some n) _ => if n = seq then { e with kind := .copyA none (some d) } else e
    | _ => e
  let s := s.mapCtx i fun c =>
    let c := c.dropOp seq
    { c with dr := if c.dr[q] == .reading seq then c.dr.set q (.loaded d) else c.dr
             eng := c.eng.map copy, engA := c.engA.map copy }
  let c := s.ctx i
  if c.q[q].pend == some seq then
    let b := s.bindPattern c c.q[q] d
    s.mapCtx i fun c =>
      let c := { c with q := c.q.set q b }
      if b.failed then c.bindUpdate q else c
  else s

def execCdescReadDone (c : CtxId) (q : QNo) (s : State) : Out :=
  .next <|
  let x := s.ctx c
  match x.cdescOp q with
  | none => s
  | some e =>
    match e.kind with
    | .cdesc _ a =>
      if !s.opReady x e then s
      else
        match s.eRead c (e.racy ++ x.racing (e.start - 1) e.waits) a 128 with
        | (s, .error f) => s.holdOp c e ⟨f.fault, a.a + f.off, 0⟩ false
        | (s, .ok (l, m)) =>
          if m.poison then s.mapCtx c fun x => x.descFailed e.seq q 2#18
          else s.descLoaded c e.seq q (BitVec.ofNat 1024 (leNat (l.map Prod.fst)))
    | _ => s

/-- A send descriptor is read, and its message judged and started (R64, R65, R406). -/
def execSendDescriptorRead (c : CtxId) (seq : Nat) (s : State) : Out :=
  .next <|
  let x := s.ctx c
  match s.opOf c seq with
  | none => s
  | some e =>
    match e.kind with
    | .frts va =>
      if !s.opReady x e then s
      else
        match s.eRead c [] ⟨.virt, va.toNat⟩ 64 with
        | (s, .error f) => s.holdOp c e ⟨f.fault, va.toNat + f.off, 0⟩ false
        | (s, .ok (l, _)) =>
          let s := s.mapCtx c fun x => x.dropOp seq
          match s.slu.sends.find? fun y => y.owner == c && y.st == .reading && y.seq == seq with
          | none => s
          | some y => s.descRead y.msgid l
    | _ => s

/-! ### Publication (R118, R258, R259, R397) -/

/-- Whether n bytes of a virtual range and a page share a byte. -/
def touches (a : Addr) (n page size : Nat) : Bool := a.place == .virt && 0 < n && a.a < page + size && page < a.a + n

/-- Whether an operation that is moving has used a page. -/
def EngOp.uses (e : EngOp) (page size : Nat) : Bool :=
  e.phase == .moving &&
    match e.kind with
    | .copyA _ (some d) =>
      ((List.range e.rpos).any fun j => touches (patAt (srcPat d) j) 1 page size)
        || (List.range (e.pos + e.ahead)).any fun j => touches (patAt (dstPat d) j) 1 page size
    | k => ((srcSeq k).any fun x => touches (x.2 0) e.rpos page size) || (dstSeq k).any fun x => touches (x.2.1 0) e.pos page size

/-- Whether a load that is landing has used a page. -/
def LoadCmd.uses (l : LoadCmd) (page size : Nat) : Bool :=
  let n := encBytes (spEnc l.spec) (spKlen l.spec)
  l.row != spStart l.spec && l.fill.isNone &&
    if spLayout l.spec = 3 then !spLocal l.spec && spF l.spec 32 64 < page + size
    else ((List.range l.row).filter fun r => spStart l.spec ≤ r).any fun r =>
      (loadRowAt l.spec r).any fun a => touches a n page size

/-- Whether pages of 4 KiB that an access holds lie in a page. -/
def inPage (l : List Nat) (page size : Nat) : Bool := l.any fun p => p * 4096 < page + size && page < (p + 1) * 4096

/-- Whether a COPY node that has moved bytes has used a page of an address space. -/
def State.nodeUses (s : State) (asid page size : Nat) : Bool :=
  s.insts.any fun i =>
    let g := s.instGraph i
    g.asid == asid && i.nodes.any fun n =>
      let e := s.nodeEntry g n.idx
      n.st == .started && n.prog != 0 && nodeKind e == 1
        && (touches ⟨.virt, s.nodeAddr i e 64 232⟩ n.prog page size || touches ⟨.virt, s.nodeAddr i e 128 233⟩ n.prog page size)

/-- Whether some engine's one access holds the translation of a page (R258). -/
def State.pageInUse (s : State) (asid page size : Nat) : Bool :=
  (s.tasks.any fun c => c.launch.asid == asid &&
    ((c.ops.any fun e => e.uses page size || match e.kind with
        | .closing b => e.phase != .updating && inPage b.pages page size
        | _ => false)
      || c.q.any fun b => b.kind != .unbound && !b.updated && inPage b.pages page size))
  || (s.cores.any fun k => ((k.pipeA.q.take 1) ++ k.pipeB.q.take 1).any fun l =>
    (s.ctx l.ctx).launch.asid == asid && l.uses page size)
  || s.nodeUses asid page size

/-- The swap of a shadow-mapped page's frames, once nothing holds its translation. PUBL checks no permission of the leaf
(log 34). -/
def execPublSwap (c : CtxId) (seq : Nat) (s : State) : Out :=
  .next <|
  let x := s.ctx c
  match s.opOf c seq with
  | none => s
  | some e =>
    match e.kind with
    | .publ va =>
      if e.phase ≠ .waiting || !s.opReady x e then s
      else
        let asid := x.launch.asid
        let r := s.walk asid va.toNat
        let s := s.walkMet asid r
        match r with
        | .error f => s.holdOp c e ⟨f, va.toNat, 0⟩ false
        | .ok l =>
          let done := fun (s : State) (st : BitVec 18) =>
            s.mapCtx c fun x => x.mapOp seq fun e => { e with status := e.status ||| st, phase := .updating }
          if !l.pte.getLsbD 6 then done s (BitVec.ofNat 18 (2 ^ 15))
          else if s.pageInUse asid l.va l.size then s
          else
            match s.ast asid with
            | none => s
            | some a =>
              let s := match s.slotKey (bits a 16 14) with
                | some k => s.tierWrite k l.at_ (leBytes (l.pte ^^^ BitVec.ofNat 64 (2 ^ 11)).toNat 8)
                | none => s
              let stale := fun (t : TlbEntry) =>
                ((t.global || t.asid == asid) && t.va < l.va + l.size && l.va < t.va + t.size) || t.pte == l.pte
              done { s with xlt := { s.xlt with tlb := s.xlt.tlb.filter fun t => !stale t } } 0
    | _ => s

end Sys2Proof.Machine
end

