-- ==== Sys2Proof/Machine/Drain.lean ====
section
/-! DEFINITION. A pre-emption victim's stop at its drain point (R150), and what a breach of the drain point's duties leaves
undefined (R149, R396; log 23). -/

namespace Sys2Proof.Machine

/-! ### Registers -/

/-- The register of a result becomes undefined. -/
def Ctx.loseDest (c : Ctx) (d : Dest) : Ctx :=
  let u := c.undef
  match d with
  | .s n _ _ => { c with undef := { u with s := u.s ||| (1#32 <<< n) } }
  | .v n _ _ => { c with undef := { u with v := u.v ||| (1#32 <<< n) } }
  | .p n _ => { c with undef := { u with p := u.p ||| (1#8 <<< n) } }
  | .m n _ => { c with undef := { u with m := u.m ||| (1#8 <<< n) } }
  | .k n _ => { c with undef := { u with k := u.k ||| (1#16 <<< n) } }
  | .tile n _ => c.loseTile n
  | .mem _ _ | .stat _ _ => c

/-- Results in flight are lost; a flag in flight may land or not. -/
def State.loseResults (s : State) (c : Ctx) : Ctx :=
  let c := c.writes.foldl (fun c w => c.loseDest w.dest) c
  let c := c.ep.foldl (fun c e =>
    let c := c.loseDest (.k e.reg 0)
    if e.pred = 0 then c else c.loseDest (.p e.pred false)) c
  let c := c.engA.foldl (fun c e => match e.kind with
    | .look _ r _ => c.loseDest (.k r 0)
    | _ => c) c
  let c := (c.remote.filterMap Remote.reg).foldl (fun c r => c.loseDest (.k r.1 0)) c
  let c := (List.zipIdx c.flags).foldl (fun c f => c.stick f.1.slot (f.1.flags &&& s.free (170 + f.2) 5)) c
  { c with writes := [], flags := [], ep := [] }

/-! ### Memory -/

def State.loseAll (s : State) (c : Ctx) (l : List (Addr × Nat)) : State := l.foldl (fun s x => s.loseAt c x.1 x.2) s

/-- What a stream has still to write: pushed entries at their places, and its tensor descriptor. -/
def State.entryTargets (s : State) (c : Ctx) (b : Binding) : List (Addr × Nat) :=
  let n := b.entries.length
  if n = 0 ∨ (b.kind ≠ .write ∧ b.kind ≠ .scatter) then []
  else if b.kind = .scatter then (b.idx.take n).map fun x => (b.row x.toNat, b.rowBytes)
  else if b.pipe then
    let d := c.pipeDef (patPipeNo b.pat.toNat)
    let r := s.pipeReg c (patPipeNo b.pat.toNat)
    (List.range n).map fun k => (⟨.boez, c.pipeBase (patPipeNo b.pat.toNat) - boezemBase
      + (r.tail + k * b.eBytes) % max 1 (64 * d.slotSize * d.slots)⟩, b.eBytes)
  else
    let p := b.pat.toNat
    (((List.range (n * b.eBytes)).map fun j => b.pos * b.eBytes + j).filter (· < patTotal p)).map (fun j => (patAt p j, 1))
      ++ (patDesc p).toList.map fun a => (a, 4)

/-- What a culvert operation has still to write, its completion object among it. -/
def State.opTargets (s : State) (c : Ctx) (e : EngOp) : List (Addr × Nat) :=
  (e.done.toList.map fun a => (a, 16)) ++ ((e.owes.map fun x => x.1).toList.map fun a => (a, 4)) ++
    match e.kind, dstSeq e.kind with
    | .closing b, _ => s.entryTargets c b
    | .publ va, _ =>
      match s.walk c.launch.asid va.toNat with
      | .ok l => [(⟨.virt, l.va⟩, l.size)]
      | .error _ => []
    | .copyA _ (some d), some (n, at_, _) =>
      ((List.range (n - e.pos)).map fun k => (at_ (e.pos + k), 1)) ++ (patDesc (dstPat d)).toList.map fun a => (a, 4)
    | _, some (n, at_, _) => if e.pos < n then [(at_ e.pos, n - e.pos)] else []
    | _, none => []

/-- Rows a matrix store of a specifier writes, from a row on, with its tensor descriptor. -/
def rowTargets (x : BitVec 256) (rows len row : Nat) : List (Addr × Nat) :=
  (((List.range rows).filter (row ≤ ·)).map fun r => (storeRowAt x r, len)) ++ if spDv x then [(spDesc x, 4)] else []
/-- What a command of the store path has still to write. -/
def StoreCmd.targets (x : StoreCmd) : List (Addr × Nat) :=
  if x.load then [] else rowTargets x.spec x.rows.length ((x.rows.head?).elim 0 List.length) x.row
/-- The same for a command that waits on its tile. -/
def MCmd.targets (m : MCmd) : List (Addr × Nat) :=
  match m.kind with
  | .shrd x _ _ _ _ => rowTargets x (spRows x) (encBytes (spEnc x) (spKlen x)) 0
  | .stacc x => rowTargets x (spRows x) (4 * spKlen x) 0
  | _ => []

/-! ### The breach -/

/-- Whether a culvert operation is in a queue that must be empty: one that holds an operation entry, a read that waits, or writes pushed entries
(R149, R382, R396). Open sends do not count (R78). -/
def EngOp.queued (e : EngOp) : Bool :=
  e.entry || match e.kind with
    | .look _ _ _ => true
    | .closing b => !b.entries.isEmpty && e.phase != .updating
    | _ => false

/-- What is still in flight or queued at a context's stop is dropped, and what it would have written is undefined. A program that
keeps the duties of R149 has nothing there. -/
def State.breach (s : State) (i : CtxId) : State :=
  let c := s.ctx i
  let ops := c.ops.filter EngOp.queued
  let mine := (s.core i.core).store.filter fun x => x.ctx == i
  let arr := (s.pol (polOf i.core)).arr.filter fun a => a.ctx == i
  let s := s.loseAll c ((ops.flatMap (s.opTargets c)) ++ (c.q.toList.flatMap (s.entryTargets c)) ++ mine.flatMap StoreCmd.targets
    ++ c.mq.flatMap MCmd.targets)
  let s := (s.peers.filter fun p => p.src = i).foldl (fun s p => p.cells.foldl (fun s x => s.undefine x.1 1) s) s
  let s := c.writes.foldl (fun s w => match w.dest with
    | .mem a l => s.undefine a l.length
    | .stat a _ => s.undefine a 32
    | _ => s) s
  let s := c.ep.foldl (fun s e => match e.kind with
    | .pop a _ => s.undefine a 32
    | _ => s) s
  let tiles := (c.mq.filterMap fun m => if m.kind.stores then none else some m.tile) ++ arr.map ArrStep.tile
    ++ (mine.filter StoreCmd.load).map StoreCmd.tile
  let c := tiles.foldl Ctx.loseTile (s.loseResults c)
  let c := { c with mq := [], eng := c.eng.filter fun e => !e.queued, engA := c.engA.filter fun e => !e.queued
                    q := c.q.map fun b => if b.kind = .write ∨ b.kind = .scatter then { b with entries := [], idx := [] } else b }
  (({ s with peers := s.peers.filter fun p => p.src != i } : State).dropWork i).mapCtx i fun _ => c

/-! ### The stop (R150) -/

/-- A victim stops: its lease is released, its late replies go to the buffer, statuses end, its sends are returned, and the core
goes on with another context. -/
def execVictimStop (c : CtxId) (s : State) : Out :=
  .next <|
  let x := s.ctx c
  match x.victim with
  | none => s
  | some r =>
    if !s.mayStop x then s
    else
      let leased := x.lease != .none
      let s := if leased then s.dropLease c else s
      let s := s.mapCtx c fun x => x.lateAll.endStatuses
      let s := s.tierWrite .reeve (s.saveBase r + 0x0A00) (List.replicate 512 0)
      let s := s.returnSends c (s.saveBase r + 0x0A00)
      let vas := (List.range 8).map fun j =>
        (s.slu.sends.find? fun e => e.owner == c && e.record == some (s.saveBase r + 0x0A00 + 64 * j)).bind SlSend.descVa
      let stop := fun (v : Save) => if v.num = r then { v with lease := leased, vas := vas, stopAt := s.cycle } else v
      let s := { s with saves := s.saves.map stop }.orphanSends c
      let s := (s.breach c).mapCtx c fun x => { x with phase := .saving, stalled := false, barrier := none }
      s.arbitrate c.core

end Sys2Proof.Machine
end

