-- ==== Sys2Proof/Machine/Events.lean ====
section
/-! DEFINITION. What happens in a core at its own time: results that land (R189, R207, R407), episode and queue operations
(R170, R407), peer stores (R198, R199), trap entry (R203) and the end of a stall (R145, R190). -/

namespace Sys2Proof.Machine

/-! ### Episode and queue operations (R407) -/

/-- The handle an operation acts on, and the learner queue. -/
def epHandle : EpKind → Option Nat
  | .step h _ _ _ => some (bits h.toNat 0 32)
  | .close h _ => some (bits h.toNat 0 32)
  | _ => none
def epQueue : EpKind → Option Nat
  | .pop _ q => some q
  | .ack _ _ q => some q
  | _ => none

/-- Whether one operation must perform before another: they are in program order on one handle (R170), or C0 and C1 of one
bundle on one learner queue (R276). -/
def epBefore (x e : EpOp) : Bool :=
  x.seq < e.seq && (((epHandle x.kind).isSome && epHandle x.kind == epHandle e.kind)
    || (x.issued == e.issued && (epQueue x.kind).isSome && epQueue x.kind == epQueue e.kind))

/-- Whether an operation may perform: it has started, and those that must come first have performed. -/
def epMay (c : Ctx) (e : EpOp) : Bool :=
  e.start.isSome && e.res.isNone && c.ep.all fun x => x.res.isSome || !epBefore x e

/-- The effect of an operation with what it leaves: the register's value, the predicate, the descriptor's bytes. -/
def State.epRun (s : State) (k : EpKind) : State × Word × Bool × List Byte :=
  match k with
  | .opn key par => let (s, r) := s.epOpen key.toNat par.toNat; (s, BitVec.ofNat 64 r, false, [])
  | .step h v a o => let (s, r) := s.epStep h.toNat v.toNat a.toNat o.toNat; (s, BitVec.ofNat 64 r, false, [])
  | .close h w => let (s, r) := s.epClose h.toNat w.toNat; (s, BitVec.ofNat 64 r, false, [])
  | .pop _ q =>
    let (s, st, d) := s.lqPop q
    (s, BitVec.ofNat 64 st, st == 7 || st == 9, if st = 0 then leBytes d 32 else [])
  | .ack sq g q => let (s, r) := s.lqAck q sq.toNat g.toNat; (s, BitVec.ofNat 64 r, false, [])

def State.mapEp (s : State) (i : CtxId) (seq : Nat) (f : EpOp → EpOp) : State :=
  s.mapCtx i fun c => { c with ep := c.ep.map fun e => if e.seq = seq then f e else e }

/-- One move of an operation: it starts once its FENCEs let it, or performs. -/
def State.epMove (s : State) (i : CtxId) (seq : Nat) : State :=
  let c := s.ctx i
  match c.ep.find? fun e => e.seq == seq with
  | none => s
  | some e =>
    if e.start.isNone then (if s.waitsMet c e.waits then s.mapEp i seq fun e => { e with start := some s.cycle } else s)
    else if epMay c e then
      let (s, v, p, l) := s.epRun e.kind
      s.mapEp i seq fun e => { e with res := some (v, p, l) }
    else s

/-- Whether an operation's results are due: 4,096 cycles after its start. -/
def EpOp.due (now : Nat) (e : EpOp) : Bool := e.start.any fun t => t + 4096 ≤ now
/-- Whether an operation performs now at the latest. It does so at the end of an I/O cycle, after the rewards of that cycle
(R171); two polder cycles hold at least one such end. -/
def State.epLast (s : State) (e : EpOp) : Bool := e.due s.cycle || (e.due (s.cycle + 2) && s.ioEnds)

/-- The results of one operation land. -/
def State.epLand (s : State) (i : CtxId) (e : EpOp) : State :=
  match e.res with
  | none => s
  | some (v, p, l) =>
    let s := match e.kind with
      | .pop a _ => if l.isEmpty then s else s.poke a l
      | _ => s
    s.mapCtx i fun c =>
      let c := { c with ep := c.ep.filter fun x => x.seq != e.seq }
      let c := s.landDest c (.k e.reg v)
      match e.kind with
      | .pop _ _ => if e.pred = 0 then c else s.landDest c (.p e.pred p)
      | _ => c

/-- What is due performs, in issue order, and its results land. -/
def State.epDue (s : State) (i : CtxId) : State :=
  let d := (s.ctx i).ep.filter s.epLast
  let s := d.foldl (fun s e => s.epMove i e.seq) s
  ((s.ctx i).ep.filter (EpOp.due s.cycle)).foldl (fun s e => s.epLand i e) s

/-! ### Results, traps, peer stores -/

/-- Every result of a context whose bound has come lands (R189, R191, R207, R208, R407). -/
def execResultLand (c : CtxId) (s : State) : Out := .next ((s.landDue c).epDue c)

/-- A pending trap is entered once every exposed result and peer store of the context has landed (R203). -/
def execTrapEntry (c : CtxId) (s : State) : Out :=
  .next <|
  let x := s.ctx c
  match x.trap with
  | none => s
  | some t => if s.exposed x then s else (s.bringIn c).takeTrap t

/-- Whether a store writes into an 8-byte word. -/
def PeerStore.hits (p : PeerStore) (w : Nat) : Bool := p.cells.any fun c => c.1 / 8 == w

/-- Whether the store at a place among those that land keeps a cell: no other hits its word and wins. -/
def keeps (l : List (PeerStore × Nat)) (x : PeerStore × Nat) (a : Nat) : Bool :=
  l.all fun y => y.2 == x.2 || !y.1.hits (a / 8) || x.1.src.core < y.1.src.core || (x.1.src.core == y.1.src.core && y.2 < x.2)

/-- The cells that stand after the stores of a list have landed together. -/
def landCells (l : List PeerStore) : List (Nat × Byte) :=
  let z := List.zipIdx l
  z.flatMap fun x => x.1.cells.filter fun c => keeps z x c.1

/-- Peer and multicast stores land 8 cycles after their issue. To a culvert of the destination context they are stores of
its own at the landing (R198, R199, R256); a FENCE orders those the context itself issued before it (R252). -/
def execPeerStoreLand (s : State) : Out :=
  .next <|
  let due := s.peers.filter fun p => p.due ≤ s.cycle
  if due.isEmpty then s
  else
    let cells := landCells due
    let old := cells.map fun c => (c.1, s.seen s.undef c.1 (s.mem.read c.1))
    let s1 := ({ s with peers := s.peers.filter fun p => s.cycle < p.due, landedNow := s.landedNow ++ old } : State).pokeCells cells
    let loose := (due.filter PeerStore.loose).flatMap fun p => p.mc.elim [] Prod.snd
    let s1 := loose.foldl (fun s a => s.undefine a 1) (cells.foldl (fun s c => s.clobber c.1 1) s1)
    s.tasks.foldl (fun s c =>
      let mine := old.filter fun x => c.shareBase ≤ x.1 && x.1 < c.shareBase + c.launch.share
      if mine.isEmpty then s
      else
        let by_ := fun (a : Nat) => match due.filter fun p => p.cells.any fun x => x.1 == a with
          | [p] => if p.src = c.id then p.issued else s.cycle
          | _ => s.cycle
        s.mapCtx c.id fun c => { c with recent := c.recent ++ mine.map fun x => (x.1, x.2, s.cycle, by_ x.1) }) s1

/-- A stalled context's condition holds: its bundle may issue (R190); a core that issues nothing arbitrates (R145). -/
def execStallRelease (c : CtxId) (s : State) : Out :=
  .next <|
  let s := s.mapCtx c fun x => { x with stalled := false }
  if (s.core c.core).run.isNone && (s.ctx c).phase == .ready then s.arbitrate c.core else s

end Sys2Proof.Machine
end

