-- ==== Sys2Proof/Machine/Scalar.lean ====
section
/-! DEFINITION. The meanings of the S slot (R267, R268, R307 to R318). Latencies are those of R189. -/

namespace Sys2Proof.Machine

/-- Shapes shared by the register forms: a result and flags from two operand patterns. -/
def State.binS (s : State) (lat : Nat) (d a b : SNo) (f : Word → Word → Int × BitVec 5) : State :=
  let r := f (s.readS a.val) (s.readS b.val)
  s.putS lat d r.1 r.2
/-- One source. -/
def State.unS (s : State) (d a : SNo) (f : Word → Int × BitVec 5) : State :=
  let r := f (s.readS a.val)
  s.putS 1 d r.1 r.2

def execSnop (s : State) : Out := .next s
def execAdd (d a b : SNo) (s : State) : Out :=
  .next (s.op (.add d a b) fun s => s.binS 1 d a b fun x y => (sgn x + sgn y, wrapFlag (sgn x + sgn y)))
def execSub (d a b : SNo) (s : State) : Out :=
  .next (s.op (.sub d a b) fun s => s.binS 1 d a b fun x y => (sgn x - sgn y, wrapFlag (sgn x - sgn y)))
def execMul (d a b : SNo) (s : State) : Out :=
  .next (s.op (.mul d a b) fun s => s.binS 3 d a b fun x y => (sgn x * sgn y, wrapFlag (sgn x * sgn y)))
def execMulh (d a b : SNo) (s : State) : Out :=
  .next (s.op (.mulh d a b) fun s => s.binS 3 d a b fun x y => (sgn x * sgn y / 2 ^ 64, 0))
def execMulhn (d a b : SNo) (s : State) : Out :=
  .next (s.op (.mulhn d a b) fun s => s.binS 3 d a b fun x y => (uns x * uns y / 2 ^ 64, 0))
def execDiv (d a b : SNo) (s : State) : Out :=
  .next (s.op (.div d a b) fun s => s.binS 20 d a b fun x y =>
    if y = 0 then (0, flagDivz) else (quoT (sgn x) (sgn y), wrapFlag (quoT (sgn x) (sgn y))))
def execDivn (d a b : SNo) (s : State) : Out :=
  .next (s.op (.divn d a b) fun s => s.binS 20 d a b fun x y => if y = 0 then (0, flagDivz) else (uns x / uns y, 0))
def execRem (d a b : SNo) (s : State) : Out :=
  .next (s.op (.rem d a b) fun s => s.binS 20 d a b fun x y =>
    if y = 0 then (sgn x, flagDivz) else (sgn x - sgn y * quoT (sgn x) (sgn y), 0))
def execRemn (d a b : SNo) (s : State) : Out :=
  .next (s.op (.remn d a b) fun s => s.binS 20 d a b fun x y =>
    if y = 0 then (uns x, flagDivz) else (uns x - uns y * (uns x / uns y), 0))
def execAnd (d a b : SNo) (s : State) : Out :=
  .next (s.op (.and d a b) fun s => s.binS 1 d a b fun x y => (uns (x &&& y), 0))
def execOr (d a b : SNo) (s : State) : Out :=
  .next (s.op (.or d a b) fun s => s.binS 1 d a b fun x y => (uns (x ||| y), 0))
def execXor (d a b : SNo) (s : State) : Out :=
  .next (s.op (.xor d a b) fun s => s.binS 1 d a b fun x y => (uns (x ^^^ y), 0))

/-- Shift amount of the register forms: bits [5:0] (R307). -/
def amount (y : Word) : Nat := bits y.toNat 0 6

def execShl (d a b : SNo) (s : State) : Out :=
  .next (s.op (.shl d a b) fun s => s.binS 1 d a b fun x y => (sgn x * 2 ^ amount y, 0))
def execShr (d a b : SNo) (s : State) : Out :=
  .next (s.op (.shr d a b) fun s => s.binS 1 d a b fun x y => (uns x / 2 ^ amount y, 0))
def execShra (d a b : SNo) (s : State) : Out :=
  .next (s.op (.shra d a b) fun s => s.binS 1 d a b fun x y => (sgn x / 2 ^ amount y, 0))
def execMin (d a b : SNo) (s : State) : Out :=
  .next (s.op (.min d a b) fun s => s.binS 1 d a b fun x y => (min (sgn x) (sgn y), 0))
def execMax (d a b : SNo) (s : State) : Out :=
  .next (s.op (.max d a b) fun s => s.binS 1 d a b fun x y => (max (sgn x) (sgn y), 0))
def execMinn (d a b : SNo) (s : State) : Out :=
  .next (s.op (.minn d a b) fun s => s.binS 1 d a b fun x y => (min (uns x) (uns y), 0))
def execMaxn (d a b : SNo) (s : State) : Out :=
  .next (s.op (.maxn d a b) fun s => s.binS 1 d a b fun x y => (max (uns x) (uns y), 0))
def execClz (d a : SNo) (s : State) : Out :=
  .next (s.op (.clz d a) fun s => s.unS d a fun x => (lz x.toNat 64, 0))
def execCtz (d a : SNo) (s : State) : Out :=
  .next (s.op (.ctz d a) fun s => s.unS d a fun x => (ctz x.toNat 64, 0))
def execPopc (d a : SNo) (s : State) : Out :=
  .next (s.op (.popc d a) fun s => s.unS d a fun x => (popc x.toNat 64, 0))

/-! Immediate forms (R308) -/

def execAddi (d a : SNo) (imm : BitVec 15) (s : State) : Out :=
  .next (s.op (.addi d a imm) fun s => s.unS d a fun x => (sgn x + imm.toInt, wrapFlag (sgn x + imm.toInt)))
def execAndi (d a : SNo) (imm : BitVec 15) (s : State) : Out :=
  .next (s.op (.andi d a imm) fun s => s.unS d a fun x => (uns (x &&& imm.signExtend 64), 0))
def execOri (d a : SNo) (imm : BitVec 15) (s : State) : Out :=
  .next (s.op (.ori d a imm) fun s => s.unS d a fun x => (uns (x ||| imm.zeroExtend 64), 0))
def execXori (d a : SNo) (imm : BitVec 15) (s : State) : Out :=
  .next (s.op (.xori d a imm) fun s => s.unS d a fun x => (uns (x ^^^ imm.zeroExtend 64), 0))
def execShlImm (d a : SNo) (sh : Fin 64) (s : State) : Out :=
  .next (s.op (.shlImm d a sh) fun s => s.unS d a fun x => (sgn x * 2 ^ sh.val, 0))
def execShrImm (d a : SNo) (sh : Fin 64) (s : State) : Out :=
  .next (s.op (.shrImm d a sh) fun s => s.unS d a fun x => (uns x / 2 ^ sh.val, 0))
def execShraImm (d a : SNo) (sh : Fin 64) (s : State) : Out :=
  .next (s.op (.shraImm d a sh) fun s => s.unS d a fun x => (sgn x / 2 ^ sh.val, 0))
def execLil (d : SNo) (imm : BitVec 20) (s : State) : Out :=
  .next (s.op (.lil d imm) fun s => s.putS 1 d imm.toInt 0)
def execLih (d : SNo) (imm : BitVec 20) (s : State) : Out :=
  .next (s.op (.lih d imm) fun s => s.putS 1 d (sgn (s.readS d.val) * 2 ^ 20 + imm.toNat) 0)
def execExt (d a : SNo) (pos lenM1 : Fin 64) (sg : Bool) (s : State) : Out :=
  .next (s.op (.ext d a pos lenM1 sg) fun s => s.unS d a fun x =>
    let v : Int := bits x.toNat pos.val (lenM1.val + 1)
    (if sg then sext v (lenM1.val + 1) else v, 0))

/-! Predicates and selection (R312) -/

def execPcmp (pd : PNo) (a b : SNo) (c : Cond) (s : State) : Out :=
  .next (s.op (.pcmp pd a b c) fun s => s.write 1 (.p pd.val (condHolds c (s.readS a.val) (s.readS b.val))))
def execPlog (pd pa pb : PNo) (tt : BitVec 4) (s : State) : Out :=
  .next (s.op (.plog pd pa pb tt) fun s =>
    s.write 1 (.p pd.val (tt.getLsbD (2 * (s.readP pa.val).toNat + (s.readP pb.val).toNat))))
def execSel (d a b : SNo) (p : PNo) (s : State) : Out :=
  .next (s.op (.sel d a b p) fun s =>
    s.write 1 (.s d.val (if s.readP p.val then s.readS a.val else s.readS b.val) false))

/-! Loads and stores (R313, R314) -/

/-- The address of R313. -/
def State.smAddr (s : State) (base : SNo) (off : BitVec 12) : Int := uns (s.readS base.val) + off.toInt

def execLd (d base : SNo) (sz : MemSz) (off : BitVec 12) (s : State) : Out :=
  .next (s.op (.ld d base sz off) fun s => s.withLocal (s.smAddr base off) (memSzBytes sz) true fun s a =>
    let (s, l, bad) := s.loadBytes a (memSzBytes sz)
    s.write 4 (.s d.val (BitVec.ofInt 64 (memSzVal sz (leNat l))) bad))
def execSt (d base : SNo) (sz : StSz) (off : BitVec 12) (s : State) : Out :=
  .next (s.op (.st d base sz off) fun s => s.withLocal (s.smAddr base off) (stSzBytes sz) false fun s a =>
    s.storeLocal a (leBytes (s.readS d.val).toNat (stSzBytes sz)))
def execLd2 (d base : SNo) (off : BitVec 12) (s : State) : Out :=
  .next (s.op (.ld2 d base off) fun s => s.withLocal (s.smAddr base off) 16 true fun s a =>
    let (s, l, bad) := s.loadBytes a 16
    (s.write 4 (.s d.val (BitVec.ofNat 64 (leNat (l.take 8))) bad)).write 4
      (.s (d.val + 1) (BitVec.ofNat 64 (leNat (l.drop 8))) bad))
def execSt2 (d base : SNo) (off : BitVec 12) (s : State) : Out :=
  .next (s.op (.st2 d base off) fun s => s.withLocal (s.smAddr base off) 16 false fun s a =>
    s.storeLocal a (leBytes (s.readS d.val).toNat 8 ++ leBytes (s.readS (d.val + 1)).toNat 8))

/-! Cross-file moves and CSRs (R206, R315, R316) -/

def execMovxV (d : SNo) (r : VNo) (e : Fin 16) (s : State) : Out :=
  .next (s.op (.movxV d r e) fun s => s.write 3 (.s d.val ((s.readV r.val).extractLsb' (64 * e.val) 64) false))
def execMovxK (d : SNo) (r : KNo) (s : State) : Out :=
  .next (s.op (.movxK d r) fun s => s.write 3 (.s d.val (s.readK r.val) false))

/-- The value of a CSR (R206): those of the save area, and the views 0x040 to 0x044. -/
def State.csrValue (s : State) (n : Nat) : Word :=
  if h : n < 17 then s.cur.csr[n]
  else if n = 0x40 then BitVec.ofNat 64 (s.cur.id.slot + s.cur.id.core * 4 + polOf s.cur.id.core * 2 ^ 9)
  else if n = 0x41 then BitVec.ofNat 64 s.cycle
  else if n = 0x42 then BitVec.ofNat 64 s.ftime
  else if n = 0x43 then BitVec.ofNat 64 s.cur.budget
  else if n = 0x44 then BitVec.ofNat 64 s.cur.gap
  else 0
/-- The bits of a CSR that are not reserved (R206 to R208). -/
def csrMask (n : Nat) : Word :=
  match n with
  | 0 => 0xFFFF
  | 4 => 0x1F
  | 9 => 0x3FFFFFFF
  | 11 => 0x1FF
  | _ => BitVec.allOnes 64

def execCsrr (d : SNo) (c : BitVec 12) (s : State) : Out :=
  .next (s.op (.csrr d c) fun s => s.write 1 (.s d.val (s.csrValue c.toNat) false))
def execCsrw (a : SNo) (c : BitVec 12) (s : State) : Out :=
  .next (s.op (.csrw a c) fun s =>
    s.setCur fun x => { x with csr := x.csr.setIfInBounds c.toNat (s.readS a.val &&& csrMask c.toNat)
                               feAt := if c.toNat = csrFeInfo then none else x.feAt })

/-! Fences and random bits (R317, R318) -/

def execFence (sc : Scope) (s : State) : Out :=
  .next (s.op (.fence sc) fun s => s.setCur fun c => { c with newFence := c.newFence ++ [sc] })

/-- Discard the entries of a read stream that have not been popped: its culvert reads again from the next pop. Of the stores until
now only the bundle's own, `own`, may be missed (R248). -/
def refillStream (now : Nat) (own : List (Nat × Byte)) (b : Binding) : Binding :=
  if b.kind = .read ∨ b.kind = .gather then
    { b with entries := [], fetched := b.pos, idxUsed := 0, since := now + 1, racy := own }
  else b

def execFenceQ (s : State) : Out :=
  .next (s.op .fenceQ fun s => s.setCur fun c => { c with q := c.q.map (refillStream s.cycle s.ownStores) })

def execRand (d : SNo) (s : State) : Out :=
  .next (s.op (.rand d) fun s =>
    let seed := s.cur.csrs csrSeed
    let (s, h) := s.draw
    s.write 3 (.s d.val (hashFin (seed + h)) false))

end Sys2Proof.Machine
end

