-- ==== Sys2Proof/Machine/Dispatch.lean ====
section
/-! DEFINITION. The dispatch of every instruction and event to its meaning. -/

namespace Sys2Proof.Machine

def exec (i : Instr) (s : State) : Host.Outcome State Fault Refusal :=
  match i with
  | .bnop => Sys2Proof.Machine.execBnop s
  | .br t0 t1 t2 t3 => Sys2Proof.Machine.execBr t0 t1 t2 t3 s
  | .jmp off => Sys2Proof.Machine.execJmp off s
  | .call off => Sys2Proof.Machine.execCall off s
  | .calli bt => Sys2Proof.Machine.execCalli bt s
  | .ret => Sys2Proof.Machine.execRet s
  | .setbt bt off => Sys2Proof.Machine.execSetbt bt off s
  | .loopn dims first => Sys2Proof.Machine.execLoopn dims first s
  | .loops n q p => Sys2Proof.Machine.execLoops n q p s
  | .loopb n count => Sys2Proof.Machine.execLoopb n count s
  | .yrun n => Sys2Proof.Machine.execYrun n s
  | .tend => Sys2Proof.Machine.execTend s
  | .trap code => Sys2Proof.Machine.execTrap code s
  | .rft => Sys2Proof.Machine.execRft s
  | .semw it off => Sys2Proof.Machine.execSemw it off s
  | .barw pipe => Sys2Proof.Machine.execBarw pipe s
  | .snop => Sys2Proof.Machine.execSnop s
  | .add d a b => Sys2Proof.Machine.execAdd d a b s
  | .sub d a b => Sys2Proof.Machine.execSub d a b s
  | .mul d a b => Sys2Proof.Machine.execMul d a b s
  | .mulh d a b => Sys2Proof.Machine.execMulh d a b s
  | .mulhn d a b => Sys2Proof.Machine.execMulhn d a b s
  | .div d a b => Sys2Proof.Machine.execDiv d a b s
  | .divn d a b => Sys2Proof.Machine.execDivn d a b s
  | .rem d a b => Sys2Proof.Machine.execRem d a b s
  | .remn d a b => Sys2Proof.Machine.execRemn d a b s
  | .and d a b => Sys2Proof.Machine.execAnd d a b s
  | .or d a b => Sys2Proof.Machine.execOr d a b s
  | .xor d a b => Sys2Proof.Machine.execXor d a b s
  | .shl d a b => Sys2Proof.Machine.execShl d a b s
  | .shr d a b => Sys2Proof.Machine.execShr d a b s
  | .shra d a b => Sys2Proof.Machine.execShra d a b s
  | .min d a b => Sys2Proof.Machine.execMin d a b s
  | .max d a b => Sys2Proof.Machine.execMax d a b s
  | .minn d a b => Sys2Proof.Machine.execMinn d a b s
  | .maxn d a b => Sys2Proof.Machine.execMaxn d a b s
  | .clz d a => Sys2Proof.Machine.execClz d a s
  | .ctz d a => Sys2Proof.Machine.execCtz d a s
  | .popc d a => Sys2Proof.Machine.execPopc d a s
  | .addi d a imm => Sys2Proof.Machine.execAddi d a imm s
  | .andi d a imm => Sys2Proof.Machine.execAndi d a imm s
  | .ori d a imm => Sys2Proof.Machine.execOri d a imm s
  | .xori d a imm => Sys2Proof.Machine.execXori d a imm s
  | .shlImm d a sh => Sys2Proof.Machine.execShlImm d a sh s
  | .shrImm d a sh => Sys2Proof.Machine.execShrImm d a sh s
  | .shraImm d a sh => Sys2Proof.Machine.execShraImm d a sh s
  | .lil d imm => Sys2Proof.Machine.execLil d imm s
  | .lih d imm => Sys2Proof.Machine.execLih d imm s
  | .ext d a pos lenM1 sgn => Sys2Proof.Machine.execExt d a pos lenM1 sgn s
  | .pcmp pd a b c => Sys2Proof.Machine.execPcmp pd a b c s
  | .plog pd pa pb tt => Sys2Proof.Machine.execPlog pd pa pb tt s
  | .sel d a b p => Sys2Proof.Machine.execSel d a b p s
  | .ld d base sz off => Sys2Proof.Machine.execLd d base sz off s
  | .st d base sz off => Sys2Proof.Machine.execSt d base sz off s
  | .ld2 d base off => Sys2Proof.Machine.execLd2 d base off s
  | .st2 d base off => Sys2Proof.Machine.execSt2 d base off s
  | .movxV d r e => Sys2Proof.Machine.execMovxV d r e s
  | .movxK d r => Sys2Proof.Machine.execMovxK d r s
  | .csrr d c => Sys2Proof.Machine.execCsrr d c s
  | .csrw a c => Sys2Proof.Machine.execCsrw a c s
  | .fence sc => Sys2Proof.Machine.execFence sc s
  | .fenceQ => Sys2Proof.Machine.execFenceQ s
  | .rand d => Sys2Proof.Machine.execRand d s
  | .vnop => Sys2Proof.Machine.execVnop s
  | .vadd o => Sys2Proof.Machine.execVadd o s
  | .vsub o => Sys2Proof.Machine.execVsub o s
  | .vadds o => Sys2Proof.Machine.execVadds o s
  | .vsubs o => Sys2Proof.Machine.execVsubs o s
  | .vneg o => Sys2Proof.Machine.execVneg o s
  | .vabs o => Sys2Proof.Machine.execVabs o s
  | .vmin o => Sys2Proof.Machine.execVmin o s
  | .vmax o => Sys2Proof.Machine.execVmax o s
  | .vmul o => Sys2Proof.Machine.execVmul o s
  | .vmulh o => Sys2Proof.Machine.execVmulh o s
  | .vmulw o => Sys2Proof.Machine.execVmulw o s
  | .vmac o => Sys2Proof.Machine.execVmac o s
  | .vmacw o => Sys2Proof.Machine.execVmacw o s
  | .vand o => Sys2Proof.Machine.execVand o s
  | .vor o => Sys2Proof.Machine.execVor o s
  | .vxor o => Sys2Proof.Machine.execVxor o s
  | .vshl o => Sys2Proof.Machine.execVshl o s
  | .vshr o => Sys2Proof.Machine.execVshr o s
  | .vshra o => Sys2Proof.Machine.execVshra o s
  | .vshrrRne o => Sys2Proof.Machine.execVshrrRne o s
  | .vshrrRtz o => Sys2Proof.Machine.execVshrrRtz o s
  | .vshrrRsto o => Sys2Proof.Machine.execVshrrRsto o s
  | .vshrsRne o => Sys2Proof.Machine.execVshrsRne o s
  | .vshrsRtz o => Sys2Proof.Machine.execVshrsRtz o s
  | .vshrsRsto o => Sys2Proof.Machine.execVshrsRsto o s
  | .vnarrowRne o => Sys2Proof.Machine.execVnarrowRne o s
  | .vnarrowRtz o => Sys2Proof.Machine.execVnarrowRtz o s
  | .vnarrowRsto o => Sys2Proof.Machine.execVnarrowRsto o s
  | .vwiden o => Sys2Proof.Machine.execVwiden o s
  | .vcmp o => Sys2Proof.Machine.execVcmp o s
  | .vsel o => Sys2Proof.Machine.execVsel o s
  | .vmlog o => Sys2Proof.Machine.execVmlog o s
  | .vmpop o => Sys2Proof.Machine.execVmpop o s
  | .vbcast o => Sys2Proof.Machine.execVbcast o s
  | .vperm o => Sys2Proof.Machine.execVperm o s
  | .vslide o => Sys2Proof.Machine.execVslide o s
  | .vredadd o => Sys2Proof.Machine.execVredadd o s
  | .vredmax o => Sys2Proof.Machine.execVredmax o s
  | .vredmin o => Sys2Proof.Machine.execVredmin o s
  | .vscan o => Sys2Proof.Machine.execVscan o s
  | .vclz o => Sys2Proof.Machine.execVclz o s
  | .vcensus o => Sys2Proof.Machine.execVcensus o s
  | .vexp2 o => Sys2Proof.Machine.execVexp2 o s
  | .vlog2 o => Sys2Proof.Machine.execVlog2 o s
  | .vrsqrt o => Sys2Proof.Machine.execVrsqrt o s
  | .vrecip o => Sys2Proof.Machine.execVrecip o s
  | .vld o => Sys2Proof.Machine.execVld o s
  | .vst o => Sys2Proof.Machine.execVst o s
  | .vlds o => Sys2Proof.Machine.execVlds o s
  | .vsts o => Sys2Proof.Machine.execVsts o s
  | .vgather o => Sys2Proof.Machine.execVgather o s
  | .vscatter o => Sys2Proof.Machine.execVscatter o s
  | .vpack4 o => Sys2Proof.Machine.execVpack4 o s
  | .vunpack4 o => Sys2Proof.Machine.execVunpack4 o s
  | .vbsenc o => Sys2Proof.Machine.execVbsenc o s
  | .vbsdec o => Sys2Proof.Machine.execVbsdec o s
  | .vsgnmap o => Sys2Proof.Machine.execVsgnmap o s
  | .vsgnapply o => Sys2Proof.Machine.execVsgnapply o s
  | .vmovx o => Sys2Proof.Machine.execVmovx o s
  | .vrfgate k => Sys2Proof.Machine.execVrfgate k s
  | .mnop => Sys2Proof.Machine.execMnop s
  | .mlease nM1 => Sys2Proof.Machine.execMlease nM1 s
  | .mfree => Sys2Proof.Machine.execMfree s
  | .mspec os v => Sys2Proof.Machine.execMspec os v s
  | .mspecf os field imm => Sys2Proof.Machine.execMspecf os field imm s
  | .mzero acc => Sys2Proof.Machine.execMzero acc s
  | .mlda os buf it => Sys2Proof.Machine.execMlda os buf it s
  | .mldb os buf it => Sys2Proof.Machine.execMldb os buf it s
  | .mmac b a acc => Sys2Proof.Machine.execMmac b a acc s
  | .mmacq b a => Sys2Proof.Machine.execMmacq b a s
  | .mrdacc os d sc => Sys2Proof.Machine.execMrdacc os d sc s
  | .mshrd os rnd sh acc => Sys2Proof.Machine.execMshrd os rnd sh acc s
  | .mstacc os acc => Sys2Proof.Machine.execMstacc os acc s
  | .mldacc os acc => Sys2Proof.Machine.execMldacc os acc s
  | .mrprog os pipe => Sys2Proof.Machine.execMrprog os pipe s
  | .mwait st b a => Sys2Proof.Machine.execMwait st b a s
  | .mtcinv => Sys2Proof.Machine.execMtcinv s
  | .mstat os => Sys2Proof.Machine.execMstat os s
  | .mfill t pat buf pipe => Sys2Proof.Machine.execMfill t pat buf pipe s
  | .mscale rnd sh acc => Sys2Proof.Machine.execMscale rnd sh acc s
  | .cnop => Sys2Proof.Machine.execCnop s
  | .cdesc a la q => Sys2Proof.Machine.execCdesc a la q s
  | .ccopy a b c d cl sl dl => Sys2Proof.Machine.execCcopy a b c d cl sl dl s
  | .ccopya d cl q => Sys2Proof.Machine.execCcopya d cl q s
  | .cbind d cl w wr q => Sys2Proof.Machine.execCbind d cl w wr q s
  | .cunbind q => Sys2Proof.Machine.execCunbind q s
  | .ceos q => Sys2Proof.Machine.execCeos q s
  | .cidx a q => Sys2Proof.Machine.execCidx a q s
  | .cgather a b d cl tl q => Sys2Proof.Machine.execCgather a b d cl tl q s
  | .cscatter a b d cl tl q => Sys2Proof.Machine.execCscatter a b d cl tl q s
  | .ccnt a d ol => Sys2Proof.Machine.execCcnt a d ol s
  | .cwait a b ol => Sys2Proof.Machine.execCwait a b ol s
  | .csig a b c ol => Sys2Proof.Machine.execCsig a b c ol s
  | .publ a d cl => Sys2Proof.Machine.execPubl a d cl s
  | .coffl a b c d t f cl sl => Sys2Proof.Machine.execCoffl a b c d t f cl sl s
  | .crest a b c d t f cl dl => Sys2Proof.Machine.execCrest a b c d t f cl dl s
  | .fld a b r vec sz => Sys2Proof.Machine.execFld a b r vec sz s
  | .fst a b r vec sz => Sys2Proof.Machine.execFst a b r vec sz s
  | .fatom a b c d w64 op => Sys2Proof.Machine.execFatom a b c d w64 op s
  | .fcas a b c d w64 => Sys2Proof.Machine.execFcas a b c d w64 s
  | .fdrain => Sys2Proof.Machine.execFdrain s
  | .fwait a d => Sys2Proof.Machine.execFwait a d s
  | .fmsg a b c sl lenM1 => Sys2Proof.Machine.execFmsg a b c sl lenM1 s
  | .frts a => Sys2Proof.Machine.execFrts a s
  | .fcancel a => Sys2Proof.Machine.execFcancel a s
  | .fsig a b c => Sys2Proof.Machine.execFsig a b c s
  | .epopen a b d => Sys2Proof.Machine.execEpopen a b d s
  | .epstep a b c d sc => Sys2Proof.Machine.execEpstep a b c d sc s
  | .epclose a b sc => Sys2Proof.Machine.execEpclose a b sc s
  | .rwpost a b c sc => Sys2Proof.Machine.execRwpost a b c sc s
  | .lqpop a d p q => Sys2Proof.Machine.execLqpop a d p q s
  | .lqack a b sc q => Sys2Proof.Machine.execLqack a b sc q s
  | .keyop a b => Sys2Proof.Machine.execKeyop a b s
  | .tlbinv a b => Sys2Proof.Machine.execTlbinv a b s
  | .cstat a d ol => Sys2Proof.Machine.execCstat a d ol s
  | .coldReset b => Sys2Proof.Machine.execColdReset b s
  | .cxlReset b => Sys2Proof.Machine.execCxlReset b s
  | .resetCtlWarm b => Sys2Proof.Machine.execResetCtlWarm b s
  | .resetCtlCold b => Sys2Proof.Machine.execResetCtlCold b s
  | .thermalThrottle die => Sys2Proof.Machine.execThermalThrottle die s
  | .thermalRecover => Sys2Proof.Machine.execThermalRecover s
  | .thermalTrip => Sys2Proof.Machine.execThermalTrip s
  | .powerSample watts => Sys2Proof.Machine.execPowerSample watts s
  | .scrub line uncorrectable => Sys2Proof.Machine.execScrub line uncorrectable s
  | .tier2LinkDown link => Sys2Proof.Machine.execTier2LinkDown link s
  | .feWedged => Sys2Proof.Machine.execFeWedged s
  | .reeveHang r => Sys2Proof.Machine.execReeveHang r s
  | .reeveTrap r => Sys2Proof.Machine.execReeveTrap r s
  | .stateUe => Sys2Proof.Machine.execStateUe s
  | .dieLink => Sys2Proof.Machine.execDieLink s
  | .fatalDeadline => Sys2Proof.Machine.execFatalDeadline s
  | .hostMemRead line => Sys2Proof.Machine.execHostMemRead line s
  | .hostMemWrite line data be => Sys2Proof.Machine.execHostMemWrite line data be s
  | .negotiate => Sys2Proof.Machine.execNegotiate s
  | .registerGraph => Sys2Proof.Machine.execRegisterGraph s
  | .releaseGraph => Sys2Proof.Machine.execReleaseGraph s
  | .keyGenerate => Sys2Proof.Machine.execKeyGenerate s
  | .keyImport => Sys2Proof.Machine.execKeyImport s
  | .keyLoad => Sys2Proof.Machine.execKeyLoad s
  | .keyDestroy => Sys2Proof.Machine.execKeyDestroy s
  | .keySlotZeroise slot => Sys2Proof.Machine.execKeySlotZeroise slot s
  | .attest => Sys2Proof.Machine.execAttest s
  | .dumpClear => Sys2Proof.Machine.execDumpClear s
  | .flashWrite => Sys2Proof.Machine.execFlashWrite s
  | .thermalAck => Sys2Proof.Machine.execThermalAck s
  | .submitEnable v => Sys2Proof.Machine.execSubmitEnable v s
  | .submitDisable v => Sys2Proof.Machine.execSubmitDisable v s
  | .submitLineObservation line => Sys2Proof.Machine.execSubmitLineObservation line s
  | .xltInvGo v => Sys2Proof.Machine.execXltInvGo v s
  | .invalidationComplete => Sys2Proof.Machine.execInvalidationComplete s
  | .xltResumeRetry tag => Sys2Proof.Machine.execXltResumeRetry tag s
  | .xltResumeAbort tag => Sys2Proof.Machine.execXltResumeAbort tag s
  | .fabJobWrite v => Sys2Proof.Machine.execFabJobWrite v s
  | .counterClear off => Sys2Proof.Machine.execCounterClear off s
  | .hostRewardPost v => Sys2Proof.Machine.execHostRewardPost v s
  | .lqFlush q => Sys2Proof.Machine.execLqFlush q s
  | .registerWrite off v => Sys2Proof.Machine.execRegisterWrite off v s
  | .reqRd p => Sys2Proof.Machine.execReqRd p s
  | .reqWr p => Sys2Proof.Machine.execReqWr p s
  | .reqAt p => Sys2Proof.Machine.execReqAt p s
  | .resp p => Sys2Proof.Machine.execResp p s
  | .msg p => Sys2Proof.Machine.execMsg p s
  | .sig p => Sys2Proof.Machine.execSig p s
  | .rwpostArrival p => Sys2Proof.Machine.execRwpostArrival p s
  | .collChunk p => Sys2Proof.Machine.execCollChunk p s
  | .beacon b => Sys2Proof.Machine.execBeacon b s
  | .rts p => Sys2Proof.Machine.execRts p s
  | .accept p => Sys2Proof.Machine.execAccept p s
  | .full p => Sys2Proof.Machine.execFull p s
  | .token p => Sys2Proof.Machine.execToken p s
  | .ack p => Sys2Proof.Machine.execAck p s
  | .renew p => Sys2Proof.Machine.execRenew p s
  | .returnPkt p => Sys2Proof.Machine.execReturnPkt p s
  | .cancel p => Sys2Proof.Machine.execCancel p s
  | .done p => Sys2Proof.Machine.execDone p s
  | .purge p => Sys2Proof.Machine.execPurge p s
  | .spill p => Sys2Proof.Machine.execSpill p s
  | .pull p => Sys2Proof.Machine.execPull p s
  | .e2eTimeout key => Sys2Proof.Machine.execE2eTimeout key s
  | .rotorSlotStart plane => Sys2Proof.Machine.execRotorSlotStart plane s
  | .torusBeacon => Sys2Proof.Machine.execTorusBeacon s
  | .beaconLoss => Sys2Proof.Machine.execBeaconLoss s
  | .rotorResume => Sys2Proof.Machine.execRotorResume s
  | .linkReplay pair => Sys2Proof.Machine.execLinkReplay pair s
  | .lossOfLight pair => Sys2Proof.Machine.execLossOfLight pair s
  | .fldBound c => Sys2Proof.Machine.execFldBound c s
  | .grantDecision => Sys2Proof.Machine.execGrantDecision s
  | .tokenExpiry src msgid => Sys2Proof.Machine.execTokenExpiry src msgid s
  | .orphanTimeout src msgid => Sys2Proof.Machine.execOrphanTimeout src msgid s
  | .renewInterval msgid => Sys2Proof.Machine.execRenewInterval msgid s
  | .savedContextDiscard r => Sys2Proof.Machine.execSavedContextDiscard r s
  | .collNode inst node => Sys2Proof.Machine.execCollNode inst node s
  | .joinTimeout e => Sys2Proof.Machine.execJoinTimeout e s
  | .openLimit e => Sys2Proof.Machine.execOpenLimit e s
  | .orphanWindowExpiry => Sys2Proof.Machine.execOrphanWindowExpiry s
  | .lingerExpiry e => Sys2Proof.Machine.execLingerExpiry e s
  | .backwardScan e => Sys2Proof.Machine.execBackwardScan e s
  | .release q => Sys2Proof.Machine.execRelease q s
  | .descriptorReady q => Sys2Proof.Machine.execDescriptorReady q s
  | .faultDelivery tag => Sys2Proof.Machine.execFaultDelivery tag s
  | .faultDeliveryRetry tag => Sys2Proof.Machine.execFaultDeliveryRetry tag s
  | .cowFill tag => Sys2Proof.Machine.execCowFill tag s
  | .publSwap c seq => Sys2Proof.Machine.execPublSwap c seq s
  | .copyNodeRetire inst node => Sys2Proof.Machine.execCopyNodeRetire inst node s
  | .waitNodeMet inst node => Sys2Proof.Machine.execWaitNodeMet inst node s
  | .signalNodeRetire inst node => Sys2Proof.Machine.execSignalNodeRetire inst node s
  | .walkerStart inst node => Sys2Proof.Machine.execWalkerStart inst node s
  | .walkerEmit w => Sys2Proof.Machine.execWalkerEmit w s
  | .splitRequest p => Sys2Proof.Machine.execSplitRequest p s
  | .walkerSplit p => Sys2Proof.Machine.execWalkerSplit p s
  | .dispatch p => Sys2Proof.Machine.execDispatch p s
  | .overlayLoadDone c => Sys2Proof.Machine.execOverlayLoadDone c s
  | .startWaitMet c => Sys2Proof.Machine.execStartWaitMet c s
  | .taskRetire c => Sys2Proof.Machine.execTaskRetire c s
  | .sliceEnd core => Sys2Proof.Machine.execSliceEnd core s
  | .preemptMark p => Sys2Proof.Machine.execPreemptMark p s
  | .victimStop c => Sys2Proof.Machine.execVictimStop c s
  | .saveDone c => Sys2Proof.Machine.execSaveDone c s
  | .resumeEntryJoin => Sys2Proof.Machine.execResumeEntryJoin s
  | .restore p => Sys2Proof.Machine.execRestore p s
  | .trapEntry c => Sys2Proof.Machine.execTrapEntry c s
  | .resultLand c => Sys2Proof.Machine.execResultLand c s
  | .peerStoreLand => Sys2Proof.Machine.execPeerStoreLand s
  | .bankWake c bank => Sys2Proof.Machine.execBankWake c bank s
  | .stallRelease c => Sys2Proof.Machine.execStallRelease c s
  | .leaseGrant p => Sys2Proof.Machine.execLeaseGrant p s
  | .loadPipeComplete core pipe => Sys2Proof.Machine.execLoadPipeComplete core pipe s
  | .stepEnter p => Sys2Proof.Machine.execStepEnter p s
  | .stepLand p => Sys2Proof.Machine.execStepLand p s
  | .culvertCompletionUpdate c seq => Sys2Proof.Machine.execCulvertCompletionUpdate c seq s
  | .streamFill c q => Sys2Proof.Machine.execStreamFill c q s
  | .streamEntryWrite c q => Sys2Proof.Machine.execStreamEntryWrite c q s
  | .cdescReadDone c q => Sys2Proof.Machine.execCdescReadDone c q s
  | .storePathDone core => Sys2Proof.Machine.execStorePathDone core s
  | .sendDescriptorRead c seq => Sys2Proof.Machine.execSendDescriptorRead c seq s
  | .torusHop p => Sys2Proof.Machine.execTorusHop p s

end Sys2Proof.Machine
end

