-- ==== Sys2Proof/Machine/Issue.lean ====
section
/-! DEFINITION. The issue of a bundle (R183 to R186, R190, R202, R264): its static checks, its traps in priority order, its
slots as one unit, and the context after it. -/

namespace Sys2Proof.Machine

/-! ### The slots of a bundle (R185, R263) -/

/-- The slots in order: 0 S, 1 V0, 2 V1, 3 M, 4 C0, 5 C1, 6 B. -/
def Bundle.slots (b : Bundle) : List (Nat × Instr) :=
  [(0, b.s), (1, b.v0), (2, b.v1), (3, b.m), (4, b.c0), (5, b.c1), (6, b.b)]

/-- The map each slot reads its word in. -/
def slotMaps : List (Nat × SlotKind) := [(0, .s), (1, .v), (2, .v), (3, .m), (4, .c), (5, .c), (6, .b)]

/-- The port code of a consumer (R185). -/
def portCode (slot : Nat) (v : VPos) : Nat :=
  match slot, v with
  | 1, .a => 1 | 1, .b => 2 | 2, .a => 3 | 2, .b => 4 | 3, _ => 5 | 4, _ => 6 | _, _ => 7

/-- Every consumer that reads a vector register owns one port, and no two ports name one consumer (R186). -/
def portsOk (b : Bundle) : Bool :=
  let need := (Bundle.slots b).flatMap fun x => (uses x.2).ports.map fun p => portCode x.1 p.1
  let given := (hPorts b.h).filter (· != 0)
  need.all (fun c => given.contains c) && given.eraseDups.length == given.length

/-- Whether no two operations name one destination (R186). -/
def destsOk (b : Bundle) : Bool :=
  let d := (Bundle.slots b).flatMap fun x => (uses x.2).dst
  d.eraseDups.length == d.length

/-- The conditions of R186 on a whole bundle: ports, the widths of V0 and V1 by their width fields, destinations, and bit Y. -/
def bundleOk (bytes : List Byte) (b : Bundle) : Bool :=
  let wide := fun i => bits (slotWord bytes i) 23 2 == 2
  let yrun := match b.b with
    | .yrun _ => true
    | _ => false
  portsOk b && !(wide 2 && wide 3) && destsOk b && hY b.h == yrun

/-- Whether an operation is illegal in its slot of a bundle: by its form whatever the guard holds, by its use where the guard
holds (DEDUCED, log 83). -/
def State.illegalIn (s : State) (bytes : List Byte) (slot : Nat) (i : Instr) : Bool :=
  s.illegalForm i || (s.illegalUse i && (slot == 6 || ({ s with slotNow := slot } : State).readP (hGuard (slotWord bytes 0) slot).val))

/-- The first slot whose word is no instruction or is illegal in this context. -/
def State.illegalSlot (s : State) (bytes : List Byte) : Option Nat :=
  (slotMaps.find? fun x => match decodeSlot x.2 (slotWord bytes (x.1 + 1)) with
    | .ok i => s.illegalIn bytes x.1 i
    | .error _ => true).map Prod.fst

/-! ### Guards and the order of effects -/

/-- Whether a slot's guard reads 1; the B slot has none (R185). -/
def State.guardOn (s : State) (b : Bundle) (slot : Nat) : Bool :=
  slot == 6 || ({ s with slotNow := slot } : State).readP (hGuard b.h slot).val

/-- The slots whose operations take effect. -/
def State.active (s : State) (b : Bundle) : List (Nat × Instr) := (Bundle.slots b).filter fun x => s.guardOn b x.1

/-- When an operation's effect is put into the state, among those of its bundle: writes that others must not see come last. A
TRAP and a YRUN come after their bundle. -/
def effectRank (i : Instr) : Nat :=
  match i with
  | .vrfgate _ => 1
  | .csrw _ _ | .fenceQ => 3
  | .trap _ | .yrun .. => 4
  | .bnop | .br .. | .jmp .. | .call .. | .calli .. | .ret | .setbt .. | .loopn .. | .loops .. | .loopb ..
  | .tend | .rft | .semw .. | .barw .. => 2
  | _ => 0

/-- The active operations in the order of their effects, TRAP and YRUN left out. Of two VRFGATEs the one of V1 alone takes effect. -/
def inOrder (l : List (Nat × Instr)) : List (Nat × Instr) :=
  let at_ := fun r => l.filter fun x => effectRank x.2 == r
  at_ 0 ++ ((at_ 1).drop ((at_ 1).length - 1)) ++ at_ 2 ++ at_ 3

/-! ### Traps (R202) -/

/-- Discard the entries an operation pops. -/
def State.popped (s : State) (i : Instr) : State :=
  (uses i).qs.foldl (fun s x => if x.push then s else s.setCur fun c =>
    { c with q := c.q.set x.q { c.q[x.q] with entries := c.q[x.q].entries.drop 1 } }) s

/-- Poison marks of the sources of the active operations, with the first slot that has one (R202, R206, R324). -/
def State.poisonOf (s : State) (l : List (Nat × Instr)) : Option (Nat × Word × Word) :=
  let r := l.foldl (fun (a : State × Option (Nat × Word × Word)) x =>
    let (ps, pv, pq) := a.1.poisOp x.2
    let val : Word := ps.setWidth 64
    let prog : Word := pv.setWidth 64 ||| (pq.setWidth 64 <<< 32)
    let acc := if ps = 0 ∧ pv = 0 ∧ pq = 0 then a.2 else match a.2 with
      | none => some (x.1, val, prog)
      | some (sl, v, p) => some (sl, v ||| val, p ||| prog)
    (a.1.popped x.2, acc)) (s, none)
  r.2

/-- The slot of a cause that no slot has (log 35). -/
def State.anySlot (s : State) : Nat := s.choose 400 7

/-- Whether a bundle is a drain point (R149, R300). -/
def State.drains (s : State) (b : Bundle) : Bool := hD b.h && s.cur.drainCounts

/-- Traps of causes 1 to 4, judged for the whole bundle before any slot. -/
def State.trapEarly (s : State) (bytes : List Byte) (b : Option Bundle) : Option Trap :=
  let pc := s.cur.pc
  match s.illegalSlot bytes, b with
  | some sl, _ => some ⟨causeIllegal, 0, 0, sl, pc⟩
  | none, none => some ⟨causeIllegal, 0, 0, s.anySlot, pc⟩
  | none, some b =>
    let named := (Bundle.slots b).find? fun x => s.gatedOp x.2
    let failed := (Bundle.slots b).findSome? fun x => (s.failedOp x.2).map fun q => (x.1, q)
    if !bundleOk bytes b then some ⟨causeIllegal, 0, 0, s.anySlot, pc⟩
    else
      match named, s.cur.xlate, failed, s.poisonOf (s.active b) with
      | some x, _, _, _ => some ⟨causeGated, 0, 0, x.1, pc⟩
      | none, some (v, p), _, _ => some ⟨causeXlate, v, p, s.anySlot, pc⟩
      | none, none, some (sl, q), _ => some ⟨causeXlate, q.failVal, q.failProg, sl, pc⟩
      | none, none, none, some (sl, v, p) => some ⟨causePoison, v, p, sl, pc⟩
      | none, none, none, none => none

/-- GAP and BUDGET (R147, R148). -/
def State.trapCounts (s : State) (b : Bundle) : Option Trap :=
  let c := s.cur
  if !s.drains b && c.launch.drainGap ≤ c.gap then some ⟨causeGap, 0, 0, s.anySlot, c.pc⟩
  else if c.budget = 0 then some ⟨causeBudget, 0, 0, s.anySlot, c.pc⟩
  else none

/-! ### The slots together (R184) -/

/-- What the slots run so far have given: the state, the traps raised, and whether one stalls. -/
structure Trial where
  s : State
  traps : List Trap
  stall : Bool

/-- The state after a meaning; every meaning answers a next state. -/
def after (o : Out) (s : State) : State :=
  match o with
  | .next t => t
  | _ => s
def State.run (s : State) (i : Instr) : State := after (exec i s) s

/-- Run one slot: an operation that traps or stalls leaves the state alone. -/
def Trial.slot (a : Trial) (x : Nat × Instr) : Trial :=
  let t := ({ a.s with slotNow := x.1, raised := none } : State).run x.2
  match t.raised with
  | some tr => { a with traps := a.traps ++ [tr] }
  | none => if t.cur.stalled then { a with stall := true } else { a with s := t }

/-- Run the active operations; all of them read the registers and the memory of before the bundle. -/
def State.trial (s : State) (b : Bundle) : Trial :=
  let pre := s.setCur fun c => { c with stalled := false }
  let pre := if s.drains b then pre.setCur fun c => { c.endStatuses with dr := Vector.replicate 8 .empty } else pre
  let a := (inOrder (s.active b)).foldl Trial.slot
    ⟨{ pre with issueMem := some (pre.mem, pre.poison, pre.undef), issueCur := some pre.cur }, [], false⟩
  { a with s := { a.s with issueMem := none, issueCur := none, raised := none, slotNow := 0 } }

/-- The trap of the slots: causes 7 to 11, the first slot's; then a next PC outside the code region (R183, R291, log 22). -/
def State.trapLate (s : State) (a : Trial) : Option Trap :=
  match a.traps with
  | t :: _ => some t
  | [] =>
    let next := a.s.advance.cur.pc
    if a.s.cur.phase == .ended || s.cur.inCode next.toNat then none else some ⟨causeAddress, next, 0, 6, s.cur.pc⟩

/-! ### A stall (R190) -/

/-- A stalled bundle has no effect but this: a member has arrived at its barrier (R306), and a wait on a counter looks at it,
with the fault or the error it meets (R386); at a drain bundle its operands are those the bundle will read (R405). -/
def State.stallOn (s : State) (b : Bundle) : State :=
  let regs := if s.drains b then some s.cur.endStatuses else none
  let s := (s.active b).foldl (fun s x =>
    match x.2 with
    | .cwait _ _ _ => if s.cur.waived.isSome then s else { ({ s with slotNow := x.1, issueCur := regs } : State).run x.2 with issueCur := none }
    | .semw _ _ => ({ s with slotNow := x.1 } : State).run x.2
    | .barw n => if s.cur.barrier = some (n.val, 0) then s else s.setCur fun c =>
        { c with barrier := some (n.val, if c.barrier.any fun x => x.1 == n.val && x.2 != 0 then 2 else 0) }
    | _ => s) s
  ({ s with slotNow := 0 } : State).setCur fun c => { c with stalled := true }

/-! ### After a bundle -/

/-- Whether nothing of a context is left that a store could race with (R246). -/
def State.noRace (s : State) (c : Ctx) : Bool :=
  let k := s.core c.id.core
  c.ops.isEmpty && c.mq.isEmpty && (c.q.all fun b => b.kind == .unbound) && (k.pipeA.q.all fun l => l.ctx != c.id)
    && (k.pipeB.q.all fun l => l.ctx != c.id) && k.store.all fun x => x.ctx != c.id

/-- The counts of an issued bundle (R146 to R148), its fences, and the stores later engine operations may race with. -/
def State.settle (s : State) (pre : Ctx) (drain : Bool) : State :=
  let quiet := s.noRace s.cur
  let now := s.cycle
  s.setCur fun c =>
    { c with
      stalled := false
      budget := c.budget - 1
      gap := if drain then 0 else c.gap + 1
      bundles := c.bundles + 1
      sliceRun := true
      launch := { c.launch with passes := 0, prom := 0 }
      fences := c.fences ++ c.newFence.map fun sc => ⟨some sc, 0, pre.nextSeq, now⟩
      newFence := []
      drainSeq := if c.newDrain then pre.nextSeq else c.drainSeq
      newDrain := false
      recent := if quiet then c.recent.filter fun r => now < r.2.2.1 + 4 else c.recent }

/-- The TRAP or YRUN operation of a bundle, once the bundle has taken effect (R301, R303). -/
def State.thenTrap (s : State) (b : Bundle) : State :=
  match b.b with
  | .trap code => ({ s with slotNow := 6 } : State).run (.trap code)
  | .yrun n => { ({ s with slotNow := 6 } : State).run (.yrun n) with slotNow := 0 }
  | _ => s

/-- A bundle that neither traps nor stalls has issued. -/
def State.issued (s : State) (b : Bundle) (t : State) : State :=
  let t := t.settle s.cur (s.drains b)
  let t := if t.cur.phase == .ended then t else t.advance.thenTrap b
  t.pruneWaits t.cur.id

/-- A trap at issue suppresses the bundle: an arrival at a barrier is withdrawn. -/
def State.suppress (s : State) (t : Trap) : State :=
  let s := s.setCur fun c => { c with barrier := none, xlate := if t.cause = causeXlate then none else c.xlate }
  s.raiseAt t

/-! ### Issue -/

/-- The 32 bytes at the PC. A word that holds an uncorrectable error is counted and has no stated contents (log 38). -/
def State.fetch (s : State) : State × List Byte :=
  let a := s.cur.place s.cur.pc.toNat
  if poisonedAt s.poison a 32 then
    (if s.cur.stalled then s else s.count 0x2008,
      (List.range 32).map fun i => if poisonedAt s.poison (a + i) 1 then s.free (500 + i) 8 else s.seen s.undef (a + i) (s.mem.read (a + i)))
  else (s, s.view s.mem a 32)

/-- The bundle a list of bytes holds. -/
def bundleOf (bytes : List Byte) : Option Bundle :=
  match decodeBundle bytes with
  | .ok b => some b
  | .error _ => none

/-- The bundle at the PC of the context in the issue stage issues, traps, or stalls. -/
def State.issueBundle (s : State) (bytes : List Byte) : State :=
  let b := bundleOf bytes
  match s.trapEarly bytes b, b with
  | some t, _ => s.suppress t
  | none, none => s
  | none, some b =>
    match s.trapCounts b with
    | some t => s.suppress t
    | none =>
      let a := s.trial b
      match s.trapLate a with
      | some t => s.suppress t
      | none => if a.stall then s.stallOn b else s.issued b a.s

/-- One attempt of the context in the issue stage (R183, R190). -/
def State.attempt (s : State) : State :=
  let pc := s.cur.pc
  if s.cur.inCode pc.toNat then
    let (s, bytes) := s.fetch
    s.issueBundle bytes
  else s.suppress ⟨causeAddress, pc, 0, 6, pc⟩

/-- The turn of a core: its running context, brought into the issue stage with what is due for it, stops as a victim, or
tries its bundle. -/
def State.issueOn (s : State) (core : Nat) : State :=
  let arb := fun (s : State) => if (s.core core).run.any fun n => (s.ctx ⟨core, n⟩).phase != .ready then s.arbitrate core else s
  let s := arb s
  match (s.core core).run with
  | none => s
  | some n =>
    let id : CtxId := ⟨core, n⟩
    let c := s.ctx id
    if c.phase != .ready || c.trap.isSome then s
    else
      let s := s.bringIn id
      -- a victim at its drain bundle whose stop is delayed waits there (R125, R150; log 41)
      if s.mayStop s.cur then after (execVictimStop id s) s else if s.atStop s.cur then s else s.attempt

end Sys2Proof.Machine
end

