-- ==== Sys2Proof/Machine/Sequence.lean ====
section
/-! DEFINITION. What takes place next (log 9): what the outside brings, what is due in this cycle, the turns of the cores,
what the engines and the I/O die may do at any moment, and the passing of a cycle. -/

namespace Sys2Proof.Machine

/-! ### What the outside world brings -/

/-- The events of the opcode table that the outside world, or the part's physics, brings. Every other event takes place
by itself, or as part of a register write or a bundle. -/
def outside (i : Instr) : Bool :=
  match i with
  | .coldReset _ | .cxlReset _ | .thermalThrottle _ | .thermalRecover | .thermalTrip | .powerSample _ | .scrub _ _
  | .tier2LinkDown _ | .feWedged | .reeveHang _ | .reeveTrap _ | .stateUe | .dieLink | .hostMemRead _
  | .hostMemWrite _ _ _ | .registerWrite _ _ | .resetCtlWarm _ | .resetCtlCold _ | .submitEnable _ | .submitDisable _
  | .xltInvGo _ | .xltResumeRetry _ | .xltResumeAbort _ | .fabJobWrite _ | .counterClear _ | .hostRewardPost _
  | .reqRd _ | .reqWr _ | .reqAt _ | .resp _ | .msg _ | .sig _ | .rwpostArrival _ | .collChunk _ | .beacon _ | .rts _
  | .accept _ | .full _ | .token _ | .ack _ | .renew _ | .returnPkt _ | .cancel _ | .done _ | .purge _ | .spill _
  | .pull _ | .torusHop _ | .linkReplay _ | .lossOfLight _ | .savedContextDiscard _ => true
  | _ => false

/-- Take one thing the outside world brings. KEYOP and TLBINV run in the reeve's firmware (R409, R410). -/
def State.take (s : State) (x : Input) : State :=
  match x with
  | .hostStore a bytes => s.hostWrite a bytes
  | .reeveWord k w => { s with reeveK := s.reeveK.set k w }
  | .flitDrop _ => if s.fabricOn then s.count 0x1100 else s
  | .event i =>
    let reeve := match i with
      | .keyop _ _ | .tlbinv _ _ => true
      | _ => false
    if reeve then { ({ s with reeveRun := true } : State).run i with reeveRun := false }
    else if outside i then s.run i
    else s

/-! ### What is due in this cycle -/

/-- The first of a list that a test accepts, as a move. -/
def firstMove {α : Type} (l : List α) (test : α → Bool) (f : α → State) : Option State := (l.find? test).map f

/-- The first of a list of moves that is there. -/
def firstDue : List (Unit → Option State) → Option State
  | [] => none
  | f :: fs =>
    match f () with
    | some t => some t
    | none => firstDue fs

/-- A context with a result that lands now. -/
def State.landsNow (s : State) (c : Ctx) : Bool :=
  (c.writes.any fun w => w.due ≤ s.cycle) || (c.flags.any fun f => f.due ≤ s.cycle)
    || c.ep.any fun e => (e.due s.cycle && e.res.isSome) || (s.epLast e && epMay c e)

/-- A member that its barrier has just released, and whose core has had its turn in this cycle, issues in the same cycle, or
later where another slot of its bundle stalls (R306, log 36). -/
def State.releaseMember (s : State) (i : CtxId) : State :=
  let s := if (s.core i.core).run = some i.slot then s.issueOn i.core else s
  s.mapCtx i fun c => { c with barrier := c.barrier.map fun b => if b.2 = 1 then (b.1, 2) else b }

/-- Whether a polder's head entry is dispatched or restored when its turn comes. -/
def State.headMoves (s : State) (p : Nat) : Bool :=
  match headEntry (s.pol p) with
  | none => false
  | some (_, e) =>
    if e.record.isNone then s.canPlace p e s.tasks
    else
      let recs := s.recsOf e
      !(s.savedLaunches e).isEmpty && (s.entryMembers p e).isSome && !recs.any s.returning
        && (!s.recordOk recs || s.canPlace p e s.tasks)
/-- Whether a started LAUNCH node has a move to make: an add, or its end. -/
def State.launchDue (s : State) (n : Nat) (x : NodeSt) : Bool :=
  x.st == .started && !s.engHeld engSeq coreIo && (s.nodeActs n x.idx).any fun y => nodeKind y.2.2 == 0
    && (!x.adds.isEmpty || s.walkers.all fun w => w.inst != n || w.node != x.idx)

/-- What the scheduler does at the latest when a cycle of 1,024 comes: it marks victims, places the heads of its queues, fills code
regions, starts contexts whose waits are met, retires tasks, and ends launches (log 120). -/
def State.schedDue (s : State) : Option State :=
  if s.cycle % 1024 ≠ 0 then none
  else
    let next := fun (o : Out) => after o s
    firstDue [
      fun _ => firstMove (List.finRange 24) (fun p => (s.mayPreempt p.val).isSome) fun p => next (execPreemptMark p s),
      fun _ => firstMove (List.finRange 24) (fun p => s.headMoves p.val) fun p =>
        let t := next (execDispatch p s)
        if (headEntry (s.pol p.val)).any (·.2.record.isSome) then next (execRestore p s) else t,
      fun _ => firstMove s.tasks (fun c => c.phase == .loading && !s.isHeld (.overlay c.id) && !s.engHeld engOverlay coreIo) fun c =>
        next (execOverlayLoadDone c.id s),
      fun _ => firstMove s.tasks (fun c => c.phase == .waiting && !c.launch.waits.isEmpty && !s.isHeld (.overlay c.id)
        && (s.startWaits c.id c.launch c.launch.waits).2) fun c => next (execStartWaitMet c.id s),
      fun _ => firstMove s.tasks s.retirable fun c => next (execTaskRetire c.id s),
      fun _ => firstMove (s.insts.flatMap fun i => i.nodes.map fun x => (i.num, x)) (fun y => s.launchDue y.1 y.2) fun y =>
        s.launchMove y.1 y.2.idx]

/-- A read of C1 that waits for C0's update on its object, and that update, take place as soon as nothing else holds them back
(R276, R386). -/
def State.lookNow (s : State) (c : Ctx) (e : EngOp) : Option State :=
  match e.kind with
  | .look x _ _ =>
    match (c.before e (some x)).find? fun o => !c.behindC0 o with
    | none => if s.opReady c e then some (s.engMove c.id e.seq) else none
    | some o =>
      if s.isHeld (.eng c.id o.seq) || s.engHeld (culEng o.slot) c.id.core || s.cycle < o.start then none
      else if o.phase = .updating then some (after (execCulvertCompletionUpdate c.id o.seq s) s)
      else if s.opReady c o then some (s.engMove c.id o.seq) else none
  | _ => none

/-- What is due now and comes before the cores' turns: landings, trap entries, the lease and the array, loads whose bound has
come, slice ends, released barrier members, faults that are not left to wait, sends of a context that went on, the reads a victim
still has to make, saves and restores whose time has come (R156), waiting resume entries (R150), what the scheduler has put off
(log 120), and an idle polder's split request (R139). -/
def State.dueNow (s : State) : Option State :=
  let all := s.tasks
  let next := fun (o : Out) => after o s
  firstDue [
    fun _ => firstMove all s.landsNow fun c => next (execResultLand c.id s),
    fun _ => if s.peers.any fun p => p.due ≤ s.cycle then some (next (execPeerStoreLand s)) else none,
    fun _ => firstMove all (fun c => c.trap.isSome && !s.exposed c) fun c => next (execTrapEntry c.id s),
    fun _ => firstMove (all.flatMap fun c => (List.finRange 4).map fun b => (c, b))
      (fun x => x.1.wake[x.2] != 0 && x.1.wake[x.2] ≤ s.cycle) fun x => next (execBankWake x.1.id x.2 s),
    fun _ => firstMove (List.finRange 24) (fun p => (s.pol p.val).arr.any fun a => a.due ≤ s.cycle) fun p =>
      next (execStepLand p s),
    fun _ => firstMove (List.finRange 24) (fun p => s.mayGrant p.val) fun p => next (execLeaseGrant p s),
    fun _ => firstMove (List.finRange 24) (fun p => (s.nextStep p.val).isSome) fun p => next (execStepEnter p s),
    fun _ => firstMove (s.cores.flatMap fun k => [(k.core, false), (k.core, true)]) (fun x => s.loadDue x.1 x.2) fun x =>
      next (execLoadPipeComplete x.1 x.2 s),
    fun _ => firstMove s.cores (fun k => k.slicing && k.sliceEnd ≤ s.cycle) fun k => next (execSliceEnd k.core s),
    fun _ => firstMove all
      (fun c => c.phase == .ready && (s.core c.id.core).tried == s.cycle + 1 && c.barrier.any fun b => b.2 == 1) fun c =>
        s.releaseMember c.id,
    fun _ => firstMove s.xlt.held s.faultDue fun h =>
      next (if h.waits then execFaultDeliveryRetry h.tag s else execFaultDelivery h.tag s),
    fun _ => all.findSome? fun c => c.engA.findSome? (s.lookNow c),
    fun _ => s.backDue.map s.sendBack,
    fun _ => (all.filter s.atStop).findSome? fun c =>
      (c.sendReads.find? fun e => s.opReady c e && !s.engHeld (culEng e.slot) c.id.core).map fun e =>
        next (execSendDescriptorRead c.id e.seq s),
    fun _ => firstMove all s.maySave fun c => next (execSaveDone c.id s),
    fun _ => if s.resumeNext.isSome then some (next (execResumeEntryJoin s)) else none,
    fun _ => firstMove all (fun c => s.restored c && !s.isHeld (.overlay c.id)) fun c => next (execStartWaitMet c.id s),
    fun _ => s.schedDue,
    fun _ => firstMove (List.finRange 24) (fun p => s.feat 18 && s.polIdle p.val && !(s.pol p.val).split) fun p =>
      next (execSplitRequest p s)]

/-- The next core to take its turn in this cycle. -/
def State.nextCore (s : State) : Option Nat :=
  (s.cores.find? fun k => k.run.isSome && k.tried != s.cycle + 1).map CoreSt.core

/-- The turn of a core; a context's due FLD bounds come first (R52). -/
def State.turn (s : State) (core : Nat) : State :=
  let s := s.mapCore core fun k => { k with tried := s.cycle + 1 }
  let s := match (s.core core).run with
    | some n => after (execFldBound ⟨core, n⟩ s) s
    | none => s
  s.issueOn core

/-! ### What may take place at any moment -/

/-- Operations of one context's engines, its streams, and its own life. -/
def State.ctxMoves (s : State) (c : Ctx) : List (State → State) :=
  let i := c.id
  (c.ops.flatMap fun e =>
    match e.phase, e.kind with
    | .updating, _ => [fun s => after (execCulvertCompletionUpdate i e.seq s) s]
    | _, .frts _ => [fun s => after (execSendDescriptorRead i e.seq s) s]
    | _, .publ _ => [fun s => after (execPublSwap i e.seq s) s]
    | _, .cdesc q _ => [fun s => after (execCdescReadDone i q s) s]
    | _, _ => [fun s => s.engMove i e.seq])
  ++ ((List.finRange 8).flatMap fun q =>
    match c.q[q].kind with
    | .unbound => []
    | .read | .gather => [fun s => after (execStreamFill i q s) s]
    | .write | .scatter => [fun s => after (execStreamEntryWrite i q s) s])
  ++ ((c.ep.filter fun e => e.start.isNone || s.ioEnds).map fun e => fun (s : State) => s.epMove i e.seq)
  ++ (match c.phase with
    | .loading => [fun s => after (execOverlayLoadDone i s) s]
    | .waiting => [fun s => after (execStartWaitMet i s) s]
    | .ended => [fun s => after (execTaskRetire i s) s]
    | .saving | .ready | .idle => [])

/-- The load pipes and the store path of a core. -/
def coreMoves (k : CoreSt) : List (State → State) :=
  (if k.pipeA.q.isEmpty then [] else
    [fun s => s.loadMove k.core false 193, fun s => after (execLoadPipeComplete k.core false s) s])
  ++ (if k.pipeB.q.isEmpty then [] else
    [fun s => s.loadMove k.core true 193, fun s => after (execLoadPipeComplete k.core true s) s])
  ++ (if k.store.isEmpty then [] else [fun s => s.storeMove k.core 66, fun s => after (execStorePathDone k.core s) s])

/-- Run queues, walkers and pre-emption (R136 to R157). -/
def State.schedMoves (s : State) : List (State → State) :=
  ((List.finRange 24).flatMap fun p =>
    (if (s.pol p.val).runQ.isEmpty then [] else
      [fun s => after (execDispatch p s) s, fun s => after (execRestore p s) s, fun s => after (execPreemptMark p s) s])
    ++ (if s.splitNext = some p.val ∧ s.splitAt ≤ s.ftime then [fun s => after (execWalkerSplit p s) s] else []))
  ++ (s.walkers.map fun w => fun (s : State) => after (execWalkerEmit (Fin.ofNat 64 w.num) s) s)

/-- Ready nodes in the order in which they are started (R129). -/
def State.readyNodes (s : State) : List (Nat × Nat) :=
  let before := fun (a b : Inst) => if a.prio != b.prio then b.prio < a.prio else a.order < b.order
  let ins := fun (i : Inst) (l : List Inst) => (l.takeWhile fun x => before x i) ++ i :: l.dropWhile fun x => before x i
  (s.insts.foldl (fun l i => ins i l) []).flatMap fun i => (i.nodes.filter fun n => n.st == .ready).map fun n => (i.num, n.idx)

/-- Start the first of them that can be started: a LAUNCH needs its waits met and a walker (R132, R138), a node whose engine holds
a fault waits. -/
def State.startFirst : List (Nat × Nat) → State → State
  | [], s => s
  | x :: xs, s =>
    match s.nodeActs x.1 x.2 with
    | none => State.startFirst xs s
    | some (_, _, e) =>
      if nodeKind e = 0 then
        let t := after (execWalkerStart x.1 x.2 s) s
        if t.walkers.length = s.walkers.length then State.startFirst xs t else t
      else s.startNode x.1 x.2

/-- The nodes of a graph instance (R129): those whose judgement waits for a read, those that run, and the next to start. -/
def State.nodeMoves (s : State) : List (State → State) :=
  (s.insts.flatMap fun i => i.nodes.flatMap fun n =>
    match n.st, nodeKind (s.nodeEntry (s.instGraph i) n.idx) with
    | .judging, _ => if s.isHeld (.coll i.num n.idx) then [] else [fun (s : State) => s.judgeNode i.num n.idx]
    | .started, 0 => [fun s => s.launchMove i.num n.idx]
    | .started, 1 => [fun s => after (execCopyNodeRetire i.num n.idx s) s]
    | .started, 2 => [fun s => after (execCollNode i.num n.idx s) s]
    | .started, 3 => [fun s => after (execWaitNodeMet i.num n.idx s) s]
    | .started, _ => [fun s => after (execSignalNodeRetire i.num n.idx s) s]
    | _, _ => [])
  ++ (let l := s.readyNodes
      if l.isEmpty then [] else [fun (s : State) => State.startFirst l s])

/-- The running command, submit lines whose SEQ has changed, keys being destroyed. -/
def State.hostMoves (s : State) : List (State → State) :=
  (match s.hcmd with
    | none => []
    | some _ => [fun s => after (execNegotiate s) s, fun s => after (execRegisterGraph s) s, fun s => after (execReleaseGraph s) s,
        fun s => after (execKeyGenerate s) s, fun s => after (execKeyImport s) s, fun s => after (execKeyLoad s) s,
        fun s => after (execKeyDestroy s) s, fun s => after (execAttest s) s, fun s => after (execDumpClear s) s,
        fun s => after (execFlashWrite s) s, fun s => after (execThermalAck s) s])
  ++ (if s.observing then
      ((List.range 256).filter fun n =>
        s.lineMay n && bits (s.hostNat (s.regF 0x0300 14 38 * 2 ^ 14 + 64 * n) 4) 0 32 != s.lineLast.getD n 0).map fun n =>
          fun (s : State) => after (execSubmitLineObservation n s) s
    else [])
  ++ ((s.keys.filter fun k => k.st == .destroying).map fun k => fun (s : State) => after (execKeySlotZeroise k.slot s) s)

/-- Held faults and invalidations. -/
def State.xltMoves (s : State) : List (State → State) :=
  (s.xlt.held.flatMap fun h =>
    (if h.delivered then [] else if h.waits then [fun s => after (execFaultDeliveryRetry h.tag s) s]
      else [fun s => after (execFaultDelivery h.tag s) s])
    ++ if h.code = 6 && !h.delivered then [fun s => after (execCowFill h.tag s) s] else [])
  ++ if s.xlt.inval.isEmpty then [] else [fun s => after (execInvalidationComplete s) s]

/-- Injection and the rotor, the sluice, and the reward join. -/
def State.ioMoves (s : State) : List (State → State) :=
  let open_ := fun p => (List.range 24).any fun n => s.fits n p
  (if s.localPackets.isEmpty then [] else [State.inject])
  ++ ((s.fab.waiting.filter fun p => podOf p.dst != podOf s.self && open_ p).map fun p => fun (s : State) => s.rotorSend p)
  ++ ((s.fab.relay.filter fun x => open_ x.2).map fun x => fun (s : State) => s.relaySend x)
  ++ ((s.slu.sends.filter fun e => !e.tokens.isEmpty).map fun e => fun (s : State) => s.pumpSend e.msgid)
  ++ (if s.slu.lastGrant ≤ s.ftime && s.slu.reqs.any s.eligible then [fun s => after (execGrantDecision s) s] else [])
  ++ ((s.join.filter fun x => x.st == .complete && !x.scanned && s.scanNext x).map fun x =>
    fun (s : State) => after (execBackwardScan x.idx s) s)
  ++ ((List.finRange 16).flatMap fun q =>
    (if (s.lqHead q.val).isSome then [fun s => after (execRelease q s) s] else [])
    ++ (if (s.lq q.val).pend.isEmpty then [] else [fun s => after (execDescriptorReady q s) s])
    ++ if (s.lq q.val).flush then [fun s => after (execLqFlush q s) s] else [])

/-- Whether the device runs: bring-up is done, and no fatal error or thermal trip has stopped it (R22, R26, R104). -/
def State.alive (s : State) : Bool := s.regF 0 16 1 == 1 && s.fatal.isNone && !s.tripped

/-- Everything that may take place now. -/
def State.moves (s : State) : List (State → State) :=
  if s.alive then
    (s.tasks.flatMap s.ctxMoves) ++ (s.cores.flatMap coreMoves) ++ s.schedMoves ++ s.nodeMoves ++ s.hostMoves ++ s.xltMoves
      ++ s.ioMoves
  else
    s.hostMoves

/-! ### The passing of a cycle -/

/-- Free values of a new moment. -/
def State.fresh (s : State) : State := { s with freeCtr := s.freeCtr + 1 }

/-- Run an event for each of a list. -/
def State.each {α : Type} (s : State) (l : List α) (f : α → State → Out) : State :=
  l.foldl (fun s x => (after (f x s) s).fresh) s

/-- Timers that have run out, in the order of R171, then those of the sluice and the fabric. -/
def State.timers (s : State) : State :=
  let js := s.join.map JEntry.idx
  let s := (s.each js execJoinTimeout).each js execOpenLimit
  let s := if s.orphans.isEmpty then s else after (execOrphanWindowExpiry s) s
  let s := s.each js execLingerExpiry
  let s := s.each (s.slu.reqs.map fun r => (r.src, r.msgid)) fun x => execTokenExpiry x.1 x.2
  let s := s.each (s.slu.reqs.map fun r => (r.src, r.msgid)) fun x => execOrphanTimeout x.1 x.2
  let s := s.each (s.slu.sends.map SlSend.msgid) execRenewInterval
  let s := s.each ((s.fab.out.filter fun r => r.deadline ≤ s.ftime).map Request.key) execE2eTimeout
  let s := after (execBeaconLoss s) s
  after (execRotorResume s) s

/-- The fabric time after one cycle: 1000 / f nanoseconds later at f MHz (R22, R40). -/
def State.clockOn (s : State) : State :=
  let k := s.effClock / 25
  let x := s.phase + 40
  { s with cycle := s.cycle + 1, phase := x % k, ftime := s.ftime + x / k, landedNow := [] }

/-- Slew towards the beacons' time by at most 1 ns in 1,000 ns; FTIME, which stood at t, never steps backwards (R40). -/
def State.slewOn (s : State) (t : Nat) : State :=
  if s.fab.slew = 0 ∨ s.ftime < s.fab.lastSlew + 1000 ∨ (s.fab.slew < 0 ∧ s.ftime ≤ t) then s
  else
    let d : Int := if 0 < s.fab.slew then 1 else -1
    ({ s with ftime := ((s.ftime : Int) + d).toNat, fab := { s.fab with slew := s.fab.slew - d, lastSlew := s.ftime } } : State).judgeSync

/-- Rotor slots and torus beacons that begin between two fabric times (R34, R40). -/
def State.beats (s : State) (t : Nat) : State :=
  let s := if s.feat 3 && s.rotorOn then
      s.each ((List.finRange 24).filter fun n => n.val * 128 ≤ s.ftime && (t < n.val * 128 || slotAt t n.val != slotAt s.ftime n.val))
        execRotorSlotStart
    else s
  if t / 4096 ≠ s.ftime / 4096 then after (execTorusBeacon s) s else s

/-- A cycle passes; timers run out at the end of an I/O cycle, after all else that falls into it (R76, R171). -/
def State.tick (s : State) : State :=
  if s.alive then
    let s := if s.ioEnds then s.timers else s
    let t := s.ftime
    (s.clockOn.slewOn t).beats t
  else after (execFatalDeadline s.clockOn) s.clockOn

/-! ### The order of it all -/

/-- What takes place when nothing else does: a core's turn, or the end of the cycle. -/
def State.goOn (s : State) : State :=
  match s.alive, s.nextCore with
  | true, some k => s.turn k
  | _, _ => s.tick

/-- What takes place by itself: what is due; else a move that may take place, or the next turn or cycle (logs 2 and 9). -/
def State.inside (s : State) : State :=
  match s.alive, s.dueNow with
  | true, some t => t
  | _, _ =>
    match s.moves with
    | [] => s.goOn
    | l =>
      match l[s.choose (2 ^ 35 + 2 ^ 33) (l.length + 1)]? with
      | some f => f s
      | none => s.goOn

/-- Control packets that the sluice takes after the pieces that land in the same I/O cycle (R76). -/
def Input.sluiceCtl (x : Input) : Bool :=
  match x with
  | .event (.rts _) | .event (.renew _) | .event (.returnPkt _) | .event (.cancel _) => true
  | _ => false
/-- The next thing the outside world brings, in the order of arrival but for those packets. -/
def State.nextInput (s : State) : Option (Nat × Input) :=
  (s.inputs.find? fun x => x.1 ≤ s.cycle && !x.2.sluiceCtl).or
    (if s.ioEnds || !s.alive then s.inputs.find? fun x => x.1 ≤ s.cycle else none)

/-- One move of the package. -/
def State.move (s : State) : State :=
  match s.nextInput with
  | some x => (({ s with inputs := s.inputs.erase x } : State).take x.2).fresh
  | none => s.inside.fresh

end Sys2Proof.Machine
end

