-- ==== Sys2Proof/Machine/Fetch.lean ====
section
/-! DEFINITION. A package whose next move is the issue of one instruction: the bundle that holds it, and the context that
issues the bundle (log 3). -/

namespace Sys2Proof.Machine

/-- The slot of a bundle that a slot map's operations go into here. -/
def slotFor : SlotKind → Nat
  | .s => 0 | .v => 1 | .m => 3 | .c => 4 | .b => 6

/-- The header word a bundle of one operation needs: a port for each consumer, and Y with YRUN (R185, R186). -/
def headerFor (slot : Nat) (i : Instr) : Nat :=
  let ports := (List.zipIdx (uses i).ports).map fun x => portCode slot x.1.1 * 2 ^ (18 + 3 * x.2)
  let y := match i with
    | .yrun _ => 2 ^ 30
    | _ => 0
  ports.sum + y

/-- The 32 bytes of a bundle with one slot word; the other slots hold their NOPs. -/
def bundleWith (h slot w : Nat) : List Byte :=
  leBytes h 4 ++ (List.range 7).flatMap fun n => leBytes (if n = slot then w else 0) 4

/-- The bytes that stand for a table word: a word that no slot map reads goes into the S slot. -/
def fetchBytes (w : Nat) : List Byte :=
  match decodeAnySlot w with
  | some (k, i) => bundleWith (headerFor (slotFor k) i) (slotFor k) w
  | none => bundleWith 0 0 w

/-- The launch of the context that issues: a share of 4 MiB with 64 KiB of code, every tile, stream and pipe. -/
def fetchLaunch : Launch :=
  { Launch.none with
    cycles := 1, drainGap := 1000, streams := 8, accs := 4, gang := 1, members := [⟨0, 0⟩, ⟨1, 0⟩]
    pipes := List.replicate 4 ⟨true, 0, 1, 1, 2⟩, code := 65536, share := 4194304, budget := 1000 }

/-- The context, at the first bundle of its code. -/
def fetchCtx : Ctx :=
  { Ctx.idle ⟨0, 0⟩ with phase := .ready, launch := fetchLaunch, pc := BitVec.ofNat 64 (4194304 - 65536), budget := 1000 }

/-- A package that runs, with every feature active, and on core 0 that context at a bundle of the given bytes. -/
def State.withBundle (s : State) (bytes : List Byte) : State :=
  let r := { State.reset with
    cur := fetchCtx, cores := [{ CoreSt.idle 0 with run := some 0 }], cycle := s.cycle, ftime := s.ftime, hostLink := true
    mem := s.mem, undef := s.undef, poison := s.poison, lineKeys := s.lineKeys, flash := s.flash, freeCtr := s.freeCtr }
  let r := ((r.setReg 0 (8 + 2 ^ 16)).setReg 0x0100 0xFFFFFF).setReg 0x0120 0xFFFFFF
  r.poke (fetchCtx.place fetchCtx.pc.toNat) bytes

/-- The same for a table word. The operations of the reeve's firmware come from the reeve (R409, R410); RFT comes in a trap
handler that returns into the code (R205). -/
def State.withWord (s : State) (w : Nat) : State :=
  let r := s.withBundle (fetchBytes w)
  match decodeAnySlot w with
  | some (_, .keyop a b) => { r with inputs := [(0, .event (.keyop a b))] }
  | some (_, .tlbinv a b) => { r with inputs := [(0, .event (.tlbinv a b))] }
  | some (_, .rft) => r.setCur fun c => (c.setCsr csrTrapState 1).setCsr csrTrapPc c.pc
  | _ => r

end Sys2Proof.Machine
end

