-- ==== Sys2Proof/Machine/Step.lean ====
section
/-! DEFINITION. The step of the package, and the placing of one instruction before it. -/

namespace Sys2Proof.Machine

/-- One move of the package: one thing from outside, one event, one core's turn at its bundle, or the passing of a
cycle (log 9). -/
def step (s : State) : Host.Outcome State Fault Refusal := .next s.move

/-- A package whose next step issues the instruction of a table word, which is one slot word (log 3, log 4). -/
def State.withFetchWord (s : State) (_nbits w : Nat) : State := s.withWord w

end Sys2Proof.Machine
end

