-- ==== Sys2Proof/Safety.lean ====
section
/-! DEFINITION. The terms in which statements about the machine are made: runs that go on, canonical memory, when an
operation raises no trap of causes 1 to 4, and the exact ranges and lanes of the integer arithmetic. -/

namespace Sys2Proof.Machine

/-! ### Runs -/

/-- k steps from a state end in a state, none of them stopping. -/
def Runs : Nat → State → State → Prop
  | 0, s, t => s = t
  | k + 1, s, t => ∃ u, step s = .next u ∧ Runs k u t

/-- A state whose memory is in canonical form, addresses strictly rising and no entry equal to the unlisted value, and whose
device registers are listed by strictly rising offset. -/
def State.Canonical (s : State) : Prop := Memory.wf s.mem = true ∧ s.regs.Pairwise fun x y => x.1 < y.1

/-! ### Operations that raise no trap of causes 1 to 4 (R202) -/

/-- The operation is legal here, names no gated bank and no failed stream, no aborted fault is due, and none of its sources
is poisoned. -/
def State.clear (s : State) (i : Instr) : Bool :=
  !s.illegal i && !s.gatedOp i && s.rd.xlate.isNone && (s.failedOp i).isNone && s.poisOp i == (0, 0, 0)

/-- The slot operations that judge those traps wherever they run: all but the five NOPs and the two of the reeve's
firmware. -/
def judged (i : Instr) : Bool :=
  (encode i).isSome && i != .bnop && i != .snop && i != .vnop && i != .mnop && i != .cnop &&
    match i with
    | .keyop _ _ | .tlbinv _ _ => false
    | _ => true

/-! ### Resets (R24 to R26) -/

/-- From s to t: a reset that brings the device up as far as the part's outcomes b and the flash allow. -/
def Booted (s t : State) (b : BringUp) (cold : Bool) : Prop :=
  let img := s.flash.image
  let good := recordOk img (recBytes s.flash.record) && recFieldsOk s.flash.serial s.flash.record
  let up := b.pufOk && b.hostUp && firmwareOk img && good && b.tier1Ok
  (t.regF 0 0 4, t.regF 0 16 1) = (if !b.pufOk || !b.hostUp then (2, 0) else if !firmwareOk img then (3, 0)
    else if !good then (4, 0) else if !b.tier1Ok then (5, 0) else (8, 1)) ∧
  (b.hostUp = true → up = false → t.regF 0 8 8 = if !b.pufOk then 1 else if !firmwareOk img then 2
    else if !recordOk img (recBytes s.flash.record) then 3 else if !good then 4 else 5) ∧
  (up = true → t.reg 0x0120 = 0 ∧ t.slotKey 0 = some .reeve ∧ t.slotKey 1 = some .host ∧ (∀ n, 1 < n → t.slotKey n = none) ∧
    t.regF 0 19 4 = (if b.links = BitVec.allOnes 4 then 15 else 0) ∧ t.regF 0 24 12 = b.engines.toNat ∧
    (∀ a, inTier1 a = true → t.mem.read a = if cold then 0 else s.mem.read a) ∧
    (∀ a, inTier2 a = true → b.links = BitVec.allOnes 4 → t.mem.read a = if cold then 0 else s.mem.read a)) ∧
  (∀ a, inTier1 a = false → inTier2 a = false → t.mem.read a = s.mem.read a) ∧
  t.tasks = [] ∧ t.insts = [] ∧ t.graphs = [] ∧ t.walkers = [] ∧ t.saves = [] ∧ t.slu = SluiceSt.empty ∧ t.join = [] ∧
  t.orphans = [] ∧ t.fab.out = [] ∧ t.xlt = XltSt.empty ∧ t.hcmd = none ∧ t.fatal = none ∧ t.tripped = false ∧
  t.flash = s.flash

/-! ### Host commands (R85) -/

/-- From s to t: the command block b at host address a is written back with STATUS and DETAIL, HCMD is no longer busy,
CMD_DONE is set and vector 8 raised. -/
def Answered (s t : State) (a : Nat) (b : BitVec 512) (st detail : Nat) : Prop :=
  t.hcmd = none ∧ t.regF 0x0200 0 1 = 0 ∧ t.regF 0x0400 0 1 = 1 ∧ t.irq = s.irq ++ [8] ∧
  t.hostRead a 64 = leBytes (putBits (putBits b.toNat 8 8 st) 32 32 detail) 64
/-- n bytes from x and m bytes from y do not meet. -/
def apart (x n y m : Nat) : Prop := x + n ≤ y ∨ y + m ≤ x

/-! ### Packets (R44 to R50, R66) -/

/-- From s to t: bytes are stored at physical address a under a key; every other byte reads under that key as before, and
the other lines hold the bits they held. -/
def Stores (s t : State) (k : KeyTag) (a : Nat) (bytes : List Byte) : Prop :=
  (∀ j < bytes.length, t.tierByte k (a + j) = (bytes[j]?).getD 0) ∧
  (∀ x, x < a ∨ a + bytes.length ≤ x → t.tierByte k x = s.tierByte k x) ∧
  (∀ x, (∀ j < bytes.length, x / 64 ≠ (a + j) / 64) → t.mem.read x = s.mem.read x)
/-- Packets are taken, and this one passes ECRC and the field rules common to all classes. -/
def State.takes (s : State) (p : Packet) : Prop :=
  s.fatal = none ∧ s.tripped = false ∧ p.crcOk = true ∧ p.mbzOk = true ∧ p.job = s.job ∧
    p.data.length ≤ (if p.cls = 6 ∨ p.cls = 8 then 4096 else 256)
/-- A request is new to the reply cache, which has room (R50). -/
def State.isNew (s : State) (p : Packet) : Prop :=
  (∀ c ∈ s.fab.cache, ¬ (c.src = p.src ∧ c.reqid = p.reqid)) ∧ s.fab.hwm.getD p.src 0 < p.reqid ∧ s.fab.cache.length < 4096
/-- From s to t: a response to p waits for injection. -/
def Responds (s t : State) (p : Packet) (status : Nat) (opa : Word) : Prop :=
  ∃ r : Packet, t.fab.waiting = s.fab.waiting ++ [r] ∧ r.cls = 3 ∧ r.op = p.op ∧ r.dst = p.src ∧ r.src = s.self ∧
    r.reqid = p.reqid ∧ r.ctx = p.ctx ∧ r.tag = p.tag ∧ r.status = status ∧ r.opa = opa

/-- A sluice control packet of the form R66 gives it is taken: its data bytes, the bits OPA may use, and STATUS. -/
def State.slTakes (s : State) (p : Packet) (len opaBits : Nat) : Prop :=
  s.takes p ∧ p.tag = 0 ∧ s.slEnabled = true ∧ p.data.length = len ∧ p.opa.toNat < 2 ^ opaBits ∧ p.status = 0
/-- From s to t: a sluice control packet waits for injection. -/
def Controls (s t : State) (op dst : Nat) (va opa opb : Nat) : Prop :=
  ∃ r : Packet, t.fab.waiting = s.fab.waiting ++ [r] ∧ r.cls = 5 ∧ r.op = op ∧ r.dst = dst ∧ r.src = s.self ∧
    r.va = va ∧ r.opa = BitVec.ofNat 64 opa ∧ r.opb = BitVec.ofNat 64 opb
/-- The request table with the entries of one message changed. -/
def State.reqsWith (s : State) (src msgid : Nat) (f : SlReq → SlReq) : List SlReq :=
  s.slu.reqs.map fun e => if e.src = src ∧ e.msgid = msgid then f e else e
/-- The request table without the entries of one message. -/
def State.reqsWithout (s : State) (src msgid : Nat) : List SlReq :=
  s.slu.reqs.filter fun e => !(e.src == src && e.msgid == msgid)
/-- The send table with the entries of one message changed. -/
def State.sendsWith (s : State) (msgid : Nat) (f : SlSend → SlSend) : List SlSend :=
  s.slu.sends.map fun e => if e.msgid = msgid then f e else e

/-! ### A bundle of one operation (R183 to R186) -/

/-- Bundle b holds operation i in slot n and NOPs in every other slot. -/
def soleOp (b : Bundle) (n : Nat) (i : Instr) : Prop :=
  (n, i) ∈ Bundle.slots b ∧
    ∀ x ∈ Bundle.slots b, x.1 ≠ n → x.2 = .snop ∨ x.2 = .vnop ∨ x.2 = .mnop ∨ x.2 = .cnop ∨ x.2 = .bnop

/-- The state in which an operation of slot n of a bundle runs: operands and loads see the context and the memory of before
the bundle; a drain point has ended the statuses of remote operations and emptied the descriptor registers (R184, R389, R405). -/
def State.issuing (s : State) (b : Bundle) (n : Nat) : State :=
  let pre := s.setCur fun c => { c with stalled := false }
  let pre := if s.drains b then pre.setCur fun c => { c.endStatuses with dr := Vector.replicate 8 .empty } else pre
  { pre with issueMem := some (pre.mem, pre.poison, pre.undef), issueCur := some pre.cur, slotNow := n, raised := none }

/-- Nothing comes before the turn of the context in the issue stage, which is ready to try its bundle: no input is due, no
event takes place by itself, and its core, number k, is the next to take a turn. -/
def State.atTurn (s : State) (k : Nat) : Prop :=
  s.alive = true ∧ (∀ x ∈ s.inputs, s.cycle < x.1) ∧ s.dueNow = none ∧ s.moves = [] ∧ s.nextCore = some k ∧
  s.cur.id.core = k ∧ (s.core k).run = some s.cur.id.slot ∧ s.cur.phase = .ready ∧ s.cur.trap = none ∧ s.cur.late = [] ∧
  s.atStop s.cur = false ∧ s.issueCur = none

/-- The state in which a core's turn has been noted. -/
def State.turned (s : State) (k : Nat) : State := s.mapCore k fun c => { c with tried := s.cycle + 1 }

/-! ### Exact ranges (R8, R215) -/

/-- Whether an exact value fits n bits, signed. -/
def fitsSigned (y : Int) (n : Nat) : Bool := -(2 ^ (n - 1)) ≤ y && y < 2 ^ (n - 1)
/-- Whether an exact value fits a type. -/
def fitsType (t : Elem) (y : Int) : Bool := minT t ≤ y && y ≤ maxT t
/-- The nearest value of a type. -/
def nearest (t : Elem) (y : Int) : Int := if y < minT t then minT t else if maxT t < y then maxT t else y

/-! ### Local addresses (R108, R313, R348) -/

/-- Whether n bytes at an exact local address may be accessed. -/
def State.reaches (s : State) (x : Int) (n : Nat) (load : Bool) : Bool :=
  0 ≤ x && x < 2 ^ 32 && s.localOk s.cur x.toNat n load
/-- Place in SRAM of an exact local address in the context's own share. -/
def State.at_ (s : State) (x : Int) : Nat := s.cur.place (x.toNat % 2 ^ 22)
/-- Whether an exact local address names another context's share or a multicast window. -/
def isFar (x : Int) : Bool := x.toNat.testBit 24 || x.toNat.testBit 25
/-- Whether the active units of a vector access all pass the checks of R348. -/
def State.unitsOk (s : State) (us : List Unit_) (load : Bool) : Bool :=
  us.all (fun u => s.reaches u.1 u.2 load) &&
    (match mcastSpan us with
      | some (lo, hi) => (s.mcw (polOf s.cur.id.core) s.cur.launch.asid lo (hi - lo)).isSome
      | none => true) &&
    (bankClash (s.unitPlaces us) [] us).isNone
/-- The SRAM lines that a unit of an access touches. -/
def State.unitLines (s : State) (us : List Unit_) (u : Unit_) : List Nat :=
  (s.unitPlaces us u.1.toNat).flatMap fun p => linesOf p u.2
/-- A unit touches a line of a bank of which it, or a unit before it, touches another (R194, R348). -/
def State.clashes (s : State) (us before : List Unit_) (u : Unit_) : Prop :=
  ∃ x ∈ s.unitLines us u, ∃ y ∈ (u :: before).flatMap (s.unitLines us), x ≠ y ∧ sameBank x y = true
/-- The accesses of instruction i, with active units us, that R348 refuses, and where: at the first unit that fails R108, else at
the first multicast unit where no window holds them all, else at the first unit of the second line of a bank. -/
def State.refusesUnits (s : State) (i : Instr) (us : List Unit_) (load : Bool) : Prop :=
  let address := fun (x : Int) => exec i s = .next (s.raise causeAddress (BitVec.ofInt 64 x) 0)
  (∀ u, us.find? (fun u => !s.reaches u.1 u.2 load) = some u → address u.1) ∧
  ((∀ u ∈ us, s.reaches u.1 u.2 load = true) →
    let open_ := fun (lo hi : Nat) => s.mcw (polOf s.cur.id.core) s.cur.launch.asid lo (hi - lo)
    (∀ lo hi u, mcastSpan us = some (lo, hi) → open_ lo hi = none →
      us.find? (fun u => u.1.toNat.testBit 25) = some u → address u.1) ∧
    ((∀ lo hi, mcastSpan us = some (lo, hi) → open_ lo hi ≠ none) → ∀ pre u post, us = pre ++ u :: post → s.clashes us pre u →
      (∀ pre' v post', pre = pre' ++ v :: post' → ¬ s.clashes us pre' v) → address u.1))
/-- The active units of an access of `count` units of n bits. -/
def unitsOf (on : Nat → Bool) (count n : Nat) (addr : Nat → Int) : List Unit_ :=
  ((List.range count).filter on).map fun i => (addr i, n / 8)
/-- Places a peer or multicast unit of a vector store is written to: all multicast units go through one window (R197). -/
def State.farPlaces (s : State) (us : List Unit_) (a : Nat) : List Nat :=
  if a.testBit 25 then
    let span := (mcastSpan us).getD (0, 0)
    match s.mcw (polOf s.cur.id.core) s.cur.launch.asid span.1 (span.2 - span.1) with
    | some r => (mcwTargets (polOf s.cur.id.core) r).map fun i => s.slotBase i + a % 2 ^ 22
    | none => []
  else s.localPlaces s.cur a 1
/-- No completion object whose update may still happen holds one of n bytes at a place (R249). -/
def State.noObject (s : State) (a n : Nat) : Prop := ∀ p ∈ s.tasks.flatMap s.pendingAt, a + n ≤ p ∨ p + 16 ≤ a
/-- Byte j of a number. -/
def byteOf (x j : Nat) : Byte := BitVec.ofNat 8 (x / 256 ^ j)

/-! ### Transfers of control (R291, R299) -/

/-- An iterator once the loops a context holds have ended: those of a nest are no longer live, with INDEX and VALUE kept. -/
def Ctx.itEnded (c : Ctx) (n : Fin 8) : Iter :=
  match c.nest with
  | some l => if l.first ≤ n.val ∧ n.val < l.first + l.dims then { c.it[n] with live := false } else c.it[n]
  | none => c.it[n]
/-- From s to t: the next bundle is the one at the target; active loops have ended, with their iterators no longer live, and
suspended ones stand; nothing else has changed. -/
def Transfers (s t : State) (target : Nat) : Prop :=
  t = s.setCur (fun c => { c with npc := some (BitVec.ofNat 64 target), block := t.cur.block, nest := t.cur.nest, it := t.cur.it }) ∧
  (if s.cur.suspended then t.cur.block = s.cur.block ∧ t.cur.nest = s.cur.nest ∧ t.cur.it = s.cur.it
    else t.cur.block = none ∧ t.cur.nest = none ∧
      ∀ n : Fin 8, t.cur.it[n] = s.cur.itEnded n)

/-! ### Accumulator tiles (R369) -/

/-- No earlier command on the tile is unfinished, and no MRDACC leaves it undefined: a command that is no array step takes
effect on it at once. -/
def State.tileFree (s : State) (n : Nat) : Bool :=
  s.cur.mq.isEmpty && (s.pol (s.cur.id.core / 4)).arr.all (fun a => a.ctx != s.cur.id || a.tile != n) &&
    (s.core s.cur.id.core).store.all (fun x => x.ctx != s.cur.id || !x.load || x.tile != n) && !s.cur.tileUndef n s.cycle &&
    (s.cur.altFor n s.cycle).isNone
/-- Element (i, j) of a tile of the context. -/
def State.elem (s : State) (n i j : Nat) : Int := ((s.cur.acc[n]?).getD Tile.zero).at_ i j

/-! ### Operands and operations of the C slots (R380 to R385) -/

/-- The address an operand gives, with its iterator's VALUE added; none where R380 raises ADDRESS. -/
def State.opAddr (s : State) (k : KNo) (fl : Bool) : Option Addr :=
  let w := (s.readK k.val).toNat
  let off := if w.testBit 63 then ((s.rd.it[w / 2 ^ 60 % 8]?).getD Iter.zero).value.toNat else 0
  let a := w % 2 ^ 55
  if w / 2 ^ 56 % 16 ≠ 0 then none
  else if w.testBit 55 then
    if fl = true ∧ a < 2 ^ 28 ∧ (a + off) % 2 ^ 28 < 192 * 2 ^ 20 then some ⟨.boez, (a + off) % 2 ^ 28⟩ else none
  else if fl then (if a < 2 ^ 32 then some ⟨.loc, (a + off) % 2 ^ 32⟩ else none)
  else some ⟨.virt, (a + off) % 2 ^ 64⟩
/-- Whether n bytes at an operand address pass R108 where it is local. -/
def State.rangeOk (s : State) (a : Addr) (n : Nat) (load : Bool) : Bool := a.place != .loc || s.localOk s.cur a.a n load
/-- The completion object an operand names, aligned and in range. -/
def State.objAddr (s : State) (k : KNo) (fl load : Bool) : Option Addr :=
  match s.opAddr k fl with
  | some a => if a.a % 16 = 0 ∧ s.rangeOk a 16 load = true then some a else none
  | none => none
/-- The engine operations of the executing C slot. -/
def State.ownOps (s : State) : List EngOp := if s.slotNow = 5 then s.cur.engA else s.cur.eng
/-- Whether the executing C slot has one of its 16 operation entries free. -/
def State.hasEntry (s : State) : Bool := (s.ownOps.filter EngOp.entry).length < 16

/-- From s to t: one engine operation of the executing slot has been started, with its completion object and first status,
to act from the next cycle on, `entry` saying whether it takes an operation entry; nothing else has changed. -/
def Starts (s t : State) (entry : Bool) (kind : EngKind) (done : Option Addr) (st : BitVec 18) : Prop :=
  t = s.setCur (fun c => { c with nextSeq := c.nextSeq + 1, eng := t.cur.eng, engA := t.cur.engA }) ∧
  (if s.slotNow = 5 then t.cur.eng = s.cur.eng else t.cur.engA = s.cur.engA) ∧
  ∃ e : EngOp, t.ownOps = s.ownOps ++ [e] ∧ e.kind = kind ∧ e.done = done ∧ e.status = st ∧ e.seq = s.cur.nextSeq ∧
    e.start = s.cycle + 1 ∧ e.phase = .waiting ∧ e.pos = 0 ∧ e.waits = s.cur.fenceWaits ∧ e.pc = s.cur.pc ∧
    e.issued = s.cycle ∧ e.entry = entry
/-- From s to t: an operation with a completion object has taken an entry and started; one whose object lies in a closed boezem
segment only owes its update, with PROT (R381). -/
def StartsWith (s t : State) (kind : EngKind) (done : Addr) (st : BitVec 18) : Prop :=
  if s.closed s.cur done 16 = true then Starts s t true .update (some done) (st ||| stProt) else Starts s t true kind (some done) st

/-! ### Operands of the vector slots (R192, R193, R320 to R322) -/

/-- The value of source position `me` and the state after its pop: a register, or the head entry of a read stream of the
operation's width. -/
def State.source (s : State) (str me : Str) (w : VW) (n : VNo) : Option (Nat × State) :=
  if str = me then
    let b := s.cur.q[qOf n.val]
    if (b.kind = .read ∨ b.kind = .gather) ∧ b.w = w then
      match b.entries with
      | e :: rest => some (e.data.toNat, s.takeEntry (qOf n.val) rest)
      | [] => none
    else none
  else some ((s.readV n.val).toNat, s)

/-- Flags of lane results: those of the active lanes together. -/
def flagsOf (on : Nat → Bool) (f : Nat → BitVec 5) : Nat → BitVec 5
  | 0 => 0
  | n + 1 => flagsOf on f n ||| (if on n then f n else 0)

/-- The exact result of a shift with its clamp to a type, SAT and LOSS (R231): q is the rounded quotient of x by 2^sh. -/
def shifted (t : Elem) (q x : Int) (sh : Nat) : Int × BitVec 5 :=
  (nearest t q, (if fitsType t q then 0 else flagSat) ||| (if x % 2 ^ sh = 0 then 0 else flagLoss))

/-- The state after the draw of an operation that draws (R233). -/
def State.afterDraw (s : State) (draws : Bool) : State :=
  if draws then s.setCur fun c => c.setCsr csrHashCtr (s.cur.csrs csrHashCtr + 1) else s

/-- Lane results under a mask: with no active lane and no zeroing nothing is written (R354); else the destination, a register
or a pushed entry. -/
def State.landLanes (s : State) (lat : Nat) (str : Str) (w : VW) (d : VNo) (z : Bool) (on : Nat → Bool) (n x : Nat)
    (f : BitVec 5) : State :=
  if str ≠ .d ∧ z = false ∧ ∀ i < n, on i = false then s else s.putW lat str w d x f

/-- A lane-wise operation of two sources: lane i of the result is g's value wherever the mask holds, else 0 under zeroing
and for a pushed entry, else the destination's lane (R322). g takes source a whole, the lane index, the destination's lane
and both sources' lanes, and gives an exact value and flags. -/
def LanewiseTwo (mk : VTwo → Instr) (lat : Nat) (draws : Bool)
    (g : State → VTwo → Nat → Nat → Nat → Nat → Nat → Int × BitVec 5) : Prop :=
  ∀ (o : VTwo) (s s₁ s₂ : State) (x y : Nat), s.clear (mk o) = true →
    s.source o.str .a o.w o.a = some (x, s₁) → s₁.source o.str .b o.w o.b = some (y, s₂) →
    let n := o.t.size
    let on := laneOn (s.readM o.m.val) n
    let old := (s.readV o.d.val).toNat
    let res := fun i => g s o x i (lane old n i) (lane x n i) (lane y n i)
    ∃ r, (∀ i < lanes o.w o.t, lane r n i =
        if on i then ((res i).1 % 2 ^ n).toNat else if o.z || o.str == .d then 0 else lane old n i) ∧
      exec (mk o) s = .next ((s₂.afterDraw draws).landLanes lat o.str o.w o.d o.z on (lanes o.w o.t) r
        (flagsOf on (fun i => (res i).2) (lanes o.w o.t)))

/-- A lane-wise operation of one source. -/
def LanewiseOne (mk : VOne → Instr) (lat : Nat) (g : Elem → Nat → Int × BitVec 5) : Prop :=
  ∀ (o : VOne) (s s₁ : State) (x : Nat), s.clear (mk o) = true → s.source o.str .a o.w o.a = some (x, s₁) →
    let n := o.t.size
    let on := laneOn (s.readM o.m.val) n
    let old := (s.readV o.d.val).toNat
    let res := fun i => g o.t (lane x n i)
    ∃ r, (∀ i < lanes o.w o.t, lane r n i =
        if on i then ((res i).1 % 2 ^ n).toNat else if o.z || o.str == .d then 0 else lane old n i) ∧
      exec (mk o) s = .next (s₁.landLanes lat o.str o.w o.d o.z on (lanes o.w o.t) r
        (flagsOf on (fun i => (res i).2) (lanes o.w o.t)))

/-- A lane-wise operation of one source and an immediate: it gives l lanes of n bits under a mask taken for lanes of
k bits, and zeros above them; `whole` says that it writes whatever the mask holds. g takes the source whole and the lane
index. -/
def LanewiseImm (mk : VImm → Instr) (lat : Nat) (draws whole : Bool) (n k : Elem → Nat) (l : VImm → Nat)
    (g : State → VImm → Nat → Nat → Int × BitVec 5) : Prop :=
  ∀ (o : VImm) (s s₁ : State) (x : Nat), s.clear (mk o) = true →
    s.source o.str .a o.w o.a = some (x, s₁) →
    let on := laneOn (s.readM o.m.val) (k o.t)
    let old := (s.readV o.d.val).toNat
    let res := fun i => g s o x i
    ∃ r, r < 2 ^ (n o.t * l o) ∧ (∀ i < l o, lane r (n o.t) i =
        if on i then ((res i).1 % 2 ^ n o.t).toNat else if o.z || o.str == .d then 0 else lane old (n o.t) i) ∧
      exec (mk o) s = .next ((s₁.afterDraw draws).landLanes lat o.str o.w o.d (o.z || whole) on (l o) r
        (flagsOf on (fun i => (res i).2) (l o)))

/-- The results of a widening operation under a mask: nothing with no active lane and no zeroing (R354), else the pair. -/
def State.landPair (s : State) (lat : Nat) (d : VNo) (z : Bool) (on : Nat → Bool) (n : Nat) (lo hi : VWord) (f : BitVec 5) :
    State :=
  if z = false ∧ ∀ i < n, on i = false then s
  else ((s.write lat (.v d.val lo false)).write lat (.v (d.val + 1) hi false)).flag lat f

/-- A widening operation: lanes of twice the bits under the narrow lanes' mask, the lower half of them in register D, the
upper half in D + 1 (R323). `res` gives lane i. -/
def PairLanes (s : State) (w : VW) (t : Elem) (d : VNo) (z : Bool) (on : Nat → Bool) (res : Nat → Int) (lo hi : VWord) :
    Prop :=
  let n := 2 * t.size
  let h := lanes w t / 2
  (∀ i < h, lane lo.toNat n i = if on i then (res i % 2 ^ n).toNat else if z then 0 else lane (s.readV d.val).toNat n i) ∧
  (∀ i < h, lane hi.toNat n i =
    if on (i + h) then (res (i + h) % 2 ^ n).toNat else if z then 0 else lane (s.readV (d.val + 1)).toNat n i) ∧
  lo.toNat / 2 ^ w.bits = (s.readV d.val).toNat / 2 ^ w.bits ∧
  hi.toNat / 2 ^ w.bits = (s.readV (d.val + 1)).toNat / 2 ^ w.bits

/-- A whole operation of one source: it writes all W bits whatever the destination held, a value below 2^W (R322). -/
def WholeOne (mk : VOne → Instr) (lat : Nat) (g : VOne → (Nat → Bool) → List Nat → Nat × BitVec 5) : Prop :=
  ∀ (o : VOne) (s s₁ : State) (x : Nat), s.clear (mk o) = true → s.source o.str .a o.w o.a = some (x, s₁) →
    let r := g o (laneOn (s.readM o.m.val) o.t.size) ((List.range (lanes o.w o.t)).map (lane x o.t.size))
    exec (mk o) s = .next (s₁.putW lat o.str o.w o.d r.1 r.2)

end Sys2Proof.Machine
end

