-- ==== Sys2Proof/Certificates/Slice0/Obligations.lean ====
section
/-! DEFINITION. The statements about the machine that are to be proved. -/

open Sys2Proof Sys2Proof.Machine

/-! ### The S slot -/

/-- R307 to R309: ADD, SUB, MUL and ADDI write the wrapped exact result, with WRAP where it was changed; MULH and MULHN give the
high halves of the products; the divisions round towards zero, give 0 or the dividend and DIVZ for a divisor of 0, and
only −2^63 / −1 sets WRAP. -/
def Obligations.ScalarArithmetic : Prop :=
  (∀ (d a b : SNo) (imm : BitVec 15) (s : State),
     let x := s.readS a.val
     let y := s.readS b.val
     (s.clear (.add d a b) = true → exec (.add d a b) s = .next ((s.write 1 (.s d.val (x + y) false)).flag 1
       (if fitsSigned (x.toInt + y.toInt) 64 then 0 else flagWrap))) ∧
     (s.clear (.sub d a b) = true → exec (.sub d a b) s = .next ((s.write 1 (.s d.val (x - y) false)).flag 1
       (if fitsSigned (x.toInt - y.toInt) 64 then 0 else flagWrap))) ∧
     (s.clear (.mul d a b) = true → exec (.mul d a b) s = .next ((s.write 3 (.s d.val (x * y) false)).flag 3
       (if fitsSigned (x.toInt * y.toInt) 64 then 0 else flagWrap))) ∧
     (s.clear (.addi d a imm) = true → exec (.addi d a imm) s = .next
       ((s.write 1 (.s d.val (x + imm.signExtend 64) false)).flag 1
         (if fitsSigned (x.toInt + imm.toInt) 64 then 0 else flagWrap)))) ∧
  (∀ (d a b : SNo) (s : State),
     let x := s.readS a.val
     let y := s.readS b.val
     (s.clear (.mulh d a b) = true → exec (.mulh d a b) s = .next
       (s.write 3 (.s d.val ((x.signExtend 128 * y.signExtend 128).extractLsb' 64 64) false))) ∧
     (s.clear (.mulhn d a b) = true → exec (.mulhn d a b) s = .next
       (s.write 3 (.s d.val ((x.zeroExtend 128 * y.zeroExtend 128).extractLsb' 64 64) false))) ∧
     (s.clear (.div d a b) = true → exec (.div d a b) s = .next
       (if y = 0 then (s.write 20 (.s d.val 0 false)).flag 20 flagDivz
        else (s.write 20 (.s d.val (x.sdiv y) false)).flag 20
         (if x = BitVec.intMin 64 ∧ y = -1 then flagWrap else 0))) ∧
     (s.clear (.divn d a b) = true → exec (.divn d a b) s = .next
       (if y = 0 then (s.write 20 (.s d.val 0 false)).flag 20 flagDivz else s.write 20 (.s d.val (x / y) false))) ∧
     (s.clear (.rem d a b) = true → exec (.rem d a b) s = .next
       (if y = 0 then (s.write 20 (.s d.val x false)).flag 20 flagDivz else s.write 20 (.s d.val (x.srem y) false))) ∧
     (s.clear (.remn d a b) = true → exec (.remn d a b) s = .next
       (if y = 0 then (s.write 20 (.s d.val x false)).flag 20 flagDivz else s.write 20 (.s d.val (x % y) false))))

/-- R307, R308, R311: the bitwise forms, minimum and maximum, and the constant builders; none sets a flag. -/
def Obligations.ScalarLogicMinMaxConstants : Prop :=
  ∀ (d a b : SNo) (imm : BitVec 15) (c : BitVec 20) (s : State),
    let x := s.readS a.val
    let y := s.readS b.val
    let gives := fun (i : Instr) (v : Word) => s.clear i = true → exec i s = .next (s.write 1 (.s d.val v false))
    gives (.and d a b) (x &&& y) ∧ gives (.or d a b) (x ||| y) ∧ gives (.xor d a b) (x ^^^ y) ∧
    gives (.andi d a imm) (x &&& imm.signExtend 64) ∧ gives (.ori d a imm) (x ||| imm.zeroExtend 64) ∧
    gives (.xori d a imm) (x ^^^ imm.zeroExtend 64) ∧
    gives (.min d a b) (if x.slt y then x else y) ∧ gives (.max d a b) (if x.slt y then y else x) ∧
    gives (.minn d a b) (if x < y then x else y) ∧ gives (.maxn d a b) (if x < y then y else x) ∧
    gives (.lil d c) (c.signExtend 64) ∧ gives (.lih d c) (s.readS d.val * 2 ^ 20 + c.zeroExtend 64) ∧
    decodeSlot .s (0x20 * 2 ^ 25 + d.val * 2 ^ 20 + c.toNat) = .ok (.lil d c) ∧
    decodeSlot .s (0x21 * 2 ^ 25 + d.val * 2 ^ 20 + c.toNat) = .ok (.lih d c)

/-- R307, R308, R310: shifts take the low six bits of s[b] or a constant and set no flag; CLZ, CTZ and POPC count;
EXT takes a field, extended as SGN says; a field that leaves the register raises ILLEGAL. -/
def Obligations.ScalarShiftsCountsFields : Prop :=
  ∀ (d a b : SNo) (sh pos lenM1 : Fin 64) (s : State),
    let x := s.readS a.val
    let n := (s.readS b.val).toNat % 64
    let gives := fun (i : Instr) (v : Word) => s.clear i = true → exec i s = .next (s.write 1 (.s d.val v false))
    gives (.shl d a b) (x <<< n) ∧ gives (.shr d a b) (x >>> n) ∧ gives (.shra d a b) (x.sshiftRight n) ∧
    gives (.shlImm d a sh) (x <<< sh.val) ∧ gives (.shrImm d a sh) (x >>> sh.val) ∧
    gives (.shraImm d a sh) (x.sshiftRight sh.val) ∧
    (∀ c ≤ 64, (∀ j < 64, 64 - c ≤ j → x.getLsbD j = false) → (c = 64 ∨ x.getLsbD (63 - c) = true) →
      gives (.clz d a) (BitVec.ofNat 64 c)) ∧
    (∀ c ≤ 64, (∀ j < c, x.getLsbD j = false) → (c = 64 ∨ x.getLsbD c = true) → gives (.ctz d a) (BitVec.ofNat 64 c)) ∧
    gives (.popc d a) (BitVec.ofNat 64 (((List.range 64).filter fun j => x.getLsbD j).length)) ∧
    gives (.ext d a pos lenM1 false) ((x.extractLsb' pos.val (lenM1.val + 1)).zeroExtend 64) ∧
    gives (.ext d a pos lenM1 true) ((x.extractLsb' pos.val (lenM1.val + 1)).signExtend 64) ∧
    (∀ sgn, 64 < pos.val + (lenM1.val + 1) → exec (.ext d a pos lenM1 sgn) s = .next (s.raise causeIllegal 0 0))

/-- R312: PCMP compares as COND says, PLOG looks its two predicates up in TT, SEL selects; a bundle whose S slot holds a PCMP
of COND 110 or 111 is illegal. -/
def Obligations.PredicatesAndSelection : Prop :=
  ∀ (d a b : SNo) (pd pa pb p : PNo) (tt : BitVec 4) (s : State),
    let x := s.readS a.val
    let y := s.readS b.val
    let cmp := fun (c : Cond) (v : Bool) => s.clear (.pcmp pd a b c) = true →
      exec (.pcmp pd a b c) s = .next (s.write 1 (.p pd.val v))
    cmp .eq (x == y) ∧ cmp .ne (x != y) ∧ cmp .lt (x.slt y) ∧ cmp .ge (!x.slt y) ∧ cmp .ltu (x.ult y) ∧
    cmp .geu (!x.ult y) ∧
    (s.clear (.plog pd pa pb tt) = true → exec (.plog pd pa pb tt) s = .next (s.write 1 (.p pd.val
      (tt.getLsbD ((if s.readP pa.val then 2 else 0) + (if s.readP pb.val then 1 else 0)))))) ∧
    (s.clear (.sel d a b p) = true → exec (.sel d a b p) s = .next
      (s.write 1 (.s d.val (if s.readP p.val then x else y) false))) ∧
    (∀ c : Cond, decodeSlot .s (0x24 * 2 ^ 25 + pd.val * 2 ^ 20 + a.val * 2 ^ 15 + b.val * 2 ^ 10 +
      (match c with
        | .eq => 0
        | .ne => 1
        | .lt => 2
        | .ge => 3
        | .ltu => 4
        | .geu => 5) * 2 ^ 7) = .ok (.pcmp pd a b c)) ∧
    decodeSlot .s (0x25 * 2 ^ 25 + pd.val * 2 ^ 20 + pa.val * 2 ^ 15 + pb.val * 2 ^ 10 + tt.toNat * 2 ^ 6) =
      .ok (.plog pd pa pb tt) ∧
    decodeSlot .s (0x26 * 2 ^ 25 + d.val * 2 ^ 20 + a.val * 2 ^ 15 + b.val * 2 ^ 10 + p.val * 2 ^ 7) = .ok (.sel d a b p) ∧
    (∀ bytes, bits (slotWord bytes 1) 25 7 = 0x24 → 6 ≤ bits (slotWord bytes 1) 7 3 → s.illegalSlot bytes = some 0)

/-- R206, R315 to R318: MOVX copies a vector element or a k register, CSRR reads a CSR, CSRW writes one but for its
reserved bits, FENCE and FENCE.Q note themselves, RAND draws once, SNOP does nothing. -/
def Obligations.MovesCsrsFencesRandom : Prop :=
  ∀ (d a : SNo) (v : VNo) (k : KNo) (e : Fin 16) (n : BitVec 12) (sc : Scope) (s : State),
    exec .snop s = .next s ∧
    (s.clear (.movxV d v e) = true → exec (.movxV d v e) s = .next
      (s.write 3 (.s d.val ((s.readV v.val).extractLsb' (64 * e.val) 64) false))) ∧
    (s.clear (.movxK d k) = true → exec (.movxK d k) s = .next (s.write 3 (.s d.val (s.readK k.val) false))) ∧
    (s.clear (.csrr d n) = true → exec (.csrr d n) s = .next (s.write 1 (.s d.val
      (if h : n.toNat < 17 then s.cur.csr[n.toNat]
       else if n = 0x40 then BitVec.ofNat 64 (s.cur.id.slot + 4 * s.cur.id.core + 512 * (s.cur.id.core / 4))
       else if n = 0x41 then BitVec.ofNat 64 s.cycle
       else if n = 0x42 then BitVec.ofNat 64 s.ftime
       else if n = 0x43 then BitVec.ofNat 64 s.cur.budget
       else if n = 0x44 then BitVec.ofNat 64 s.cur.gap
       else 0) false))) ∧
    (s.clear (.csrw a n) = true → ∃ t, exec (.csrw a n) s = .next t ∧
      t = s.setCur (fun c => { c with csr := t.cur.csr, feAt := if n = 11 then none else c.feAt }) ∧
      (∀ m : Fin 17, m.val ≠ n.toNat → t.cur.csr[m] = s.cur.csr[m]) ∧
      (∀ m : Fin 17, m.val = n.toNat → t.cur.csr[m] = s.readS a.val &&&
        (if n = 0 then 0xFFFF else if n = 4 then 0x1F else if n = 9 then 0x3FFFFFFF else if n = 11 then 0x1FF
         else BitVec.allOnes 64))) ∧
    (s.clear (.fence sc) = true → exec (.fence sc) s = .next
      (s.setCur fun c => { c with newFence := c.newFence ++ [sc] })) ∧
    (s.clear .fenceQ = true → exec .fenceQ s = .next (s.setCur fun c => { c with q := c.q.map fun b =>
      if b.kind = .read ∨ b.kind = .gather then
        { b with entries := [], fetched := b.pos, idxUsed := 0, since := s.cycle + 1, racy := s.ownStores }
      else b })) ∧
    (s.clear (.rand d) = true → exec (.rand d) s = .next
      ((s.setCur fun c => c.setCsr csrHashCtr (s.cur.csrs csrHashCtr + 1)).write 3
        (.s d.val (hashFin (s.cur.csrs csrSeed + s.cur.csrs csrHashCtr)) false)))

/-- R313, R314: LD and LD2 write the little-endian bytes at s[base] + offset, extended as SZ says, and mark the destinations
poisoned where a byte holds an uncorrectable error. -/
def Obligations.ScalarLoads : Prop :=
  ∀ (d base : SNo) (sz : MemSz) (off : BitVec 12) (s : State),
    let x : Int := (s.readS base.val).toNat + off.toInt
    (s.clear (.ld d base sz off) = true → s.reaches x (memSzBytes sz) true = true →
      let n := memSzBytes sz
      let bad := poisonedAt s.loadMem.2 (s.at_ x) n
      let y := leNat (s.view s.loadMem.1 (s.at_ x) n)
      exec (.ld d base sz off) s = .next ((if bad then s.count 0x2008 else s).write 4 (.s d.val
        (match sz with
          | .i8 => (BitVec.ofNat 8 y).signExtend 64
          | .i16 => (BitVec.ofNat 16 y).signExtend 64
          | .i32 => (BitVec.ofNat 32 y).signExtend 64
          | .n8 => (BitVec.ofNat 8 y).zeroExtend 64
          | .n16 => (BitVec.ofNat 16 y).zeroExtend 64
          | .n32 => (BitVec.ofNat 32 y).zeroExtend 64
          | .d64 => BitVec.ofNat 64 y) bad))) ∧
    (s.clear (.ld2 d base off) = true → s.reaches x 16 true = true →
      let bad := poisonedAt s.loadMem.2 (s.at_ x) 16
      let l := s.view s.loadMem.1 (s.at_ x) 16
      exec (.ld2 d base off) s = .next (((if bad then s.count 0x2008 else s).write 4
        (.s d.val (BitVec.ofNat 64 (leNat (l.take 8))) bad)).write 4 (.s (d.val + 1) (BitVec.ofNat 64 (leNat (l.drop 8))) bad)))

/-- R195, R313: ST and ST2 into the own share store the little-endian bytes of their registers at s[base] + offset at once,
and leave every other byte, every register and every result in flight as they were; a word that is stored whole is no longer
poisoned, and every other mark stays (R314); bytes that were undefined become defined where they are stored, unless a completion
object whose update may still happen holds one (R249). -/
def Obligations.ScalarStores : Prop :=
  ∀ (d base : SNo) (sz : StSz) (off : BitVec 12) (s : State),
    let x : Int := (s.readS base.val).toNat + off.toInt
    s.Canonical → isFar x = false → s.landedNow = [] →
    (s.clear (.st d base sz off) = true → s.reaches x (stSzBytes sz) false = true →
      ∃ t, exec (.st d base sz off) s = .next t ∧ t.Canonical ∧
        (∀ j < stSzBytes sz, t.mem.read (s.at_ x + j) = byteOf (s.readS d.val).toNat j) ∧
        (∀ a, a < s.at_ x ∨ s.at_ x + stSzBytes sz ≤ a → t.mem.read a = s.mem.read a) ∧
        t.cur = { s.cur with recent := t.cur.recent } ∧
        t = { s with mem := t.mem, poison := t.poison, undef := t.undef, cur := t.cur } ∧
        (∀ v, v ∈ t.poison ↔ v ∈ s.poison ∧ ¬ (s.at_ x ≤ 8 * v ∧ 8 * v + 8 ≤ s.at_ x + stSzBytes sz)) ∧
        (s.noObject (s.at_ x) (stSzBytes sz) → t.undef = cutRange s.undef (s.at_ x) (s.at_ x + stSzBytes sz))) ∧
    (s.clear (.st2 d base off) = true → s.reaches x 16 false = true →
      ∃ t, exec (.st2 d base off) s = .next t ∧ t.Canonical ∧
        (∀ j < 8, t.mem.read (s.at_ x + j) = byteOf (s.readS d.val).toNat j ∧
          t.mem.read (s.at_ x + 8 + j) = byteOf (s.readS (d.val + 1)).toNat j) ∧
        (∀ a, a < s.at_ x ∨ s.at_ x + 16 ≤ a → t.mem.read a = s.mem.read a) ∧
        t.cur = { s.cur with recent := t.cur.recent } ∧
        t = { s with mem := t.mem, poison := t.poison, undef := t.undef, cur := t.cur } ∧
        (∀ v, v ∈ t.poison ↔ v ∈ s.poison ∧ ¬ (s.at_ x ≤ 8 * v ∧ 8 * v + 8 ≤ s.at_ x + 16)) ∧
        (s.noObject (s.at_ x) 16 → t.undef = cutRange s.undef (s.at_ x) (s.at_ x + 16)))

/-- R197, R198: ST and ST2 to a peer or a multicast window store nothing at once; their bytes fly for exactly 8 cycles to
the same offset of every target share. One through a window carries the window's number, by which a change of it meanwhile leaves
the bytes undefined. -/
def Obligations.PeerAndMulticastStores : Prop :=
  ∀ (d base : SNo) (sz : StSz) (off : BitVec 12) (s : State),
    let x : Int := (s.readS base.val).toNat + off.toInt
    isFar x = true →
    let flies := fun (i : Instr) (cells : List (Nat × Byte)) (n : Nat) => exec i s = .next { s with peers := s.peers ++
      [⟨s.cycle + 8, s.cur.id, s.cycle, cells, if x.toNat.testBit 25 then
        (s.mcwNo (polOf s.cur.id.core) s.cur.launch.asid (x.toNat % 2 ^ 22) n).map fun v => (v, cells.map Prod.fst) else none, false⟩] }
    (s.clear (.st d base sz off) = true → s.reaches x (stSzBytes sz) false = true →
      ∃ cells, flies (.st d base sz off) cells (stSzBytes sz) ∧
        ∀ c, c ∈ cells ↔ ∃ p ∈ s.localPlaces s.cur x.toNat (stSzBytes sz), ∃ j < stSzBytes sz,
          c = (p + j, byteOf (s.readS d.val).toNat j)) ∧
    (s.clear (.st2 d base off) = true → s.reaches x 16 false = true →
      ∃ cells, flies (.st2 d base off) cells 16 ∧
        ∀ c, c ∈ cells ↔ ∃ p ∈ s.localPlaces s.cur x.toNat 16, ∃ j < 8,
          c = (p + j, byteOf (s.readS d.val).toNat j) ∨ c = (p + 8 + j, byteOf (s.readS (d.val + 1)).toNat j))

/-- R190, R193, R206, R313, R344, R348, R349, R380, R382, R385: accesses that have no effect but their trap. A scalar access whose
exact address leaves 32 bits or fails R108, a vector access whose base leaves 32 bits, whose active units fail R108 or touch two
lines of one bank, or whose tensor descriptor R349 refuses, a C-slot operand that R380 or R108 refuses, and an object that is not
16-byte aligned raise ADDRESS, with the address at fault, or the k value where R380 says so (log 60). With every operation, reply,
write or late entry it needs in use, an operation raises RLIMIT. A pop or push that a stream does not allow raises STREAM; one that
finds too few entries stalls. -/
def Obligations.AddressTraps : Prop :=
  (∀ (d base : SNo) (sz : MemSz) (z : StSz) (off : BitVec 12) (s : State),
     let x : Int := (s.readS base.val).toNat + off.toInt
     let traps := fun (i : Instr) (n : Nat) (load : Bool) => s.clear i = true → s.reaches x n load = false →
       exec i s = .next (s.raise causeAddress (BitVec.ofInt 64 x) 0)
     traps (.ld d base sz off) (memSzBytes sz) true ∧ traps (.st d base z off) (stSzBytes z) false ∧
     traps (.ld2 d base off) 16 true ∧ traps (.st2 d base off) 16 false) ∧
  (∀ (l : VLdf) (g : VOne) (o : VStf) (s : State),
     let refuses := fun (i : Instr) (b : Int) (us : List Unit_) (load : Bool) => s.clear i = true →
       ((b < 0 ∨ 2 ^ 32 ≤ b) → exec i s = .next (s.raise causeAddress (BitVec.ofInt 64 b) 0)) ∧
       (0 ≤ b → b < 2 ^ 32 → s.refusesUnits i us load)
     let units := fun (m : MNo) (w : VW) (n : Nat) (addr : Nat → Int) => unitsOf (laneOn (s.readM m.val) n) (w.bits / n) n addr
     let strided := fun (av : Nat) (b : Int) (i : Nat) => b + i * (BitVec.ofNat 32 (av / 2 ^ 32)).toInt
     (let av := (s.readV l.a.val).toNat
      let b := vecBase av l.off l.w
      let n := max l.t.size 8
      refuses (.vld l) b (units l.m l.w n fun i => b + (i * (n / 8) : Nat)) true ∧
      refuses (.vlds l) b (units l.m l.w l.t.size (strided av b)) true) ∧
     (g.str = .none → refuses (.vgather g) 0 (unitsOf (laneOn (s.readM g.m.val) 32) (g.w.bits / 32) g.t.size fun i =>
       ((lane (s.readV g.a.val).toNat 32 i : Nat) : Int)) true) ∧
     (let av := (s.readV o.a.val).toNat
      let b := vecBase av o.off o.w
      let n := max o.t.size 8
      let vst := units o.m o.w n fun i => b + (i * (n / 8) : Nat)
      let vsts := units o.m o.w o.t.size (strided av b)
      let d : Nat := av / 2 ^ 64 % 2 ^ 32
      let td := leNat (s.view s.loadMem.1 (s.at_ d) 64)
      let badDesc := fun (i : Instr) (us : List Unit_) => s.clear i = true → 0 ≤ b → b < 2 ^ 32 → s.unitsOk us false = true →
        av.testBit 96 = true → (d % 64 ≠ 0 ∨ s.reaches d 64 true = false ∨ td % 16 ≠ typeCode o.t ∨ tdBad td = true) →
        exec i s = .next (s.raise causeAddress (BitVec.ofNat 64 d) 0)
      refuses (.vst o) b vst false ∧ refuses (.vsts o) b vsts false ∧ badDesc (.vst o) vst ∧ badDesc (.vsts o) vsts ∧
      refuses (.vscatter o) 0 (unitsOf (laneOn (s.readM o.m.val) 32) (o.w.bits / 32) o.t.size fun i =>
        ((lane av 32 i : Nat) : Int) + o.off.toInt * (o.w.bits / 8 : Nat)) true)) ∧
  (∀ (a b c d : KNo) (cl sl dl : Bool) (q : QNo) (s : State),
     let address := fun (i : Instr) (v : Word) => s.clear i = true → exec i s = .next (s.raise causeAddress v 0)
     (s.opAddr a dl = none → address (.ccopy a b c d cl sl dl) (s.readK a.val)) ∧
     (s.opAddr d cl = none → address (.publ a d cl) (s.readK d.val) ∧ address (.ccopya d cl q) (s.readK d.val)) ∧
     (∀ x, s.opAddr d cl = some x → (x.a % 16 ≠ 0 ∨ s.rangeOk x 16 false = false) →
       address (.publ a d cl) (BitVec.ofNat 64 x.a) ∧ address (.ccopya d cl q) (BitVec.ofNat 64 x.a))) ∧
  (∀ (a b c d : KNo) (r : Fin 32) (vec w64 cl : Bool) (sz : MemSz) (z : StSz) (op : Fin 16) (lenM1 : Fin 32) (q : QNo) (s : State),
     let limit := fun (i : Instr) => s.clear i = true → exec i s = .next (s.raise causeRlimit 0 0)
     (∀ x, s.objAddr d cl false = some x → s.hasEntry = false → limit (.ccopya d cl q) ∧ limit (.publ a d cl)) ∧
     (16 ≤ (s.cur.remote.filter fun e => e.reply).length →
       limit (.fatom a b c d w64 op) ∧ limit (.fcas a b c d w64) ∧ limit (.rwpost a b c d)) ∧
     (64 ≤ (s.cur.remote.filter fun e => !e.reply).length → limit (.fst a b r vec z) ∧ limit (.fsig a b c)) ∧
     (64 ≤ (s.cur.remote.filter fun e => !e.reply).length → ∀ src, s.opAddr c cl = some src →
       s.rangeOk src (8 * (lenM1.val + 1)) true = true → s.closed s.cur src (8 * (lenM1.val + 1)) = false →
       limit (.fmsg a b c cl lenM1)) ∧
     (16 ≤ s.cur.late.length → limit (.fld a b r vec sz))) ∧
  (∀ (o : VTwo) (s : State), s.clear (.vand o) = true →
     let n := qOf (if o.str = .b then o.b.val else o.a.val)
     let pops := s.cur.q[n]
     let pushes := s.cur.q[qOf o.d.val]
     let stream := exec (.vand o) s = .next (s.raise causeStream 0 0)
     let stalls := exec (.vand o) s = .next s.stall
     (o.str = .a ∨ o.str = .b →
       ((pops.kind ≠ .read ∧ pops.kind ≠ .gather) ∨ pops.w ≠ o.w → stream) ∧
       (pops.kind = .read ∨ pops.kind = .gather → pops.w = o.w → pops.entries = [] →
         (s.atToken s.cur pops = false → stalls) ∧
         (s.atToken s.cur pops = true →
           (s.cur.suspended = true ∨ (∀ l p, s.cur.block = some l → l.fin ≠ .stream n p) → stream) ∧
           ∀ l p, s.cur.suspended = false → s.cur.block = some l → l.fin = .stream n p →
             exec (.vand o) s = .next (s.setCur fun c => { c with finalBundle := some p.val })))) ∧
     (o.str = .d →
       let full := pushes.kind = .write ∧ pushes.pipe = false ∧ pushes.pend = none ∧ pushes.count ≤ pushes.fetched
       ((pushes.kind ≠ .write ∧ pushes.kind ≠ .scatter) ∨ pushes.w ≠ o.w ∨ pushes.ended = true ∨ full → stream) ∧
       (pushes.kind = .write ∨ pushes.kind = .scatter → pushes.w = o.w → pushes.ended = false → ¬ full →
         (8 ≤ pushes.entries.length ∨ pushes.pend ≠ none → stalls) ∧
         (let k := patPipeNo pushes.pat.toNat
          let per := (s.cur.pipeDef k).per pushes.eBytes
          pushes.pipe = true → (s.pipeReg s.cur k).free = 0 → pushes.entries.length < 8 → pushes.pend = none →
          (per = 0 ∨ ((s.pipeReg s.cur k).tail % (64 * (s.cur.pipeDef k).slotSize) / pushes.eBytes + s.cur.pipeQueued k) % per = 0) →
          stalls))))

/-! ### The V slots -/

/-- R327 to R331, R338: the lane-wise operations of two sources, lane by lane, with streams in any position. -/
def Obligations.VectorTwoSourceLanes : Prop :=
  let wraps := fun (t : Elem) (y : Int) => (y, if fitsType t y then (0 : BitVec 5) else flagWrap)
  let clamps := fun (t : Elem) (y : Int) => (nearest t y, if fitsType t y then (0 : BitVec 5) else flagSat)
  LanewiseTwo .vadd 2 false (fun _ o _ _ _ a b => wraps o.t (valT o.t a + valT o.t b)) ∧
  LanewiseTwo .vsub 2 false (fun _ o _ _ _ a b => wraps o.t (valT o.t a - valT o.t b)) ∧
  LanewiseTwo .vadds 2 false (fun _ o _ _ _ a b => clamps o.t (valT o.t a + valT o.t b)) ∧
  LanewiseTwo .vsubs 2 false (fun _ o _ _ _ a b => clamps o.t (valT o.t a - valT o.t b)) ∧
  LanewiseTwo .vmin 2 false (fun _ o _ _ _ a b => (if valT o.t a ≤ valT o.t b then valT o.t a else valT o.t b, 0)) ∧
  LanewiseTwo .vmax 2 false (fun _ o _ _ _ a b => (if valT o.t a ≤ valT o.t b then valT o.t b else valT o.t a, 0)) ∧
  LanewiseTwo .vmul 5 false (fun _ o _ _ _ a b => wraps o.t (valT o.t a * valT o.t b)) ∧
  LanewiseTwo .vmulh 5 false (fun _ o _ _ _ a b => (valT o.t a * valT o.t b / 2 ^ o.t.size, 0)) ∧
  LanewiseTwo .vmac 5 false (fun _ o _ _ d a b => clamps o.t (valT o.t d + valT o.t a * valT o.t b)) ∧
  LanewiseTwo .vand 2 false (fun _ _ _ _ _ a b => ((a &&& b : Nat), 0)) ∧
  LanewiseTwo .vor 2 false (fun _ _ _ _ _ a b => ((a ||| b : Nat), 0)) ∧
  LanewiseTwo .vxor 2 false (fun _ _ _ _ _ a b => ((a ^^^ b : Nat), 0)) ∧
  LanewiseTwo .vshl 2 false (fun _ o _ _ _ a b => wraps o.t (valT o.t a * 2 ^ min b 63)) ∧
  LanewiseTwo .vshr 2 false (fun _ _ _ _ _ a b => ((a / 2 ^ min b 63 : Nat), if a % 2 ^ min b 63 = 0 then 0 else flagLoss)) ∧
  LanewiseTwo .vshra 2 false (fun _ o _ _ _ a b =>
    (valT o.t a / 2 ^ min b 63, if valT o.t a % 2 ^ min b 63 = 0 then 0 else flagLoss)) ∧
  LanewiseTwo .vperm 3 false (fun _ o x _ _ _ b => (if b < lanes o.w o.t then lane x o.t.size b else 0, 0))

/-- R9, R231 to R233, R330 to R332: the rounding shifts and the narrowing shifts, with the three roundings of R231; the .rsto forms draw
once and take their random bits by lane (R233). The narrowing shifts write zeros above their lanes whatever the mask holds
(log 108). rne_shr gives the nearest quotient, the even one of two; rtz_shr the quotient
rounded towards zero; sto_shr one of the two quotients next to the exact one. -/
def Obligations.VectorRoundingShifts : Prop :=
  (let rsto := fun (s : State) (i : Nat) (x : Int) (sh : Nat) =>
     stoShr x sh (laneBits (s.cur.csrs csrSeed) (s.cur.csrs csrHashCtr) i sh)
   LanewiseTwo .vshrrRne 2 false
     (fun _ o _ _ _ a b => shifted o.t (rneShr (valT o.t a) (min b 63)) (valT o.t a) (min b 63)) ∧
   LanewiseTwo .vshrrRtz 2 false
     (fun _ o _ _ _ a b => shifted o.t (rtzShr (valT o.t a) (min b 63)) (valT o.t a) (min b 63)) ∧
   LanewiseTwo .vshrrRsto 2 true
     (fun s o _ i _ a b => shifted o.t (rsto s i (valT o.t a) (min b 63)) (valT o.t a) (min b 63)) ∧
   (let src := fun (o : VImm) (x i : Nat) => valT o.t (lane x o.t.size i)
    let l := fun (o : VImm) => lanes o.w o.t
    let half := fun (t : Elem) => t.size / 2
    LanewiseImm .vshrsRne 2 false false Elem.size Elem.size l
     (fun _ o x i => shifted o.t (rneShr (src o x i) o.imm.val) (src o x i) o.imm.val) ∧
    LanewiseImm .vshrsRtz 2 false false Elem.size Elem.size l
     (fun _ o x i => shifted o.t (rtzShr (src o x i) o.imm.val) (src o x i) o.imm.val) ∧
    LanewiseImm .vshrsRsto 2 true false Elem.size Elem.size l
     (fun s o x i => shifted o.t (rsto s i (src o x i) o.imm.val) (src o x i) o.imm.val) ∧
    LanewiseImm .vnarrowRne 2 false true half Elem.size l
     (fun _ o x i => shifted (halfT o.t) (rneShr (src o x i) o.imm.val) (src o x i) o.imm.val) ∧
    LanewiseImm .vnarrowRtz 2 false true half Elem.size l
     (fun _ o x i => shifted (halfT o.t) (rtzShr (src o x i) o.imm.val) (src o x i) o.imm.val) ∧
    LanewiseImm .vnarrowRsto 2 true true half Elem.size l
     (fun s o x i => shifted (halfT o.t) (rsto s i (src o x i) o.imm.val) (src o x i) o.imm.val))) ∧
  (∀ (x : Int) (n g : Nat), g < 2 ^ n →
     (2 * (rneShr x n * 2 ^ n - x).natAbs ≤ 2 ^ n) ∧
     (2 * (rneShr x n * 2 ^ n - x).natAbs = 2 ^ n → rneShr x n % 2 = 0 ∨ n = 0) ∧
     ((rtzShr x n * 2 ^ n - x).natAbs < 2 ^ n ∧ (rtzShr x n * 2 ^ n).natAbs ≤ x.natAbs ∧ 0 ≤ rtzShr x n * x) ∧
     ((stoShr x n g * 2 ^ n - x).natAbs < 2 ^ n))

/-- R327, R338, R342, R343, R350, R352: the lane-wise operations of one source. -/
def Obligations.VectorOneSourceLanes : Prop :=
  let clamps := fun (t : Elem) (y : Int) => (nearest t y, if fitsType t y then (0 : BitVec 5) else flagSat)
  let fn := fun (f : Int → Nat × BitVec 5) (t : Elem) (a : Nat) => (((f (valT t a)).1 : Int), (f (valT t a)).2)
  let l := fun (o : VImm) => lanes o.w o.t
  LanewiseOne .vneg 2 (fun t a => clamps t (-valT t a)) ∧
  LanewiseOne .vabs 2 (fun t a => clamps t (if valT t a < 0 then -valT t a else valT t a)) ∧
  LanewiseOne .vclz 2 (fun t a => ((if t.signed then rsb a t.size else lz a t.size : Nat), 0)) ∧
  LanewiseOne .vexp2 12 (fn vexp2Fn) ∧ LanewiseOne .vlog2 12 (fn vlog2Fn) ∧
  LanewiseOne .vrsqrt 12 (fn vrsqrtFn) ∧ LanewiseOne .vrecip 12 (fn vrecipFn) ∧
  LanewiseImm .vbcast 2 false false Elem.size Elem.size l (fun _ o x _ => (lane x o.t.size o.imm.val, 0)) ∧
  LanewiseImm .vslide 3 false false Elem.size Elem.size l (fun _ o x i =>
    (if i + o.imm.val < lanes o.w o.t then lane x o.t.size (i + o.imm.val) else 0, 0)) ∧
  LanewiseImm .vsgnapply 3 false false Elem.size Elem.size l (fun _ o x i =>
    (if x.testBit i then 1 else if o.imm = 1 then -1 else 0, 0)) ∧
  LanewiseImm .vunpack4 3 false false (fun _ => 8) (fun _ => 8) (fun o => o.w.bits / 8) (fun _ o x i =>
    (valT .i4 (lane x 4 (o.imm.val * (o.w.bits / 8) + i)), 0))

/-- R323, R328, R333: VMULW, VMACW and VWIDEN write a register pair of lanes of twice the width, and nothing with no active lane and no zeroing (R354). -/
def Obligations.VectorWideningPairs : Prop :=
  (∀ (o : VTwo) (s s₁ s₂ : State) (x y : Nat), s.source o.str .a o.w o.a = some (x, s₁) →
    s₁.source o.str .b o.w o.b = some (y, s₂) →
    let on := laneOn (s.readM o.m.val) o.t.size
    let h := lanes o.w o.t / 2
    let prod := fun i => valT o.t (lane x o.t.size i) * valT o.t (lane y o.t.size i)
    let old := fun i => valT (twiceT o.t) (if i < h then lane (s.readV o.d.val).toNat (2 * o.t.size) i
      else lane (s.readV (o.d.val + 1)).toNat (2 * o.t.size) (i - h))
    (s.clear (.vmulw o) = true → ∃ lo hi, PairLanes s o.w o.t o.d o.z on prod lo hi ∧
      exec (.vmulw o) s = .next (s₂.landPair 5 o.d o.z on (lanes o.w o.t) lo hi 0)) ∧
    (s.clear (.vmacw o) = true → ∃ lo hi,
      PairLanes s o.w o.t o.d o.z on (fun i => nearest (twiceT o.t) (old i + prod i)) lo hi ∧
      exec (.vmacw o) s = .next (s₂.landPair 5 o.d o.z on (lanes o.w o.t) lo hi
        (flagsOf on (fun i => if fitsType (twiceT o.t) (old i + prod i) then 0 else flagSat) (lanes o.w o.t))))) ∧
  (∀ (o : VOne) (s s₁ : State) (x : Nat), s.clear (.vwiden o) = true → s.source o.str .a o.w o.a = some (x, s₁) →
    let on := laneOn (s.readM o.m.val) o.t.size
    ∃ lo hi, PairLanes s o.w o.t o.d o.z on (fun i => valT o.t (lane x o.t.size i)) lo hi ∧
      exec (.vwiden o) s = .next (s₁.landPair 2 o.d o.z on (lanes o.w o.t) lo hi 0))

/-- R334 to R337, R339: VCMP and VMLOG write masks, VSEL and VMPOP read them, VMOVX writes one lane; VNOP does nothing. With no active
lane VCMP writes nothing, nor does VMPOP without zeroing (R354). -/
def Obligations.VectorMasksAndSelection : Prop :=
  (∀ s, exec .vnop s = .next s) ∧
  (∀ (o : VCmp) (s s₁ s₂ : State) (x y : Nat), s.clear (.vcmp o) = true → s.source o.str .a o.w o.a = some (x, s₁) →
    s₁.source o.str .b o.w o.b = some (y, s₂) →
    let n := o.t.size
    let a := fun i => valT o.t (lane x n i)
    let b := fun i => valT o.t (lane y n i)
    let on := laneOn (s.readM o.m.val) n
    ∃ m : MWord, exec (.vcmp o) s = .next
        (if ∀ i < lanes o.w o.t, on i = false then s₂ else s₂.write 2 (.m o.md.val m)) ∧ ∀ j < 128, m.getLsbD j =
      if j < o.w.bits / 8 ∧ on (8 * j / n) = true then
        (match o.cond with
          | .eq => a (8 * j / n) == b (8 * j / n)
          | .ne => a (8 * j / n) != b (8 * j / n)
          | .lt => a (8 * j / n) < b (8 * j / n)
          | .le => a (8 * j / n) ≤ b (8 * j / n))
      else (s.readM o.md.val).getLsbD j) ∧
  (∀ (o : VTwo) (s s₁ s₂ : State) (x y : Nat), s.clear (.vsel o) = true → s.source o.str .a o.w o.a = some (x, s₁) →
    s₁.source o.str .b o.w o.b = some (y, s₂) →
    ∃ r, exec (.vsel o) s = .next (s₂.putW 2 o.str o.w o.d r 0) ∧ ∀ i < lanes o.w o.t, lane r o.t.size i =
      if laneOn (s.readM o.m.val) o.t.size i then lane x o.t.size i else lane y o.t.size i) ∧
  (∀ (o : VMlg) (s : State), s.clear (.vmlog o) = true →
    ∃ m : MWord, exec (.vmlog o) s = .next (s.write 2 (.m o.md.val m)) ∧ ∀ j,
      let a := (s.readM o.ma.val).getLsbD j
      let b := (s.readM o.mb.val).getLsbD j
      m.getLsbD j = match o.lop with
        | .and => a && b
        | .or => a || b
        | .xor => a != b
        | .andn => a && !b) ∧
  (∀ (o : VPop) (s : State), s.clear (.vmpop o) = true →
    let on := laneOn (s.readM o.m.val) o.t.size
    ∃ r, exec (.vmpop o) s = .next (s.landLanes 2 .none o.w o.d o.z on (lanes o.w o.t) r 0) ∧
      ∀ i < lanes o.w o.t, lane r o.t.size i = if on i then
        ((List.range i).filter (laneOn (s.readM o.c.val) o.t.size)).length % 2 ^ o.t.size
      else if o.z then 0 else lane (s.readV o.d.val).toNat o.t.size i) ∧
  (∀ (o : VXf) (s : State), s.clear (.vmovx o) = true →
    ∃ r : VWord, exec (.vmovx o) s = .next (s.write 4 (.v o.d.val r false)) ∧ ∀ i < 1024 / o.t.size, lane r.toNat o.t.size i =
      if i = o.k.val then (s.readS o.sa.val).toNat % 2 ^ o.t.size else lane (s.readV o.d.val).toNat o.t.size i)

/-- R216 to R219, R225, R340 to R342, R350 to R352: reductions, the scan, the census, packing and the block formats. -/
def Obligations.VectorReductionsAndBlocks : Prop :=
  let vals := fun (t : Elem) (on : Nat → Bool) (xs : List Nat) => ((List.range xs.length).filter on).map fun i =>
    valT t ((xs[i]?).getD 0)
  WholeOne .vredadd 4 (fun o on xs =>
    let t := if o.t.signed then .i32 else .n32
    ((nearest t (vals o.t on xs).sum % 2 ^ 32).toNat, if fitsType t (vals o.t on xs).sum then 0 else flagSat)) ∧
  WholeOne .vredmax 4 (fun o on xs => (((vals o.t on xs).foldl max (minT o.t) % 2 ^ 32).toNat, 0)) ∧
  WholeOne .vredmin 4 (fun o on xs => (((vals o.t on xs).foldl min (maxT o.t) % 2 ^ 32).toNat, 0)) ∧
  WholeOne .vcensus 4 (fun o on xs => ((((List.range xs.length).filter on).map fun i =>
    censusOf o.t ((xs[i]?).getD 0)).foldl min 255, 0)) ∧
  WholeOne .vsgnmap 3 (fun o _ xs => (packLanes 1 (xs.map fun x => if 0 < valT o.t x then 1 else 0), 0)) ∧
  (∀ (o : VScn) (s s₁ : State) (x : Nat), s.clear (.vscan o) = true → s.source o.str .a o.w o.a = some (x, s₁) →
    let n := o.t.size
    let on := laneOn (s.readM o.m.val) n
    let head := fun i => i = 0 ∨ (o.seg = true ∧ laneOn (s.readM o.head.val) n i = true)
    ∀ y : Nat → Int, (∀ i, y i = (if head i then 0 else y (i - 1)) + if on i then valT o.t (lane x n i) else 0) →
    ∃ r, (∀ i < lanes o.w o.t, lane r n i = if on i then (nearest o.t (y i) % 2 ^ n).toNat
        else if o.z || o.str == .d then 0 else lane (s.readV o.d.val).toNat n i) ∧
      exec (.vscan o) s = .next (s₁.landLanes 6 o.str o.w o.d o.z on (lanes o.w o.t) r
        (flagsOf on (fun i => if fitsType o.t (y i) then 0 else flagSat) (lanes o.w o.t)))) ∧
  (∀ (o : VTwo) (s s₁ s₂ : State) (x y : Nat), s.clear (.vpack4 o) = true → s.source o.str .a o.w o.a = some (x, s₁) →
    s₁.source o.str .b o.w o.b = some (y, s₂) →
    let l := o.w.bits / 8
    let on := laneOn (s.readM o.m.val) 4
    let v := fun i => valT .i8 (if i < l then lane x 8 i else lane y 8 (i - l))
    ∃ r, (∀ i < 2 * l, lane r 4 i = if on i then (nearest .i4 (v i) % 16).toNat
        else if o.z || o.str == .d then 0 else lane (s.readV o.d.val).toNat 4 i) ∧
      exec (.vpack4 o) s = .next (s₂.landLanes 3 o.str o.w o.d o.z on (2 * l) r
        (flagsOf on (fun i => if fitsType .i4 (v i) then 0 else flagSat) (2 * l)))) ∧
  (∀ (o : VImm) (s s₁ : State) (x : Nat), s.source o.str .a o.w o.a = some (x, s₁) →
    (s.clear (.vbsenc o) = true → ∃ r f, exec (.vbsenc o) s = .next (s₁.putW 4 o.str o.w o.d r f) ∧
      r < 256 ^ (17 * (lanes o.w o.t / 32)) ∧
      ∀ k < lanes o.w o.t / 32, ∀ j < 17, byteOf r (17 * k + j) =
        ((bs4Enc ((List.range 32).map fun i => valT o.t (lane x o.t.size (32 * k + i))) o.t.size o.imm.val).1[j]?).getD 0) ∧
    (s.clear (.vbsdec o) = true → ∃ r f, exec (.vbsdec o) s = .next (s₁.putW 4 o.str o.w o.d r f) ∧
      ∀ k < lanes o.w o.t, lane r o.t.size k = ((bs4Dec (BitVec.ofNat 8 (x / 2 ^ (136 * (k / 32)))).toInt
        (BitVec.ofNat 4 (x / 2 ^ (136 * (k / 32) + 8 + 4 * (k % 32)))).toInt o.t o.imm.val).1 % 2 ^ o.t.size).toNat))

/-- R3, R188, R353: VRFGATE sets VGATE; a bank gated off loses its contents, so that its registers read as free values, a bank
whose bit clears wakes for 40 cycles, and every other bank keeps its registers. Beside a VRFGATE in another slot of the bundle both
go by the banks as they were at issue. -/
def Obligations.BankGating : Prop :=
  ∀ (k : BitVec 4) (s : State), s.clear (.vrfgate k) = true →
    let c := s.rd
    let old := (c.csrs csrVgate).setWidth 4
    let lost := fun (n : Nat) => k.getLsbD (n / 8) && !old.getLsbD (n / 8)
    ∃ t, exec (.vrfgate k) s = .next t ∧ t.cur.csrs csrVgate = k.setWidth 64 ∧
      (∀ n : Fin 32, t.cur.undef.v.getLsbD n = (lost n.val || c.undef.v.getLsbD n)) ∧
      (∀ n : Fin 32, t.cur.vpois.getLsbD n = (!lost n.val && c.vpois.getLsbD n)) ∧
      (∀ n : Fin 32, lost n.val = true → ({ t with issueCur := none } : State).readV n.val = s.free (200 + n.val) 1024) ∧
      (∀ j : Fin 4, t.cur.wake[j] = if old.getLsbD j.val && !k.getLsbD j.val then s.cycle + 40 else c.wake[j]) ∧
      (∀ m : Fin 17, m ≠ csrVgate → t.cur.csr[m] = s.cur.csr[m]) ∧
      t = s.setCur (fun c => { c with
        csr := t.cur.csr, undef := { c.undef with v := t.cur.undef.v }, vpois := t.cur.vpois, wake := t.cur.wake })

/-- R344 to R348: VLD, VLDS and VGATHER put the bytes of their active lanes, and nothing else, into the destination; an
uncorrectable error in one of them is counted and poisons the whole destination. With no active lane and no zeroing nothing
is written (R354). -/
def Obligations.VectorLoads : Prop :=
  let fill := fun (s : State) (us : List Unit_) => us.any fun u => (s.unitBytes u).2
  let counted := fun (s : State) (bad : Bool) => if bad then s.count 0x2008 else s
  (∀ (o : VLdf) (s : State),
    let av := (s.readV o.a.val).toNat
    let b := vecBase av o.off o.w
    let contiguous := fun (i : Nat) => b + (i * (max o.t.size 8 / 8) : Nat)
    let strided := fun (i : Nat) => b + i * (BitVec.ofNat 32 (av / 2 ^ 32)).toInt
    let loads := fun (i : Instr) (m : Nat) (addr : Nat → Int) =>
      let on := laneOn (s.readM o.m.val) m
      let us := unitsOf on (o.w.bits / m) m addr
      0 ≤ b → b < 2 ^ 32 → s.clear i = true → s.unitsOk us true = true →
        ∃ r, exec i s = .next (if o.z = false ∧ ∀ i < o.w.bits / m, on i = false then s
            else (counted s (fill s us)).write 6 (.v o.d.val (putLow (s.readV o.d.val) o.w.bits r) (fill s us))) ∧
          ∀ i < o.w.bits / m, lane r m i = if on i then leNat (s.view s.loadMem.1 (s.at_ (addr i)) (m / 8))
            else if o.z then 0 else lane (s.readV o.d.val).toNat m i;
    loads (.vld o) (max o.t.size 8) contiguous ∧ loads (.vlds o) o.t.size strided) ∧
  (∀ (o : VOne) (s s₁ : State) (x : Nat), s.clear (.vgather o) = true → s.source o.str .a o.w o.a = some (x, s₁) →
    let on := laneOn (s.readM o.m.val) 32
    let us := unitsOf on (o.w.bits / 32) o.t.size (fun i => ((lane x 32 i : Nat) : Int))
    s₁.unitsOk us true = true →
      ∃ r, exec (.vgather o) s = .next (if o.str ≠ .d ∧ o.z = false ∧ ∀ i < o.w.bits / 32, on i = false then s₁
          else if o.str = .d
          then (counted s₁ (fill s₁ us)).push (qOf o.d.val) o.w 10 (BitVec.ofNat 1024 (r % 2 ^ o.w.bits)) (fill s₁ us)
          else (counted s₁ (fill s₁ us)).write 10 (.v o.d.val (putLow (s.readV o.d.val) o.w.bits r) (fill s₁ us))) ∧
        ∀ i < o.w.bits / 32, lane r 32 i =
          if on i then (valT o.t (leNat (s₁.view s₁.loadMem.1 (s₁.at_ ((lane x 32 i : Nat) : Int)) (o.t.size / 8))) % 2 ^ 32).toNat
          else if o.z || o.str == .d then 0 else lane (s.readV o.d.val).toNat 32 i)

/-- R197, R198, R345 to R349: VST, VSTS and VSCATTER store the bytes of their active lanes, the higher lane where two meet: those of
the own share at once, those of a peer or multicast address 8 cycles later; they leave every other byte as it was, but for CENSUS
of a tensor descriptor they are given, whose status bits they keep. A word whose bytes are all stored is no longer poisoned, and
every other mark stays. Where no completion object is met the stored bytes are defined after it, and no other byte changes in
that. VSCATTER clamps, with SAT. -/
def Obligations.VectorStores : Prop :=
  ∀ (o : VStf) (s : State), s.Canonical → s.landedNow = [] →
    let av := (s.readV o.a.val).toNat
    let b := vecBase av o.off o.w
    let y := (s.readV o.b.val).toNat
    let d : Nat := av / 2 ^ 64 % 2 ^ 32
    let td := leNat (s.view s.loadMem.1 (s.at_ d) 64)
    let stores := fun (i : Instr) (on : Nat → Bool) (count m : Nat) (addr : Nat → Int) (val : Nat → Nat) (f : BitVec 5)
        (load : Bool) (census : Option Nat) =>
      s.clear i = true → s.unitsOk (unitsOf on count (8 * m) addr) load = true →
        let near := fun l => on l && !isFar (addr l)
        let stored := fun (a : Nat) => ∃ l < count, near l = true ∧ s.at_ (addr l) ≤ a ∧ a < s.at_ (addr l) + m
        ∃ t : State, exec i s = .next (t.flag 1 f) ∧
          t = { s with mem := t.mem, poison := t.poison, undef := t.undef, cur := t.cur, peers := t.peers } ∧
          t.cur = { s.cur with recent := t.cur.recent } ∧
          (∀ l < count, near l = true → ∀ j < m, census ≠ some (s.at_ (addr l) + j) →
            (∀ l' < count, l < l' → near l' = true → ∀ j' < m, s.at_ (addr l') + j' ≠ s.at_ (addr l) + j) →
            t.mem.read (s.at_ (addr l) + j) = byteOf (val l) j) ∧
          (∀ a, ¬ stored a → census ≠ some a → t.mem.read a = s.mem.read a) ∧
          (∀ v, v ∈ t.poison ↔ v ∈ s.poison ∧ ¬ ∀ j < 8, stored (8 * v + j)) ∧
          ((∀ l < count, near l = true → s.noObject (s.at_ (addr l)) m) → (∀ a, census = some a → s.noObject a 1) →
            ∀ a, inRanges t.undef a = true ↔ inRanges s.undef a = true ∧ ¬ stored a ∧ census ≠ some a) ∧
          ∃ (mc : Option (Nat × List Nat)) (cells : List (Nat × Byte)),
            t.peers = (if cells = [] then s.peers else s.peers ++ [⟨s.cycle + 8, s.cur.id, s.cycle, cells, mc, false⟩]) ∧
            (mc = none ↔ ∀ l < count, on l = true → (addr l).toNat.testBit 25 = false) ∧
            (∀ v l, mc = some (v, l) → (∃ lo hi, mcastSpan (unitsOf on count (8 * m) addr) = some (lo, hi) ∧
                s.mcwNo (polOf s.cur.id.core) s.cur.launch.asid lo (hi - lo) = some v) ∧
              ∀ a, a ∈ l ↔ ∃ x < count, on x = true ∧ (addr x).toNat.testBit 25 = true ∧
                ∃ p ∈ s.farPlaces (unitsOf on count (8 * m) addr) (addr x).toNat, p ≤ a ∧ a < p + m) ∧
            ∀ c, c ∈ cells ↔ ∃ l < count, on l = true ∧ isFar (addr l) = true ∧
              ∃ p ∈ s.farPlaces (unitsOf on count (8 * m) addr) (addr l).toNat, ∃ j < m, c = (p + j, byteOf (val l) j)
    let mask := s.readM o.m.val
    let unit := max o.t.size 8
    let both := fun (census : Option Nat) =>
      stores (.vst o) (laneOn mask unit) (o.w.bits / unit) (unit / 8) (fun i => b + (i * (unit / 8) : Nat)) (lane y unit) 0
        false census ∧
      stores (.vsts o) (laneOn mask o.t.size) (lanes o.w o.t) (o.t.size / 8)
        (fun i => b + i * (BitVec.ofNat 32 (av / 2 ^ 32)).toInt) (lane y o.t.size) 0 false census
    (0 ≤ b → b < 2 ^ 32 → av.testBit 96 = false → both none) ∧
    (0 ≤ b → b < 2 ^ 32 → av.testBit 96 = true → d % 64 = 0 → s.reaches d 64 true = true → td % 16 = typeCode o.t →
      tdBad td = false → both (some (s.at_ d + 2))) ∧
    (let v := fun i => if o.t.signed then ((BitVec.ofNat 32 (lane y 32 i)).toInt) else ((lane y 32 i : Nat) : Int)
     stores (.vscatter o) (laneOn mask 32) (o.w.bits / 32) (o.t.size / 8)
        (fun i => ((lane av 32 i : Nat) : Int) + o.off.toInt * (o.w.bits / 8 : Nat))
        (fun i => (nearest o.t (v i) % 2 ^ o.t.size).toNat)
        (flagsOf (laneOn mask 32) (fun i => if fitsType o.t (v i) then 0 else flagSat) (o.w.bits / 32)) true none)

/-- R226, R349: a VST or VSTS with a tensor descriptor lowers CENSUS to the smallest count of the active lanes' elements,
after its own bytes are written; every other byte of the descriptor that it does not store to, the status bits among them, stays. -/
def Obligations.VectorStoreCensus : Prop :=
  ∀ (o : VStf) (s : State), s.Canonical → s.landedNow = [] →
    let av := (s.readV o.a.val).toNat
    let b := vecBase av o.off o.w
    let d : Nat := av / 2 ^ 64 % 2 ^ 32
    let td := leNat (s.view s.loadMem.1 (s.at_ d) 64)
    let on := laneOn (s.readM o.m.val) o.t.size
    let unit := max o.t.size 8
    let counts := fun (i : Instr) (us : List Unit_) =>
      let clear := fun (x n : Nat) => ∀ u ∈ us, isFar u.1 = true ∨ s.at_ u.1 + u.2 ≤ x ∨ x + n ≤ s.at_ u.1
      s.clear i = true → 0 ≤ b → b < 2 ^ 32 → av.testBit 96 = true → d % 64 = 0 → s.reaches d 64 true = true →
      td % 16 = typeCode o.t → tdBad td = false → s.unitsOk us false = true → s.noObject (s.at_ d + 2) 1 →
      clear (s.at_ d + 2) 1 →
        ∃ t, exec i s = .next t ∧ (t.mem.read (s.at_ d + 2)).toNat =
          (((List.range (lanes o.w o.t)).filter on).map fun l => censusOf o.t (lane (s.readV o.b.val).toNat o.t.size l)).foldl
            min (min 255 (leNat (s.view s.mem (s.at_ d + 2) 1))) ∧
          ∀ j < 64, j ≠ 2 → clear (s.at_ d + j) 1 → t.mem.read (s.at_ d + j) = s.mem.read (s.at_ d + j)
    counts (.vst o) (unitsOf (laneOn (s.readM o.m.val) unit) (o.w.bits / unit) unit fun i => b + (i * (unit / 8) : Nat)) ∧
    counts (.vsts o) (unitsOf on (lanes o.w o.t) o.t.size fun i => b + i * (BitVec.ofNat 32 (av / 2 ^ 32)).toInt)

/-! ### The B slot -/

/-- R266, R291, R294: BR goes to the target of its first test that holds and falls through when none does; JMP adds 32 times
its offset to the bundle's PC; SETBT stores such a target; a transfer out of the code region raises ADDRESS. -/
def Obligations.BranchesAndJumps : Prop :=
  ∀ (t0 t1 t2 t3 : BTest) (off : BitVec 28) (bt : BtNo) (o25 : BitVec 25) (s : State),
    let holds := fun (t : BTest) => s.readP t.p.val != t.neg
    let pc := fun (x : Int) => (((s.cur.pc.toNat : Int) + 32 * x) % 2 ^ 64).toNat
    let goes := fun (i : Instr) (target : Nat) => (s.cur.inCode target = true → ∃ t, exec i s = .next t ∧ Transfers s t target) ∧
      (s.cur.inCode target = false → exec i s = .next (s.raise causeAddress (BitVec.ofNat 64 target) 0))
    exec .bnop s = .next s ∧
    (s.clear (.br t0 t1 t2 t3) = true →
      (∀ (n : Nat) (t : BTest), [t0, t1, t2, t3][n]? = some t → holds t = true →
        (∀ m < n, ∀ t' : BTest, [t0, t1, t2, t3][m]? = some t' → holds t' = false) → goes (.br t0 t1 t2 t3) (s.cur.bt[t.x]).toNat) ∧
      ((∀ t ∈ [t0, t1, t2, t3], holds t = false) → exec (.br t0 t1 t2 t3) s = .next s)) ∧
    (s.clear (.jmp off) = true → goes (.jmp off) (pc off.toInt)) ∧
    (s.clear (.setbt bt o25) = true → exec (.setbt bt o25) s = .next (s.setCur fun c =>
      { c with bt := c.bt.set bt (BitVec.ofNat 22 (pc o25.toInt)) }))

/-- R209, R291, R292: CALL and CALLI push the PC of the next bundle, moving the oldest of 8 entries to the call-spill area, and
go to their target; RET goes to the newest entry and takes back the newest spilled one. A full spill area or an empty
stack raises STACK instead, and a target outside the code region ADDRESS. -/
def Obligations.CallsAndReturns : Prop :=
  ∀ (off : BitVec 28) (bt : BtNo) (s : State),
    let depth := (s.cur.csrs csrSpillDepth).toNat
    let ret : Word := BitVec.ofNat 64 ((s.cur.pc.toNat + 32) % 2 ^ 22 + 2 ^ 63)
    let spill := fun (i : Nat) => s.cur.place (4096 * s.cur.launch.sram + 8 * i)
    let last := leNat (s.view s.loadMemory (spill (depth - 1)) 8)
    let popped := fun (c : Ctx) => c.setCsr csrSpillDepth (BitVec.ofNat 64 (depth - 1))
    let calls := fun (i : Instr) (target : Nat) => s.clear i = true →
      (s.cur.inCode target = false → exec i s = .next (s.raise causeAddress (BitVec.ofNat 64 target) 0)) ∧
      (s.cur.inCode target = true →
        (s.cur.rstack.length < 8 → ∃ t, exec i s = .next t ∧
          Transfers (s.setCur fun c => { c with rstack := ret :: s.cur.rstack }) t target) ∧
        (s.cur.rstack.length = 8 → depth < s.cur.launch.spill → ∃ t, exec i s = .next t ∧
          Transfers ((s.poke (spill depth) (leBytes ((s.cur.rstack.getLast?).getD 0).toNat 8)).setCur fun c =>
            { c.setCsr csrSpillDepth (BitVec.ofNat 64 (depth + 1)) with rstack := ret :: s.cur.rstack.dropLast }) t target) ∧
        (s.cur.rstack.length = 8 → s.cur.launch.spill ≤ depth → exec i s = .next (s.raise causeStack 0 0)))
    let returns := fun (u : State) (target : Nat) =>
      (s.cur.inCode target = true → ∃ t, exec .ret s = .next t ∧ Transfers u t target) ∧
      (s.cur.inCode target = false → exec .ret s = .next (s.raise causeAddress (BitVec.ofNat 64 target) 0))
    calls (.call off) (((s.cur.pc.toNat : Int) + 32 * off.toInt) % 2 ^ 64).toNat ∧ calls (.calli bt) (s.cur.bt[bt]).toNat ∧
    (s.clear .ret = true →
      (∀ e rest, s.cur.rstack = e :: rest → depth = 0 → returns (s.setCur fun c => { c with rstack := rest }) (e.toNat % 2 ^ 22)) ∧
      (∀ e rest, s.cur.rstack = e :: rest → 0 < depth →
        returns (s.setCur fun c => { popped c with rstack := rest ++ [BitVec.ofNat 64 last] }) (e.toNat % 2 ^ 22)) ∧
      (s.cur.rstack = [] → 0 < depth → returns (s.setCur popped) (last % 2 ^ 22)) ∧
      (s.cur.rstack = [] → depth = 0 → exec .ret s = .next (s.raise causeStack 0 0)))

/-- R296 to R299: LOOPN loads its iterators from s24 on and replays the next bundle; LOOPB and LOOPS start a block loop over
the n bundles that follow; a loop still active ends first, but for a block loop that LOOPN nests in, and the iterators of a nest
that ends are no longer live, with INDEX and VALUE kept; every other iterator stays. LOOPS writes its exit predicate 0, and raises
STREAM unless the stream is read, by a gather too (the model's reading, log 75). After a bundle without a transfer a LOOPN replays
its bundle until its nest is done; once it is, or at any other bundle, a block loop returns to its body until its passes are done,
and else the next bundle follows. -/
def Obligations.LoopsAndSequencing : Prop :=
  (∀ (dims : Fin 4) (first : ItNo) (n : Fin 64) (count : BitVec 22) (q : QNo) (p : PNo) (s : State),
     let next : Option Word := some (s.cur.pc + 32)
     let inBody := match s.cur.block with
       | some b => s.cur.pc != b.pc + BitVec.ofNat 64 (32 * b.n)
       | none => false
     let nests : Prop := s.cur.suspended = false ∧ inBody = true ∧ s.cur.nest = none
     let ended := fun (t : State) => ∀ j : Fin 8, t.cur.it[j] = s.cur.itEnded j
     (s.clear (.loopn dims first) = true → ∃ t : State, exec (.loopn dims first) s = .next t ∧
       t.cur.nest = some ⟨s.cur.pc + 32, first.val, dims.val + 1⟩ ∧ t.cur.npc = next ∧ t.cur.suspended = false ∧
       t = s.setCur (fun c => { c with it := t.cur.it, nest := t.cur.nest, npc := next, block := t.cur.block, suspended := false }) ∧
       (nests → t.cur.block = s.cur.block) ∧ (¬ nests → t.cur.block = none) ∧
       ∀ j : Fin 8,
         (¬ (first.val ≤ j.val ∧ j.val ≤ first.val + dims.val) → t.cur.it[j] = s.cur.itEnded j) ∧
         (first.val ≤ j.val → j.val ≤ first.val + dims.val →
           let w := s.readS (24 + j.val)
           (t.cur.it[j]).index = 0 ∧ (t.cur.it[j]).cm1 = w.extractLsb' 0 16 ∧ (t.cur.it[j]).stride = w.extractLsb' 16 30 ∧
           (t.cur.it[j]).live = true ∧ (t.cur.it[j]).dir = w.getLsbD 46 ∧
           (t.cur.it[j]).value = if w.getLsbD 46 then (w.extractLsb' 16 30).signExtend 64 * (w.extractLsb' 0 16).zeroExtend 64 else 0)) ∧
     (s.clear (.loopb n count) = true → ∃ t : State, exec (.loopb n count) s = .next t ∧ ended t ∧
       t.cur.block = some ⟨s.cur.pc, n.val + 1, .passes count.toNat⟩ ∧ t.cur.nest = none ∧ t.cur.npc = next ∧
       t = s.setCur fun c => { c with block := t.cur.block, nest := none, npc := next, it := t.cur.it, suspended := false }) ∧
     (s.clear (.loops n q p) = true →
       ((s.cur.q[q]).kind = .read ∨ (s.cur.q[q]).kind = .gather → ∃ t : State, exec (.loops n q p) s = .next (t.write 1 (.p p.val false)) ∧
         ended t ∧ t.cur.block = some ⟨s.cur.pc, n.val + 1, .stream q p⟩ ∧ t.cur.nest = none ∧ t.cur.npc = next ∧
         t = s.setCur fun c => { c with block := t.cur.block, nest := none, npc := next, it := t.cur.it, suspended := false }) ∧
       ((s.cur.q[q]).kind ≠ .read → (s.cur.q[q]).kind ≠ .gather →
         exec (.loops n q p) s = .next (s.raise causeStream 0 0)))) ∧
  (∀ (c : Ctx),
     let away : Prop := ∀ l, c.nest = some l → c.pc ≠ l.pc
     (∀ l v, c.nest = some l → c.pc = l.pc → advanceNest c.it l.dims l.first = (v, true) → c.sequence = { c with it := v }) ∧
     (∀ l, c.nest = some l → c.pc = l.pc → (advanceNest c.it l.dims l.first).2 = false →
       (∀ n : Fin 8, c.sequence.it[n] = c.itEnded n) ∧
       c.sequence = ({ c with nest := none, it := c.sequence.it } : Ctx).sequence) ∧
     (away → ∀ b : BlockLoop, c.block = some b → c.pc = b.pc + BitVec.ofNat 64 (32 * b.n) →
       (∀ k, b.fin = .passes (k + 2) → c.sequence = { c with block := some { b with fin := .passes (k + 1) }, pc := b.pc + 32 }) ∧
       (b.fin = .passes 1 → c.sequence = { c with block := none, pc := c.pc + 32 }) ∧
       (∀ q p, b.fin = .stream q p → c.sequence = { c with pc := b.pc + 32 })) ∧
     (away → (c.block = none ∨ ∃ b, c.block = some b ∧ c.pc ≠ b.pc + BitVec.ofNat 64 (32 * b.n)) →
       c.sequence = { c with pc := c.pc + 32 }))

/-- R145, R146: the arbiter runs a marked victim; else a context that no other ready one outranks among those whose declared run
fits the slice. With none that fits, a slice still running ends there, and a new one begins with the highest-ranked context. -/
def Obligations.Arbitration : Prop :=
  ∀ (s : State) (core : Nat),
    let fits := fun (c : Ctx) => s.cycle + c.launch.declared ≤ (s.core core).sliceEnd
    (∀ v ∈ s.runnable core, v.victim ≠ none →
      ∃ v' ∈ s.runnable core, v'.victim ≠ none ∧ ((s.arbitrate core).core core).run = some v'.id.slot) ∧
    ((∀ c ∈ s.runnable core, c.victim = none) →
      ((∃ c ∈ s.runnable core, fits c) → ∃ c ∈ s.runnable core, fits c ∧ ((s.arbitrate core).core core).run = some c.id.slot ∧
        ((s.arbitrate core).core core).sliceEnd = (s.core core).sliceEnd ∧
        ∀ d ∈ s.runnable core, fits d → d ≠ c → ranksBefore d c = false) ∧
      (let w := if (s.core core).slicing then s.endSlice core else s
       (∀ c ∈ s.runnable core, ¬ fits c) → w.runnable core ≠ [] →
        ∃ c ∈ w.runnable core, ((s.arbitrate core).core core).run = some c.id.slot ∧
        ((s.arbitrate core).core core).sliceEnd = s.cycle + s.reg 0x0810 % 2 ^ 16 ∧
        ((s.arbitrate core).core core).slicing = true ∧
        ∀ d ∈ w.runnable core, d ≠ c → ranksBefore d c = false) ∧
      (s.runnable core = [] → ((s.arbitrate core).core core).run = none))

/-- R301 to R304: YRUN sets the declared run, TEND ends the task with its loops, and the arbiter runs after each; TRAP raises
its cause with its code; RFT outside a handler is ILLEGAL and in one goes back to TRAP_PC, clears IN_TRAP and LEASE and
asks again for a lease left over; suspended loops go on, a LOOPN with the bundle at TRAP_PC. -/
def Obligations.YieldEndTrapReturn : Prop :=
  ∀ (n : BitVec 28) (code : BitVec 8) (s : State),
    (s.clear (.yrun n) = true → ∃ u : State, exec (.yrun n) s = .next (u.arbitrate s.cur.id.core) ∧
      u = s.setCur (fun c => { c with launch := u.cur.launch }) ∧ u.cur.launch = { s.cur.launch with declared := n.toNat }) ∧
    (s.clear .tend = true → ∃ u : State, exec .tend s = .next (u.arbitrate s.cur.id.core) ∧
      u.cur.phase = .ended ∧ u.cur.block = none ∧ u.cur.nest = none ∧ u.mem = s.mem ∧ u.cur.s = s.cur.s) ∧
    (s.clear (.trap code) = true → exec (.trap code) s = .next (s.raise causeTrap (code.zeroExtend 64) 0)) ∧
    (s.cur.inTrap = false → exec .rft s = .next (s.raise causeIllegal 0 0)) ∧
    (s.clear .rft = true → s.cur.inCode (s.cur.csrs csrTrapPc).toNat = true → ∃ t : State, exec .rft s = .next t ∧
      t.cur.npc = some (s.cur.csrs csrTrapPc) ∧ t.cur.pc = s.cur.pc ∧ t.cur.inTrap = false ∧
      (t.cur.csrs csrTrapState).getLsbD 1 = false ∧ t.cur.suspended = false ∧ t.cur.s = s.cur.s ∧ t.mem = s.mem ∧
      (s.cur.suspended = true → t.cur.block = s.cur.block ∧
        t.cur.nest = s.cur.nest.map fun l => { l with pc := s.cur.csrs csrTrapPc }) ∧
      t.cur.lease = (if (s.cur.csrs csrTrapState).getLsbD 1 = true ∧ s.cur.csrs csrLeaseLeft ≠ 0 then .requested
        else s.cur.lease))

/-- R305, R306: SEMW goes on once the counter of its completion object has reached the iterator's VALUE, and stalls before;
BARW of the last member to arrive, with no peer store of the gang from an earlier cycle in flight, inverts PHASE and releases the
members; before that it stalls. -/
def Obligations.SemaphoreAndBarrierWaits : Prop :=
  (∀ (it : ItNo) (off : BitVec 22) (s : State), s.clear (.semw it off) = true → s.localOk s.cur off.toNat 16 true = true →
    let a := s.cur.place off.toNat
    poisonedAt s.loadMem.2 a 8 = false →
      exec (.semw it off) s = .next
        (if (s.cur.it[it]).value.toNat ≤ leNat (s.view s.loadMem.1 a 8) then s else s.stall)) ∧
  (∀ (pipe : Fin 4) (s : State), s.clear (.barw pipe) = true → s.cur.barrier = none → s.cur.id ∈ s.cur.launch.members →
    let others := s.cur.launch.members.filter fun m => m != s.cur.id
    ((∀ m ∈ others, (s.ctx m).barrier = some (pipe.val, 0)) → (∀ p ∈ s.peers, p.src ∈ s.cur.launch.members → s.cycle ≤ p.issued) →
      ∃ t : State, exec (.barw pipe) s = .next t ∧ t.cur.barrier = none ∧ t.cur.stalled = s.cur.stalled ∧
        (∀ m ∈ others, (t.ctx m).barrier = some (pipe.val, 1)) ∧
        ∀ a, (s.pol (polOf s.cur.id.core)).areas.find? (fun a => a.1 == s.cur.launch.gangArea) = some a →
          pipe.val < a.2.length → t.pipeReg t.cur pipe.val =
            { s.pipeReg s.cur pipe.val with phase := 1 - (s.pipeReg s.cur pipe.val).phase }) ∧
    ((∃ m ∈ others, (s.ctx m).barrier ≠ some (pipe.val, 0)) ∨ (∃ p ∈ s.peers, p.src ∈ s.cur.launch.members ∧ p.issued < s.cycle) →
      exec (.barw pipe) s = .next ((s.setCur fun c => { c with barrier := some (pipe.val, 0) }).stall)))

/-! ### The M slot -/

/-- R200, R366, R377: MLEASE enters a request at the tail of the lease queue, or raises LEASE while the context holds or awaits
a lease; MFREE ends or withdraws one; MNOP and MTCINV change nothing. -/
def Obligations.MatrixLeases : Prop :=
  ∀ (n : Fin 256) (s : State),
    let p := polOf s.cur.id.core
    exec .mnop s = .next s ∧ (s.clear .mtcinv = true → exec .mtcinv s = .next s) ∧
    (s.clear (.mlease n) = true →
      (s.cur.lease = .none → ∃ t : State, exec (.mlease n) s = .next t ∧
        t.cur = { s.cur.setCsr csrLeaseLeft (BitVec.ofNat 64 (n.val + 1)) with lease := .requested } ∧
        (t.pol p).leaseQ = (s.pol p).leaseQ ++ [(s.cur.id, n.val + 1)] ∧ (t.pol p).holder = (s.pol p).holder ∧
        t.mem = s.mem) ∧
      (s.cur.lease ≠ .none → exec (.mlease n) s = .next (s.raise causeLease 0 0))) ∧
    (s.clear .mfree = true →
      (s.cur.lease = .none → exec .mfree s = .next s) ∧
      (s.cur.lease ≠ .none → ∃ t : State, exec .mfree s = .next t ∧
        t.cur = { s.cur.setCsr csrLeaseLeft 0 with lease := .none } ∧ (t.pol p).holder ≠ some s.cur.id ∧
        (∀ x ∈ (t.pol p).leaseQ, x.1 ≠ s.cur.id) ∧
        (∀ x ∈ (s.pol p).leaseQ, x.1 ≠ s.cur.id → x ∈ (t.pol p).leaseQ) ∧ t.mem = s.mem))

/-- R357, R365: MSPEC copies the low 256 bits of its vector register; MSPECF replaces or adds to one field and leaves every
other bit; MRPROG gives the specifier of the pipe's latest load with its row progress as START; while the task's first load of the
pipe waits behind others it is that load's (the model's reading, log 126), and zero where there is none. -/
def Obligations.MatrixSpecifiers : Prop :=
  ∀ (os : OsNo) (v : VNo) (field : Fin 16) (imm : BitVec 18) (pipe : Bool) (s : State),
    let old := s.cur.os[os]
    (s.clear (.mspec os v) = true → ∃ t : State, exec (.mspec os v) s = .next t ∧
      t.cur.os = s.cur.os.set os ((s.readV v.val).extractLsb' 0 256) ∧
      t = s.setCur fun c => { c with os := t.cur.os, osVer := t.cur.osVer }) ∧
    (s.clear (.mspecf os field imm) = true → ∃ (x : BitVec 256) (t : State), exec (.mspecf os field imm) s = .next t ∧
      t.cur.os = s.cur.os.set os x ∧ t = s.setCur (fun c => { c with os := t.cur.os, osVer := t.cur.osVer }) ∧
      (∀ f lo n, (f, lo, n) ∈ [(0, 1, 11), (1, 16, 8), (4, 128, 16), (5, 144, 8), (6, 152, 8), (7, 160, 16), (8, 176, 16),
          (9, 192, 16), (10, 208, 16), (12, 24, 8)] → field.val = f →
        x.extractLsb' lo n = imm.setWidth n ∧ ∀ j, j < lo ∨ lo + n ≤ j → x.getLsbD j = old.getLsbD j) ∧
      (field = 2 → old.getLsbD 0 = true → x.extractLsb' 32 32 = old.extractLsb' 32 32 + imm.signExtend 32 ∧
        ∀ j, j < 32 ∨ 64 ≤ j → x.getLsbD j = old.getLsbD j) ∧
      (field = 2 → old.getLsbD 0 = false → x.extractLsb' 32 64 = old.extractLsb' 32 64 + imm.signExtend 64 ∧
        ∀ j, j < 32 ∨ 96 ≤ j → x.getLsbD j = old.getLsbD j) ∧
      (field = 3 → x.extractLsb' 96 32 = imm.signExtend 32 ∧ ∀ j, j < 96 ∨ 128 ≤ j → x.getLsbD j = old.getLsbD j) ∧
      (field = 11 → x.extractLsb' 224 32 = old.extractLsb' 224 32 + imm.signExtend 32 ∧
        ∀ j < 224, x.getLsbD j = old.getLsbD j)) ∧
    (s.clear (.mrprog os pipe) = true → ∃ t : State, exec (.mrprog os pipe) s = .next t ∧
      t = s.setCur (fun c => { c with os := t.cur.os }) ∧
      (let p := s.pipeOf s.cur.id.core pipe
       if s.cur.pipeUsed.getLsbD pipe.toNat then t.cur.os[os].extractLsb' 24 8 = BitVec.ofNat 8 p.prog ∧
          ∀ j, j < 24 ∨ 32 ≤ j → t.cur.os[os].getLsbD j = p.last.getLsbD j
        else (∀ l, p.q.find? (fun l => l.ctx == s.cur.id && l.fill.isNone) = some l → t.cur.os[os] = l.spec) ∧
          ((∀ l ∈ p.q, l.ctx = s.cur.id → l.fill ≠ none) → t.cur.os[os] = 0)) ∧
      ∀ n : OsNo, n ≠ os → t.cur.os[n] = s.cur.os[n])

/-- R358 to R360, R364: MLDA, MLDB and MFILL enter at the tail of their pipe with the specifier as it stands, MLDA and MLDB with
their iterator's VALUE added to BASE; a local row that fails R108 raises ADDRESS instead, and so does the record's header or a row
of the literal that a load of compressed weights will touch, judged by memory as it stands then (the model's reading, log 66). -/
def Obligations.MatrixLoads : Prop :=
  ∀ (os : OsNo) (buf pipe : Bool) (it : Option ItNo) (ty : Elem) (pat : FillPat) (s : State),
    let queue := fun (s : State) (b : Bool) => (s.pipeOf s.cur.id.core b).q.map fun l => { l with head := 0 }
    let x := match it with
      | some n => spPut s.cur.os[os] 32 (if spLocal s.cur.os[os] then 32 else 64)
          (spAt s.cur.os[os] (s.cur.it[n]).value.toInt).a
      | none => s.cur.os[os]
    let bad := loadBad x it.isSome || s.specOff x
    let cw := fun (b : Bool) => s.cwTouches (s.pipeOf s.cur.id.core b)
      ⟨s.cur.id, 0, 0, x, os.val, s.cur.osVer[os], buf, none, spStart x, bad, false, 0, [], [], 0⟩
    let rows : Bool → List (Addr × Nat) := fun b => if bad then [] else
      if spLayout x = 3 then (cw b).1.map (fun a => (a, 2)) ++ (cw b).2.map fun a => (a, 96)
      else (((List.range (spRows x)).filter fun r => spStart x ≤ r).filterMap (loadRowAt x)).map fun a =>
        (a, encBytes (spEnc x) (spKlen x))
    let fails := fun (a : Addr × Nat) => a.1.place == .loc && !s.localOk s.cur a.1.a a.2 true
    let loads := fun (i : Instr) (b : Bool) => s.clear i = true →
      ((∀ a ∈ rows b, fails a = false) → ∃ (t : State) (l : LoadCmd), exec i s = .next t ∧ queue t b = queue s b ++ [l] ∧
        l.ctx = s.cur.id ∧ l.spec = x ∧ l.buf = buf ∧ l.bad = bad ∧ l.row = spStart x ∧ l.fill = none ∧
        queue t (!b) = queue s (!b) ∧ t.mem = s.mem ∧ t.cur.acc = s.cur.acc ∧ t.cur.os = s.cur.os) ∧
      (∀ a, (rows b).find? fails = some a → exec i s = .next (s.raise causeAddress (BitVec.ofNat 64 a.1.a) 0))
    loads (.mlda os buf it) false ∧ loads (.mldb os buf it) true ∧
    (s.clear (.mfill ty pat buf pipe) = true → ∃ (t : State) (l : LoadCmd), exec (.mfill ty pat buf pipe) s = .next t ∧
      queue t pipe = queue s pipe ++ [l] ∧ l.ctx = s.cur.id ∧ l.buf = buf ∧ l.fill = some (ty, pat) ∧
      queue t (!pipe) = queue s (!pipe) ∧ t.mem = s.mem ∧ t.cur.acc = s.cur.acc ∧ t.cur.os = s.cur.os)

/-- R200, R367, R368: under a held lease MMAC enters one step and MMACQ four into the tile order, and LEASE_LEFT falls by as
many, the lease ending at 0; types the array does not pair are ILLEGAL, and without a lease LEASE is raised. With no earlier command
ready to take effect, nothing else changes: no byte of memory, no register, accumulator or other CSR. -/
def Obligations.MatrixArrayCommands : Prop :=
  ∀ (b a : Bool) (acc : AccNo) (s : State),
    let left := (s.cur.csrs csrLeaseLeft).toNat
    let ty := fun (n : Nat) => s.cur.bufType n
    let spends := fun (t : State) (n : Nat) => t.cur.csrs csrLeaseLeft = BitVec.ofNat 64 (left - n) ∧
      (t.cur.lease = if left = n then .none else .held) ∧
      (∀ m : Fin 17, m ≠ csrLeaseLeft → t.cur.csrs m = s.cur.csrs m) ∧
      ((∀ e ∈ s.cur.mq, s.mqReady s.cur e = false) → ∃ new : List MCmd, new.length = n ∧
        t = { s with cur := t.cur, pols := t.pols } ∧ (left ≠ n → t.pols = s.pols) ∧
        t.cur = { s.cur with csr := t.cur.csr, lease := t.cur.lease, mq := s.cur.mq ++ new, nextSeq := s.cur.nextSeq + n })
    (pairOk (ty a.toNat) (ty (2 + b.toNat)) = false → exec (.mmac b a acc) s = .next (s.raise causeIllegal 0 0)) ∧
    (¬ (ty 0 = ty 1 ∧ ty 2 = ty 3 ∧ pairOk (ty 0) (ty 2) = true) → exec (.mmacq b a) s = .next (s.raise causeIllegal 0 0)) ∧
    (s.clear (.mmac b a acc) = true → (∀ e ∈ s.cur.mq, e.seq < s.cur.nextSeq) →
      (s.cur.lease = .none → exec (.mmac b a acc) s = .next (s.raise causeLease 0 0)) ∧
      (s.cur.lease = .requested → exec (.mmac b a acc) s = .next s.stall) ∧
      (s.cur.lease = .held → 1 ≤ left → ∃ t : State, exec (.mmac b a acc) s = .next t ∧ spends t 1 ∧
        ∃ m ∈ t.cur.mq, m.tile = acc.val ∧ m.seq = s.cur.nextSeq ∧ m.issued = s.cycle ∧
          m.kind = .step a b (ty a.toNat) (ty (2 + b.toNat)) (s.cur.bufOk.getLsbD a.toNat)
            (s.cur.bufOk.getLsbD (2 + b.toNat)))) ∧
    (s.clear (.mmacq b a) = true → (∀ e ∈ s.cur.mq, e.seq < s.cur.nextSeq) →
      (left < 4 ∨ s.cur.lease = .none → exec (.mmacq b a) s = .next (s.raise causeLease 0 0)) ∧
      (4 ≤ left → s.cur.lease = .requested → exec (.mmacq b a) s = .next s.stall) ∧
      (4 ≤ left → s.cur.lease = .held → ∃ t : State, exec (.mmacq b a) s = .next t ∧ spends t 4 ∧
        ∀ k : Fin 4, ∃ m ∈ t.cur.mq, m.tile = k.val ∧ m.seq = s.cur.nextSeq + k.val ∧ ∃ ta tb oa ob,
          m.kind = .step (a != decide (2 ≤ k.val)) (b != decide (k.val % 2 = 1)) ta tb oa ob))

/-- R229, R230, R369 to R373: a command on a tile with nothing before it takes effect at once: MZERO clears it, MSCALE shifts
every element, and MSHRD, MSTACC and MLDACC enter the store path, the first with its narrowed rows, the second with the
elements as they stand. -/
def Obligations.MatrixAccumulatorCommands : Prop :=
  ∀ (os : OsNo) (rnd : Rnd) (k : BitVec 6) (sh : Fin 64) (acc : AccNo) (s : State), s.tileFree acc.val = true →
    let x := s.cur.os[os]
    let ctr := if rnd = .rsto then s.cur.csrs csrHashCtr else 0
    let round := fun (y : Int) (n e : Nat) => match rnd with
      | .rne => rneShr y n
      | .rtz => rtzShr y n
      | .rsto => stoShr y n (laneBits (s.cur.csrs csrSeed) ctr e n)
    let path := fun (t : State) => (t.core s.cur.id.core).store
    let noRows := fun (n : Nat) (w : Nat) => ∀ r < n, spLocal x = true →
      s.localOk s.cur (storeRowAt x r).a w true = true
    (s.clear (.mzero acc) = true → ∃ t : State, exec (.mzero acc) s = .next t ∧ t.mem = s.mem ∧
      t.cur.acc = s.cur.acc.set acc Tile.zero ∧ t.cur.s = s.cur.s ∧ t.cur.csr = s.cur.csr) ∧
    (s.clear (.mscale rnd k acc) = true → ∃ t : State, exec (.mscale rnd k acc) s = .next t ∧ t.mem = s.mem ∧
      (∀ n : AccNo, n ≠ acc → t.cur.acc[n] = s.cur.acc[n]) ∧ (t.cur.acc[acc]).steps = (s.cur.acc[acc]).steps ∧
      (t.cur.acc[acc]).poison = (s.cur.acc[acc]).poison ∧
      ∀ i j : Fin 64, t.elem acc.val i j = nearest .i32 (if 0 ≤ k.toInt
        then round (s.elem acc.val i j) k.toInt.toNat (64 * i + j) else s.elem acc.val i j * 2 ^ (-k.toInt).toNat)) ∧
    (s.clear (.mshrd os rnd sh acc) = true → storeBad x true = false → spDv x = false →
      noRows (if spLayout x = 1 then spKlen x else spRows x)
        (encBytes (spEnc x) (if spLayout x = 1 then spRows x else spKlen x)) →
      ∃ (t : State) (c : StoreCmd), exec (.mshrd os rnd sh acc) s = .next t ∧ t.mem = s.mem ∧ t.cur.acc = s.cur.acc ∧
        path t = path s ++ [c] ∧ c.ctx = s.cur.id ∧ c.spec = x ∧ c.load = false ∧ c.poison = (s.cur.acc[acc]).poison ∧
        ∀ ty, spType x = some ty → ∀ r, (if spLayout x = 1 then r < spKlen x else r < spRows x) →
          ∀ e, (if spLayout x = 1 then e < spRows x else e < spKlen x) →
          lane (leNat ((c.rows[r]?).getD [])) ty.size e = (nearest ty (if spLayout x = 1
            then round (s.elem acc.val e r) sh.val (64 * e + r) else round (s.elem acc.val r e) sh.val (64 * r + e))
            % 2 ^ ty.size).toNat) ∧
    (s.clear (.mstacc os acc) = true → storeBad x false = false → spDv x = false →
      noRows (spRows x) (encBytes (spEnc x) (spKlen x)) →
      ∃ (t : State) (c : StoreCmd), exec (.mstacc os acc) s = .next t ∧ t.mem = s.mem ∧ t.cur.acc = s.cur.acc ∧
        path t = path s ++ [c] ∧ c.ctx = s.cur.id ∧ c.spec = x ∧ c.load = false ∧
        ∀ r < spRows x, ∀ e < spKlen x, lane (leNat ((c.rows[r]?).getD [])) 32 e = (s.elem acc.val r e % 2 ^ 32).toNat) ∧
    (s.clear (.mldacc os acc) = true → storeBad x false = false → spDv x = false →
      noRows (spRows x) (encBytes (spEnc x) (spKlen x)) →
      ∃ (t : State) (c : StoreCmd), exec (.mldacc os acc) s = .next t ∧ t.mem = s.mem ∧ t.cur.acc = s.cur.acc ∧
        path t = path s ++ [c] ∧ c.ctx = s.cur.id ∧ c.spec = x ∧ c.load = true ∧ c.tile = acc.val)

/-- R374 to R376: MRDACC puts a snapshot of its source tile and its step count in flight for 8 cycles; MSTAT a status record;
MWAIT orders the engines it names, and waits for a requested lease. -/
def Obligations.MatrixSnapshotsAndOrder : Prop :=
  ∀ (os : OsNo) (d src : AccNo) (st b a : Bool) (s : State),
    let x := s.cur.os[os]
    let at_ := s.cur.place (bits (spAt x 0).a 0 22)
    (s.clear (.mrdacc os d src) = true → recordBad x 8 = false → s.localOk s.cur (spAt x 0).a 8 true = true →
      s.cur.tileBusy src.val = false → exec (.mrdacc os d src) s = .next ((s.write 8 (.tile d.val s.cur.acc[src])).write 8
        (.mem at_ (leBytes (s.cur.acc[src]).steps.toNat 8)))) ∧
    (s.clear (.mstat os) = true → recordBad x 32 = false → s.localOk s.cur (spAt x 0).a 32 true = true →
      (∀ n : AccNo, s.cur.tileBusy n.val = false) → ∃ w, exec (.mstat os) s = .next (s.write 8 (.stat at_ w)) ∧
        ∀ n : AccNo, if n.val < s.cur.launch.accs then w.testBit n.val = (s.cur.acc[n]).sat ∧
            w.testBit (4 + n.val) = (s.cur.acc[n]).poison ∧
            w / 2 ^ (64 + 32 * n.val) % 2 ^ 32 = (s.cur.acc[n]).steps.toNat % 2 ^ 32
          else w.testBit n.val = false ∧ w.testBit (4 + n.val) = false ∧ w / 2 ^ (64 + 32 * n.val) % 2 ^ 32 = 0) ∧
    (s.clear (.mwait st b a) = true → exec (.mwait st b a) s = .next (if s.cur.lease = .requested then s.stall
      else s.setCur fun c => { c with fences := c.fences ++ [⟨none, BitVec.ofBool st ++ BitVec.ofBool b ++ BitVec.ofBool a,
        c.nextSeq, s.cycle⟩] }))

/-! ### The C slots -/

/-- R380, R381, R385, R387, R390, R397, R398: a culvert operation starts with its addresses, length and completion object; a length or
offload word that R387 or R398 calls malformed, or a closed boezem range, completes it with that status and moves nothing, and
so does an object in a closed segment (R381). CSIG starts the addition of k[B] to the counter of the object k[A] names and of
k[C] to its status word (R386). PUBL takes k[A], and COFFL and CREST the virtual operand k[B], as it stands (the model's reading, log
60). -/
def Obligations.CulvertOperationsStart : Prop :=
  ∀ (a b c d : KNo) (cl sl dl ol : Bool) (q : QNo) (ty : Elem) (f : OffFmt) (s : State) (done : Addr),
    s.hasEntry = true → s.objAddr d cl false = some done →
    let starts := fun (i : Instr) (k : EngKind) (st : BitVec 18) => s.clear i = true →
      ∃ t, exec i s = .next t ∧ StartsWith s t k done st
    let n := (s.readK c.val).toNat
    exec .cnop s = .next s ∧
    (∀ x, s.objAddr a ol false = some x → s.clear (.csig a b c ol) = true →
      ∃ t, exec (.csig a b c ol) s = .next t ∧ StartsWith s t (.csig (s.readK b.val) (s.readK c.val)) x 0) ∧
    (∀ dst src, s.opAddr a dl = some dst → s.opAddr b sl = some src →
      (n = 0 → starts (.ccopy a b c d cl sl dl) .update 0) ∧
      (2 ^ 40 ≤ n → starts (.ccopy a b c d cl sl dl) .update stMalformed) ∧
      (0 < n → n < 2 ^ 40 → s.rangeOk dst n false = true → s.rangeOk src n true = true →
        if s.closed s.cur dst n || s.closed s.cur src n then starts (.ccopy a b c d cl sl dl) .update stProt
        else starts (.ccopy a b c d cl sl dl) (.copy dst src n) 0)) ∧
    (match s.cur.dr[q] with
      | .empty => starts (.ccopya d cl q) .update stMalformed
      | .failed st => starts (.ccopya d cl q) .update st
      | .reading m => starts (.ccopya d cl q) (.copyA (some m) none) 0
      | .loaded x => starts (.ccopya d cl q) (.copyA none (some x)) 0) ∧
    starts (.publ a d cl) (.publ (s.readK a.val)) 0 ∧
    (let m := n % 2 ^ 40
     let base := (BitVec.ofNat 8 (n / 2 ^ 40)).toInt
     (∀ src, s.opAddr a sl = some src →
      (m = 0 ∨ 2 ^ 49 ≤ n → starts (.coffl a b c d ty f cl sl) .update stMalformed) ∧
      (0 < m → n < 2 ^ 49 → s.rangeOk src (elemBytes ty m) true = true →
        if s.closed s.cur src (elemBytes ty m) then starts (.coffl a b c d ty f cl sl) .update stProt
        else starts (.coffl a b c d ty f cl sl) (.coffl ⟨.virt, (s.readK b.val).toNat⟩ src m base ty f) 0)) ∧
     (∀ dst, s.opAddr a dl = some dst →
      (m = 0 ∨ 2 ^ 49 ≤ n → starts (.crest a b c d ty f cl dl) .update stMalformed) ∧
      (0 < m → n < 2 ^ 49 → s.rangeOk dst (elemBytes ty m) false = true →
        if s.closed s.cur dst (elemBytes ty m) then starts (.crest a b c d ty f cl dl) .update stProt
        else starts (.crest a b c d ty f cl dl)
          (.crest dst ⟨.virt, (s.readK b.val).toNat⟩ m base ty f (n.testBit 48)) 0)))

/-- R249, R276, R386: CCNT puts the counter and CSTAT the status word of an object in flight to its k register, for 6 cycles from the
share or the boezem and 2,048 from a virtual address; beside an update of the object by C0 of the same bundle, one in C1 reads it
after that update (log 125). A word with an uncorrectable error is counted, and it and a word of a closed boezem segment give a
free value (the model's choices, logs 65 and 62). CWAIT goes on once the counter of its object is at least k[B], and stalls before.
A counter with an uncorrectable error, or in a closed boezem segment (log 62), is below every target; after an aborted fault the
wait ends without an acquire and the next bundle traps XLATE. -/
def Obligations.CompletionObjects : Prop :=
  (∀ (a d : KNo) (ol : Bool) (s : State) (x : Addr), s.objAddr a ol true = some x →
    let at_ := if x.place = .boez then boezemBase + x.a else s.cur.place (x.a % 2 ^ 22)
    let first := s.slotNow = 5 ∧ ∃ e ∈ s.cur.ops, e.start = s.cycle + 1 ∧ e.done = some x ∧
      ((∃ u v, e.kind = .csig u v) ∨ e.kind = .update)
    let reads := fun (i : Instr) (n : Nat) => s.clear i = true →
      (first → ∃ (t : State) (e : EngOp), exec i s = .next t ∧
        t = s.setCur (fun c => { c with nextSeq := c.nextSeq + 1, engA := c.engA ++ [e] }) ∧ e.kind = .look x d.val n ∧
        e.done = none ∧ e.start = s.cycle + 1 ∧ e.seq = s.cur.nextSeq ∧ e.entry = false) ∧
      (¬ first → x.place ≠ .virt →
        (s.closed s.cur x 16 = true → exec i s = .next (s.write 6 (.k d.val (s.free 300 64)))) ∧
        (s.closed s.cur x 16 = false → poisonedAt s.loadMem.2 (at_ + n) 8 = true →
          exec i s = .next ((s.count 0x2008).write 6 (.k d.val (s.free 300 64)))) ∧
        (s.closed s.cur x 16 = false → poisonedAt s.loadMem.2 (at_ + n) 8 = false →
          exec i s = .next (s.write 6 (.k d.val (BitVec.ofNat 64 (leNat (s.view s.loadMem.1 (at_ + n) 8))))))) ∧
      (¬ first → x.place = .virt → ∀ (u : State) (ph : Phys),
        s.xlate (tlbOf s.cur.id.core) s.cur.launch.asid (x.a + n) .read = (u, .ok ph) →
        (u.unread ph = none → exec i s = .next (u.write 2048 (.k d.val (BitVec.ofNat 64 (u.tierNat ph.key ph.pa 8))))) ∧
        (∀ o, u.unread ph = some o → exec i s = .next ((u.countAt o).write 2048 (.k d.val (u.free 300 64)))))
    reads (.ccnt a d ol) 0 ∧ reads (.cstat a d ol) 8) ∧
  (∀ (a b : KNo) (ol : Bool) (s : State) (x : Addr), s.clear (.cwait a b ol) = true → s.objAddr a ol true = some x →
    let at_ := if x.place = .boez then boezemBase + x.a else s.cur.place (x.a % 2 ^ 22)
    let target := (s.readK b.val).toNat
    (∀ v, s.cur.waived = some v → exec (.cwait a b ol) s = .next (s.setCur fun c =>
      { c with waived := none, xlate := c.xlate.or (some v) })) ∧
    (s.cur.waived = none → x.place ≠ .virt →
      (s.closed s.cur x 16 = false → poisonedAt s.loadMem.2 at_ 8 = false →
        (target ≤ leNat (s.view s.loadMem.1 at_ 8) → exec (.cwait a b ol) s = .next s) ∧
        (leNat (s.view s.loadMem.1 at_ 8) < target → exec (.cwait a b ol) s = .next s.stall)) ∧
      (s.closed s.cur x 16 = false → poisonedAt s.loadMem.2 at_ 8 = true →
        exec (.cwait a b ol) s = .next (if s.cur.stalled then s else s.count 0x2008).stall) ∧
      (s.closed s.cur x 16 = true → exec (.cwait a b ol) s = .next s.stall)) ∧
    (s.cur.waived = none → x.place = .virt → s.isHeld (.stall s.cur.id) = false → ∀ (u : State) (ph : Phys),
      s.xlate (tlbOf s.cur.id.core) s.cur.launch.asid x.a .read = (u, .ok ph) → u.unread ph = none →
      (target ≤ u.tierNat ph.key ph.pa 8 → exec (.cwait a b ol) s = .next u) ∧
      (u.tierNat ph.key ph.pa 8 < target → exec (.cwait a b ol) s = .next u.stall)) ∧
    (s.cur.waived = none → x.place = .virt → s.isHeld (.stall s.cur.id) = false → ∀ (u : State) (ph : Phys) (o : Nat),
      s.xlate (tlbOf s.cur.id.core) s.cur.launch.asid x.a .read = (u, .ok ph) → u.unread ph = some o →
      exec (.cwait a b ol) s = .next (if s.cur.stalled then u else u.countAt o).stall))

/-- R381, R389, R392, R393, R395: CDESC starts to read its descriptor register; CBIND binds a stream with the pattern of its
descriptor; CGATHER and CSCATTER bind it to a table; CUNBIND unbinds it; CEOS ends it; CIDX appends an index. A CBIND whose
completion object lies in a closed boezem segment fails with PROT (the model's choice, log 62). -/
def Obligations.StreamBindings : Prop :=
  ∀ (a b d : KNo) (la cl tl wr : Bool) (w : VW) (q : QNo) (s : State),
    let rows := (s.readK b.val).toNat
    (∀ x, s.clear (.cdesc a la q) = true → s.opAddr a la = some x → x.a % 64 = 0 → s.rangeOk x 128 true = true →
      s.closed s.cur x 128 = false → s.hasEntry = true → ∃ t u : State, exec (.cdesc a la q) s = .next t ∧
        Starts s u true (.cdesc q x) none 0 ∧ t = u.setCur (fun c => { c with dr := t.cur.dr }) ∧
        t.cur.dr[q] = .reading s.cur.nextSeq ∧ ∀ n : QNo, n ≠ q → t.cur.dr[n] = s.cur.dr[n]) ∧
    (∀ x desc, s.clear (.cbind d cl w wr q) = true → s.objAddr d cl false = some x → s.cur.dr[q] = .loaded desc →
      s.cur.q[q].kind = .unbound → s.closed s.cur x 16 = false →
      let pat := if wr then desc.extractLsb' 512 512 else desc.extractLsb' 0 512
      s.patCheck s.cur pat.toNat wr = none → patPipe pat.toNat = false →
      ∃ t : State, exec (.cbind d cl w wr q) s = .next t ∧
        t = s.setCur (fun c => { c with q := t.cur.q, bound := c.bound ||| (1#8 <<< q.val) }) ∧
        (∀ n : QNo, n ≠ q → t.cur.q[n] = s.cur.q[n]) ∧ t.cur.q[q].kind = (if wr then .write else .read) ∧
        t.cur.q[q].w = w ∧ t.cur.q[q].done = x ∧ t.cur.q[q].pat = pat ∧ t.cur.q[q].entries = [] ∧ t.cur.q[q].failed = false ∧
        t.cur.q[q].culvert = decide (s.slotNow = 5)) ∧
    (∀ x base, s.objAddr d cl false = some x → s.opAddr a tl = some base → s.cur.q[q].kind = .unbound →
      s.closed s.cur x 16 = false → rows ∈ [32, 64, 128] →
      let binds := fun (i : Instr) (k : BindKind) => s.clear i = true → ∃ t : State, exec i s = .next t ∧
        t = s.setCur (fun c => { c with q := t.cur.q, bound := c.bound ||| (1#8 <<< q.val) }) ∧
        (∀ n : QNo, n ≠ q → t.cur.q[n] = s.cur.q[n]) ∧ t.cur.q[q].kind = k ∧ t.cur.q[q].w.bits = 8 * rows ∧ t.cur.q[q].base = base ∧ t.cur.q[q].done = x ∧
        t.cur.q[q].entries = [] ∧ t.cur.q[q].failed = false
      binds (.cgather a b d cl tl q) .gather ∧ binds (.cscatter a b d cl tl q) .scatter) ∧
    (∀ x, s.clear (.cbind d cl w wr q) = true → s.objAddr d cl false = some x → s.cur.q[q].kind = .unbound →
      s.closed s.cur x 16 = true → ∃ t : State, exec (.cbind d cl w wr q) s = .next t ∧ t.mem = s.mem ∧
        t.cur.q[q].failed = true ∧ t.cur.q[q].status.getLsbD 7 = true) ∧
    (s.clear (.cunbind q) = true → ∃ t : State, exec (.cunbind q) s = .next t ∧
      t.cur.q[q] = (if s.cur.q[q].kind = .unbound then s.cur.q[q] else Binding.unbound) ∧ t.mem = s.mem ∧
      (∀ n : QNo, n ≠ q → t.cur.q[n] = s.cur.q[n]) ∧
      (s.cur.q[q].kind ≠ .unbound → s.cur.q[q].updated = false →
        ∃ e ∈ t.cur.ops, e.seq = s.cur.nextSeq ∧ e.done = some s.cur.q[q].done)) ∧
    (s.clear (.ceos q) = true →
      (s.cur.q[q].kind = .unbound ∨ s.cur.q[q].kind = .read → exec (.ceos q) s = .next (s.raise causeStream 0 0)) ∧
      (s.cur.q[q].kind = .gather → exec (.ceos q) s = .next (s.setCur fun c =>
        { c with q := c.q.set q { c.q[q] with idxEnd := true } })) ∧
      (s.cur.q[q].kind = .write ∨ s.cur.q[q].kind = .scatter → exec (.ceos q) s = .next (s.setCur fun c =>
        { c with q := c.q.set q { c.q[q] with ended := true, last := s.cycle } }))) ∧
    (s.clear (.cidx a q) = true → s.cur.q[q].kind = .gather ∨ s.cur.q[q].kind = .scatter → s.cur.q[q].idxEnd = false →
      s.cur.q[q].ended = false → exec (.cidx a q) s = .next (if s.cur.q[q].idx.length - s.cur.q[q].idxUsed < 32
        then s.setCur fun c => { c with q := c.q.set q { c.q[q] with idx := c.q[q].idx ++ [(s.readK a.val).extractLsb' 0 32] } }
        else s.stall))

/-- R51, R52, R382, R399 to R405, R408: a remote operation with a free entry takes it and hands its packet to the fabric port; a
rank word that R399 refuses, or a rank without a link, holds that status at once and sends nothing. FWAIT stalls while an
operation of its tag has no status; then it releases their results and the data of FLDs that came too late, zero where the status
is neither OK nor POISON and marked where it is POISON, puts the first status in issue order that is not OK, with bit 8 where
there was an operation, into its register after 4 cycles, and frees their entries and no others. -/
def Obligations.RemoteOperations : Prop :=
  (∀ (a b c d : KNo) (r : Fin 32) (vec w64 sl : Bool) (lenM1 : Fin 32) (sz : MemSz) (z : StSz) (op : Fin 16) (s : State),
     let fresh := fun (reply : Bool) => (s.cur.remote.filter fun e => e.reply == reply).length < (if reply then 16 else 64)
     let w := s.readK b.val
     let tag := fun (x : Word) => x.toNat / 2 ^ 32 % 2 ^ 16
     let remote := fun (i : Instr) (rank : Word) (post reply sat : Bool) (reg : Option Nat) (early : Nat → Word)
         (kind : Nat → EngKind) => s.clear i = true → fresh reply = true →
       let u := fun (st : Option Nat) => (s.target rank false post).1.setCur fun c => { c with remote := c.remote ++
         [⟨s.cur.nextSeq, tag rank, reply, sat, st, reg.map fun n => (n, early (st.getD 0)), s.slotNow, c.pc, s.cycle,
           match (s.target rank false post).2 with
             | .error _ => false
             | .ok dst => dst == (s.target rank false post).1.self && !post⟩] }
       match (s.target rank false post).2 with
       | .error st => exec i s = .next ((u (some st)).setCur fun c => { c with nextSeq := c.nextSeq + 1 })
       | .ok dst => ∃ t, exec i s = .next t ∧ Starts (u none) t false (kind dst) none 0
     let pkt := fun (cls o dst va tg : Nat) (opa opb : Word) (data : List Byte) => EngKind.pkt
       { (s.target w false false).1.mkPacket cls o dst with
         ctx := s.cur.id, engine := (if s.slotNow = 5 then 1 else 0), va := va, tag := tg, opa := opa, opb := opb, data := data } false
     let va := (s.readK a.val).toNat
     let low := fun (x : Word) => if w64 then x else x &&& 0xFFFFFFFF
     remote (.fst a b r vec z) w false false false none (fun _ => 0)
       (fun dst => pkt 1 0 dst va (tag w) 0 0
         (leBytes (if vec then (s.readV r.val).toNat else (s.readK r.val).toNat) (stSzBytes z))) ∧
     remote (.fatom a b c d w64 op) w false true (op.val == 2) (some d.val) (fun _ => 0)
       (fun dst => pkt 2 (op.val + if w64 then 16 else 0) dst va (tag w) (low (s.readK c.val)) 0 []) ∧
     remote (.fcas a b c d w64) w false true false (some d.val) (fun _ => 0)
       (fun dst => pkt 2 (10 + if w64 then 16 else 0) dst va (tag w) (low (s.readK c.val)) (low (s.readK d.val)) []) ∧
     remote (.fsig a b c) w false false false none (fun _ => 0)
       (fun dst => pkt 9 0 dst va (tag w) (s.readK c.val) 0 []) ∧
     (∀ src, s.opAddr c sl = some src → s.rangeOk src (8 * (lenM1.val + 1)) true = true →
       s.closed s.cur src (8 * (lenM1.val + 1)) = false →
       remote (.fmsg a b c sl lenM1) w false false false none (fun _ => 0)
         (fun _ => .fmsg src (8 * (lenM1.val + 1)) (s.readK a.val) w)) ∧
     (s.clear (.fld a b r vec sz) = true → s.cur.late.length < 16 →
       let u := fun (st : Option Nat) => (s.target w true false).1.setCur fun c => { c with late := c.late ++
         [⟨s.cur.nextSeq, tag w, vec, r.val, sz, some (c.bundles + w.toNat / 2 ^ 16 % 2 ^ 16), false, st, 0,
           match (s.target w true false).2 with
             | .error _ => false
             | .ok dst => dst == (s.target w true false).1.self⟩] }
       match (s.target w true false).2 with
       | .error st => exec (.fld a b r vec sz) s = .next ((u (some st)).setCur fun c => { c with nextSeq := c.nextSeq + 1 })
       | .ok dst => ∃ (t : State) (p : Packet), exec (.fld a b r vec sz) s = .next t ∧ Starts (u none) t false (.pkt p true) none 0 ∧
           p.cls = 0 ∧ p.op = sz.code ∧ p.dst = dst ∧ p.va = va ∧ p.tag = tag w ∧ p.ctx = s.cur.id)) ∧
  (∀ (a d : KNo) (s : State), s.clear (.fwait a d) = true →
     let t := (s.readK a.val).toNat % 2 ^ 16
     ((∃ r ∈ s.cur.remote, r.tag = t ∧ r.status = none) ∨ (∃ e ∈ s.cur.late, e.tag = t ∧ e.status = none) →
       exec (.fwait a d) s = .next s.stall) ∧
     ((∀ r ∈ s.cur.remote, r.tag = t → r.status ≠ none) → (∀ e ∈ s.cur.late, e.tag = t → e.status ≠ none) → s.cur.writes = [] →
       let held := fun (e : Late) => e.tag = t ∧ (e.bound = none ∨ e.status ≠ some 0)
       let found := (s.cur.late.filter fun e => decide (held e)).map (fun e => (e.seq, e.status.getD 0)) ++
         (s.cur.remote.filter fun r => r.tag == t).map fun r => (r.seq, r.status.getD 0)
       ∃ u : State, exec (.fwait a d) s = .next u ∧ u.cur.remote = s.cur.remote.filter (fun r => r.tag != t) ∧
         u.cur.late = s.cur.late.filter (fun e => decide (¬ held e)) ∧ u.mem = s.mem ∧
         u = s.setCur (fun c => { c with remote := u.cur.remote, late := u.cur.late, writes := u.cur.writes }) ∧
         (∀ pre e post, s.cur.late = pre ++ e :: post → held e → (e.vec = true ∨ e.reg ≠ 0) →
           (∀ e' ∈ post, held e' → ¬ (e'.vec = e.vec ∧ e'.reg = e.reg)) →
           let v : Word := if e.status.getD 0 ≤ 1 then e.data else 0
           let bad := e.status == some 1
           (⟨s.cycle + 4, if e.vec then .v e.reg ((s.readV e.reg >>> 64 <<< 64) ||| v.setWidth 1024) bad else .s e.reg v bad⟩ : RegWrite)
             ∈ u.cur.writes) ∧
         (∀ pre r post n v, s.cur.remote = pre ++ r :: post → r.tag = t → r.reg = some (n, v) → n ≠ d.val →
           (∀ r' ∈ post, r'.tag = t → ∀ v', r'.reg ≠ some (n, v')) → (⟨s.cycle + 4, .k n v⟩ : RegWrite) ∈ u.cur.writes) ∧
         ∃ code, (⟨s.cycle + 4, .k d.val (BitVec.ofNat 64 (code + if found = [] then 0 else 256))⟩ : RegWrite) ∈ u.cur.writes ∧
           ((∀ x ∈ found, x.2 = 0) → code = 0) ∧
           ∀ x ∈ found, x.2 ≠ 0 → (∀ y ∈ found, y.2 ≠ 0 → y ≠ x → x.1 < y.1) → code = x.2))

/-- R406 to R408: FRTS posts its descriptor's address with a new message number, FCANCEL cancels what the context has posted or
queued from an address, sending CANCEL for each and leaving every other entry, FDRAIN holds back later sends, RWPOST sends a
reward, and the episode and queue operations are handed to the join. LQPOP takes a plain address in the share alone, and raises
ADDRESS for any other (the model's reading, log 67). -/
def Obligations.SluiceAndRewardOperations : Prop :=
  ∀ (a b c d k q : KNo) (p : PNo) (s : State),
    let ep := fun (i : Instr) (kind : EpKind) (reg pred : Nat) => s.clear i = true → ∃ t : State, exec i s = .next t ∧
      t = s.setCur (fun c => { c with nextSeq := c.nextSeq + 1, ep := t.cur.ep }) ∧ ∃ e : EpOp, t.cur.ep = s.cur.ep ++ [e] ∧
        e.seq = s.cur.nextSeq ∧ e.kind = kind ∧ e.reg = reg ∧ e.pred = pred ∧ e.res = none ∧
        e.start = (if s.waitsMet s.cur s.cur.fenceWaits then some s.cycle else none)
    let r := fun (x : KNo) => s.readK x.val
    ep (.epopen a b d) (.opn (r a) (r b)) d.val 0 ∧ ep (.epstep a b c d k) (.step (r a) (r b) (r c) (r d)) k.val 0 ∧
    ep (.epclose a b k) (.close (r a) (r b)) k.val 0 ∧ ep (.lqack a b k q) (.ack (r a) (r b) q.val) k.val 0 ∧
    ((r a).toNat % 32 = 0 → s.reaches (r a).toNat 32 true = true →
      ep (.lqpop a d p q) (.pop (s.at_ (r a).toNat) q.val) d.val p.val) ∧
    (¬ ((r a).toNat % 32 = 0 ∧ s.reaches (r a).toNat 32 true = true) → s.clear (.lqpop a d p q) = true →
      exec (.lqpop a d p q) s = .next (s.raise causeAddress (r a) 0)) ∧
    (s.clear (.rwpost a b c k) = true → (s.cur.remote.filter fun e => e.reply).length < 16 →
      ∀ dst, (s.target (r c) false true).2 = .ok dst → ∃ (t u : State) (pk : Packet), exec (.rwpost a b c k) s = .next t ∧
        Starts u t false (.pkt pk false) none 0 ∧ pk.cls = 7 ∧ pk.op = 1 ∧ pk.dst = dst ∧ pk.opa = r a ∧
        pk.opb = BitVec.ofNat 64 ((r b).toNat / 2 ^ 32 + (r c).toNat / 2 ^ 48 % 2 ^ 8 * 2 ^ 32) ∧
        pk.data = leBytes ((r b).toNat % 2 ^ 32) 8) ∧
    (s.clear (.frts a) = true →
      let mine := s.slu.sends.filter fun e => e.owner == s.cur.id
      ((r a).toNat % 64 ≠ 0 → exec (.frts a) s = .next (s.raise causeAddress (r a) 0)) ∧
      ((r a).toNat % 64 = 0 → 8 ≤ mine.length ∨ 2048 ≤ s.slu.sends.length → exec (.frts a) s = .next (s.raise causeRlimit 0 0)) ∧
      ((r a).toNat % 64 = 0 → mine.length < 8 → s.slu.sends.length < 2048 → ∃ (t u : State) (e : SlSend),
        exec (.frts a) s = .next t ∧ Starts u t false (.frts (r a)) none 0 ∧ u.mem = s.mem ∧ u.cur = s.cur ∧
        t.slu.sends = s.slu.sends ++ [e] ∧ t.slu.msgCtr = s.slu.msgCtr + 1 ∧ e.msgid = s.slu.msgCtr ∧ e.descVa = some (r a) ∧
        e.owner = s.cur.id ∧ e.st = .reading)) ∧
    (s.clear (.fcancel a) = true → (s.slu.sends.map SlSend.msgid).Nodup →
      let hit := fun (e : SlSend) => e.owner == s.cur.id && e.descVa == some (r a) && (e.st == .posted || e.st == .queued)
      ∃ (t : State) (l : List Packet), exec (.fcancel a) s = .next t ∧ t = { s with slu := t.slu, fab := t.fab } ∧
        t.slu = { s.slu with sends := s.slu.sends.map (fun e =>
          if hit e = true then { e with st := .cancelling, err := none, tokens := [] } else e) } ∧
        t.fab = { s.fab with waiting := s.fab.waiting ++ l, out := t.fab.out } ∧ l.length = (s.slu.sends.filter hit).length ∧
        (∀ e ∈ s.slu.sends, hit e = true → ∃ p ∈ l, p.cls = 5 ∧ p.op = 8 ∧ p.dst = e.dst ∧ p.va = 0 ∧
          p.opa = BitVec.ofNat 64 e.msgid ∧ p.opb = 0 ∧ p.data = leBytes (sendRdone e.desc) 8 ∧
          ∃ x ∈ t.fab.out, x.key = sluiceKey e.msgid .cancel ∧ x.pkt = p)) ∧
    (s.clear .fdrain = true → exec .fdrain s = .next (s.setCur fun c => { c with newDrain := true }))

/-- R15, R101, R264, R409, R410: KEYOP and TLBINV are ILLEGAL wherever they stand outside reeve firmware; in it TLBINV starts an
invalidation, KEYOP 0 loads a slot with the key and the domain of a blob that authenticates, KEYOP 1 empties one, and no other key
slot changes. -/
def Obligations.PrivilegedOperations : Prop :=
  ∀ (a b : KNo) (s : State),
    (s.reeveRun = false → exec (.keyop a b) s = .next (s.raise causeIllegal 0 0) ∧
      exec (.tlbinv a b) s = .next (s.raise causeIllegal 0 0)) ∧
    (s.reeveRun = true →
      (∃ t : State, exec (.tlbinv a b) s = .next t ∧ t.xlt.inval.length = s.xlt.inval.length + 1 ∧ t.regF 0x0710 63 1 = 1 ∧
        t.mem = s.mem ∧ t.cur = s.cur) ∧
      (∃ t : State, exec (.keyop a b) s = .next t ∧ t.mem = s.mem ∧ t.cur = s.cur ∧
        (let w := (s.reeveK[a]).toNat
         let n := w % 2 ^ 14
         let at_ := (s.reeveK[b]).toNat
         let legal := 2 ≤ n ∧ w < 2 ^ 16
         (∀ m, m ≠ n → t.slotKey m = s.slotKey m) ∧
         (¬ legal ∨ 2 ^ 15 ≤ w → t = s) ∧
         (legal → w / 2 ^ 14 = 1 → t.slotKey n = none) ∧
         (legal → w / 2 ^ 14 = 0 → at_ % 32 ≠ 0 → t = s) ∧
         (legal → w / 2 ^ 14 = 0 → at_ % 32 = 0 → inTier1 (at_ + 95) = true → s.linePoison at_ 96 = false →
           let blob := s.tierRead .host at_ 96
           (openBlob blob = none → t = s) ∧
           ∀ key, openBlob blob = some key → t.slotKey n = some (.mat (keyBits key)) ∧
             ∀ k ∈ t.keys, k.slot = n → k.domain = ((blob[12]?).getD 0).toNat))))

/-! ### Traps, issue and the machine as a whole -/

/-- R202: the causes 1 to 4 of an operation, in their order, before any effect of it: ILLEGAL, GATED, an aborted fault and a
failed stream as XLATE, and POISON with the marks of its sources. -/
def Obligations.TrapChecksInPriorityOrder : Prop :=
  ∀ (i : Instr) (s : State), judged i = true →
    (s.illegal i = true → exec i s = .next (s.raise causeIllegal 0 0)) ∧
    (s.illegal i = false → s.gatedOp i = true → exec i s = .next (s.raise causeGated 0 0)) ∧
    (s.illegal i = false → s.gatedOp i = false →
      (∀ v p, s.rd.xlate = some (v, p) →
        exec i s = .next ((s.setCur fun c => { c with xlate := none }).raise causeXlate v p)) ∧
      (s.rd.xlate = none →
        (∀ b, s.failedOp i = some b → exec i s = .next (s.raise causeXlate b.failVal b.failProg)) ∧
        (s.failedOp i = none → ∀ ps pv pq, s.poisOp i = (ps, pv, pq) → (ps, pv, pq) ≠ (0, 0, 0) →
          exec i s = .next (s.raise causePoison (ps.setWidth 64) (pv.setWidth 64 ||| (pq.setWidth 64 <<< 32))))))

/-- R202 to R204: a raised trap waits while exposed results are in flight; then it writes the trap CSRs, withdraws the lease,
and goes to REPLAY_VEC or TRAP_VEC with IN_TRAP set, all registers kept; BUDGET with refills left takes one and goes on
at the same bundle; every other trap without a handler to run kills its context. -/
def Obligations.TrapEntry : Prop :=
  ∀ (cause : Nat) (val prog : Word) (s : State), cause < 256 →
    let c := s.cur
    let h := if cause = causePoison ∧ c.csrs csrReplayVec ≠ 0 then c.csrs csrReplayVec else c.csrs csrTrapVec
    let handled : Prop := cause ≠ causeGap ∧ cause ≠ causeBudget ∧ h ≠ 0
    let t := s.raise cause val prog
    (s.exposed c = true → t = { s with raised := t.raised, cur := { c with trap := some ⟨cause, val, prog, s.slotNow, c.pc⟩, stalled := false } }) ∧
    (s.exposed c = false → c.late = [] → c.inTrap = false → handled →
      t.mem = s.mem ∧
      t.cur = { c with pc := h, npc := none, trap := none, stalled := false, lease := .none, csr := t.cur.csr
                       suspended := c.suspended || c.block.isSome || c.nest.isSome } ∧
      t.cur.csrs csrTrapCause = BitVec.ofNat 64 cause ∧ t.cur.csrs csrTrapPc = c.pc ∧ t.cur.csrs csrTrapVal = val ∧
      t.cur.csrs csrTrapProg = prog ∧
      t.cur.csrs csrTrapState = (if c.lease = .none then c.csrs csrTrapState &&& 2 else 2) ||| (BitVec.ofNat 64 s.slotNow <<< 2) ||| 1 ∧
      (∀ n : Fin 17, n ∉ [csrTrapCause, csrTrapPc, csrTrapVal, csrTrapProg, csrTrapState] → t.cur.csrs n = c.csrs n)) ∧
    (s.exposed c = false → c.inTrap = false → cause = causeBudget → 0 < c.refills →
      t.cur.budget = c.launch.budget ∧ t.cur.refills = c.refills - 1 ∧ t.cur.pc = c.pc ∧ t.cur.npc = none ∧ t.mem = s.mem) ∧
    (s.exposed c = false → c.inTrap = true ∨ (¬ handled ∧ ¬ (cause = causeBudget ∧ 0 < c.refills)) → c.launch.gang = 0 →
      c.victim = none → (∀ d ∈ s.ctxs, d.id ≠ c.id) → (t.ctx c.id).phase = .idle)

/-- R187: s0 reads 0, p0 reads 1 and m0 all ones, and writes to them are discarded; every other result stands in flight until
its bound, and is undefined to its readers (R189). -/
def Obligations.HardWiredRegisters : Prop :=
  ∀ (s : State) (lat : Nat),
    s.readS 0 = 0 ∧ s.readP 0 = true ∧ s.readM 0 = BitVec.allOnes 128 ∧
    (∀ v b, s.write lat (.s 0 v b) = s) ∧ (∀ b, s.write lat (.p 0 b) = s) ∧ (∀ v, s.write lat (.m 0 v) = s) ∧
    (∀ n v b, n ≠ 0 → s.cur.writes = [] → s.write lat (.s n v b) =
      { s with cur := { s.cur with writes := [⟨s.cycle + lat, .s n v b⟩] } }) ∧
    (∀ n, n ≠ 0 → s.rd.sBusy n = true → s.readS n = s.free (100 + n) 64) ∧
    (∀ n : Fin 32, n.val ≠ 0 → s.rd.sBusy n.val = false → s.readS n.val = s.rd.s[n])

/-- No operation and no device step leaves the machine without a next state: every event of the spec, traps and stalls
among them, is a state change. -/
def Obligations.EveryInstructionAnswers : Prop :=
  ∀ (i : Instr) (s : State), ∃ t, exec i s = .next t

/-- The registers whose reset values the spec states (R32, R62, R84, R103, R157, R179, R180, R7), with no fabric job, empty
tables, no context, no key and no address translation, and memory in canonical form. -/
def Obligations.ResetState : Prop :=
  let s := State.reset
  s.Canonical ∧
  s.reg 0x0600 = 1 ∧ s.reg 0x0810 = 4096 ∧ s.reg 0x1010 = 200000 + 3 * 2 ^ 32 ∧ bits (s.reg 0x1200) 0 7 = 8 ∧
  bits (s.reg 0x1200) 8 5 = 16 ∧ bits (s.reg 0x1200) 16 10 = 32 ∧ bits (s.reg 0x1200) 26 3 = 3 ∧
  s.reg 0x1208 = 20000 + 100000 * 2 ^ 32 ∧ s.reg 0x1210 = 10000 + 1000 * 2 ^ 32 ∧ s.reg 0x1408 = 1000000 + 60000000 * 2 ^ 32 ∧
  s.reg 0x1410 = 600000 ∧ s.reg 0x2070 = 1024 ∧ s.reg 0x1400 = 16 * 2 ^ 5 ∧ (∀ q < 16, s.reg (0x1800 + 0x40 * q + 8) = 120000000 * 2 ^ 32) ∧
  s.reg 0 = 0 ∧ s.reg 0x0120 = 0 ∧ s.reg 0x0200 = 0 ∧ s.reg 0x0400 = 0 ∧ s.reg 0x0710 = 0 ∧ s.reg 0x1000 = 0 ∧
  s.tasks = [] ∧ s.keys = [] ∧ s.slu.sends = [] ∧ s.slu.reqs = [] ∧ s.join = [] ∧ s.walkers = [] ∧ s.insts = [] ∧
  s.xlt.tlb = [] ∧ s.xlt.held = [] ∧ s.fab.cache = [] ∧ s.fab.out = []

/-- The worked examples of R266, R291 to R313, R316 to R319, R324, R355 to R376 and R382 to R408: the slot words printed there
decode to the operations whose assembly stands beside them. -/
def Obligations.DecodeSampleWords : Prop :=
  let one := fun (k : SlotKind) (w : Nat) (i : Instr) => decodeSlot k w = .ok i
  one .s 0x40712345 (.lil 7 0x12345) ∧ one .s 0x4276789A (.lih 7 0x6789A) ∧ one .s 0x48229900 (.pcmp 2 5 6 .lt) ∧
  one .s 0x50248010 (.ld 2 9 .i8 16) ∧ one .s 0x60305002 (.movxV 3 5 2) ∧ one .s 0x60324000 (.movxK 3 4) ∧
  one .s 0x6230000C (.csrr 3 12) ∧ one .s 0x6402000C (.csrw 4 12) ∧ one .s 0x66000003 (.fence .pkg) ∧
  one .s 0x66000008 .fenceQ ∧ one .s 0x68500000 (.rand 5) ∧ one .s 0x0 .snop ∧ one .b 0x0 .bnop ∧
  one .b 0x188D3002 (.br ⟨false, 3, 2⟩ ⟨true, 5, 0⟩ ⟨true, 0, 0⟩ ⟨true, 0, 0⟩) ∧ one .b 0x2FFFFFFD (.jmp (-3)) ∧
  one .b 0x3000000A (.call 10) ∧ one .b 0x40000005 (.calli 5) ∧ one .b 0x50000000 .ret ∧
  one .b 0x64000005 (.setbt 2 5) ∧ one .b 0x75000000 (.loopn 1 2) ∧ one .b 0x90C003E8 (.loopb 3 1000) ∧
  one .b 0x808E0000 (.loops 2 1 6) ∧ one .b 0xB0000000 .tend ∧ one .b 0xC0000007 (.trap 7) ∧ one .b 0xD0000000 .rft ∧
  one .b 0xE6002000 (.semw 3 0x2000) ∧ one .v 0x0 .vnop ∧
  one .v 0x0C9190A4 (.vadds ⟨false, .w512, .i16, 3, 4, 5, 1, .none⟩) ∧
  one .v 0x712350E0 (.vnarrowRsto ⟨false, .w1024, .i32, 6, 20, 7, 0, .none⟩) ∧
  one .v 0x789990A0 (.vcmp ⟨.w512, .i16, .lt, 3, 4, 5, 0, .none⟩) ∧
  one .v 0xC1060820 (.vld ⟨false, .w1024, .i8, 12, 2, 1, 0⟩) ∧
  one .v 0xA1252E80 (.vscan ⟨false, .w1024, .i32, 10, 11, true, 4, 0, .none⟩) ∧
  one .v 0xF0238C40 (.vmovx ⟨.w256, .i32, 7, 3, 2⟩) ∧ one .v 0xF4003000 (.vrfgate 12) ∧ one .m 0x0 .mnop ∧
  one .m 0x0200000F (.mlease 15) ∧ one .m 0x04000000 .mfree ∧ one .m 0x06580000 (.mspec 1 12) ∧
  one .m 0x08682212 (.mspecf 1 10 0x2212) ∧ one .m 0x0A000002 (.mzero 2) ∧ one .m 0x0CB60000 (.mlda 2 true (some 3)) ∧
  one .m 0x0E000000 (.mldb 0 false none) ∧ one .m 0x10000009 (.mmac true false 1) ∧
  one .m 0x12000000 (.mmacq false false) ∧ one .m 0x1400006D (.mrdacc 6 3 1) ∧
  one .m 0x17400226 (.mshrd 5 .rsto 9 2) ∧ one .m 0x18800001 (.mstacc 2 1) ∧ one .m 0x1A800001 (.mldacc 2 1) ∧
  one .m 0x1CC00001 (.mrprog 3 true) ∧ one .m 0x1E000005 (.mwait true false true) ∧ one .m 0x20000000 .mtcinv ∧
  one .m 0x23000000 (.mstat 4) ∧ one .m 0x2400000C (.mfill .i8 .lower false false) ∧
  one .m 0x260000F8 (.mscale .rne (-2) 0) ∧ one .c 0x04246801 (.ccopy 1 2 3 4 false false true) ∧
  one .c 0x08000A13 (.cbind 5 false .w512 false 3) ∧ one .c 0x0EE00002 (.cidx 7 2) ∧
  one .c 0x168A0001 (.cwait 4 5 true) ∧ one .c 0x20CE0053 (.fld 6 7 5 false .d64) ∧
  one .c 0x26246810 (.fcas 1 2 3 4 true) ∧ one .c 0x2B001200 (.fwait 8 9) ∧ one .c 0x28000000 .fdrain ∧
  one .c 0x48200435 (.lqpop 1 2 3 5)

/-- R263 to R275: the decoder reads back what the encoder writes, for every well-formed slot operation with every operand. -/
def Obligations.EncodeDecodeRoundTrip : Prop :=
  ∀ (i : Instr) (k : SlotKind) (w : Nat), i.wf = true → slotKind i = some k → encode i = some w → decodeSlot k w = .ok i

/-- R183 to R186, R190, R202, R301, R303: at a core's turn, the bundle at the PC of a ready context is decoded. One with an illegal
slot raises ILLEGAL. A bundle of one operation that is allowed, has no trap and does not stall gives the state of that operation,
followed by the bundle's counts and the next PC; one whose operation traps is suppressed; one that stalls leaves the
registers and the memory alone. A bundle of a TRAP or a YRUN is counted and goes on to the next PC, where they take effect. -/
def Obligations.StepRunsDecodedBundle : Prop :=
  ∀ (s : State) (k : Nat),
    let u := s.turned k
    let bytes := s.view s.mem (s.cur.place s.cur.pc.toNat) 32
    let plain := fun (t : State) => ({ t with issueMem := none, issueCur := none, raised := none, slotNow := 0 } : State)
    s.atTurn k → s.cur.inCode s.cur.pc.toNat = true → poisonedAt s.poison (s.cur.place s.cur.pc.toNat) 32 = false →
    (∀ sl, u.illegalSlot bytes = some sl → step s = .next (u.suppress ⟨causeIllegal, 0, 0, sl, s.cur.pc⟩).fresh) ∧
    (∀ (b : Bundle) (n : Nat) (i : Instr) (t : State), decodeBundle bytes = .ok b → soleOp b n i → bundleOk bytes b = true →
      u.clear i = true → u.trapCounts b = none → u.guardOn b n = true →
      ((∃ code, i = .trap code) ∨ (∃ m, i = .yrun m) → s.cur.inCode (plain (u.issuing b n)).advance.cur.pc.toNat = true →
        step s = .next (u.issued b (plain (u.issuing b n))).fresh) ∧
      ((∀ code, i ≠ .trap code) → (∀ m, i ≠ .yrun m) → exec i (u.issuing b n) = .next t →
        (∀ tr, t.raised = some tr → step s = .next (u.suppress tr).fresh) ∧
        (t.raised = none → t.cur.stalled = false → (t.cur.phase = .ended ∨ s.cur.inCode t.advance.cur.pc.toNat = true) →
          step s = .next (u.issued b (plain t)).fresh) ∧
        (t.raised = none → t.cur.stalled = true → s.cur.inCode (u.issuing b n).advance.cur.pc.toNat = true →
          ¬ (∃ it off, i = .semw it off) → ¬ (∃ x y ol, i = .cwait x y ol) →
          ∃ w : State, step s = .next w ∧ w.mem = s.mem ∧ w.cur.stalled = true ∧ w.cur.pc = s.cur.pc ∧ w.cur.s = s.cur.s ∧
            w.cur.writes = s.cur.writes)))

/-- Every step of the package keeps memory in canonical form: addresses strictly rising, no entry equal to the unlisted
value. -/
def Obligations.CanonicalMemoryKept : Prop :=
  ∀ s t : State, s.Canonical → step s = .next t → t.Canonical

/-! ### Device steps -/

/-- R24 to R27: a cold reset, a CXL reset and both resets of RESET_CTL bring the device up through the stages; a cold one
initialises tier memory to zeros, a warm one keeps it; queues, tables, contexts and key slots are empty after each. That SRAM,
boezem and host memory keep their bytes is the model's choice (log 5). -/
def Obligations.ResetsBringUp : Prop :=
  ∀ (b : BringUp) (s : State), s.Canonical →
    (∃ t, exec (.coldReset b) s = .next t ∧ Booted s t b true) ∧
    (s.hostUp = true →
      (∃ t, exec (.cxlReset b) s = .next t ∧ Booted s t b false) ∧
      (∃ t, exec (.resetCtlWarm b) s = .next t ∧ Booted s t b false ∧ t.reg 0x0500 = s.reg 0x0500) ∧
      (∃ t, exec (.resetCtlCold b) s = .next t ∧ Booted s t b true))

/-- R14, R18, R21, R22: the clock drops to 650 MHz while a die is hot and moves by 25 MHz with module power; a thermal trip
stops the device and marks flash; a scrub counts its error and poisons an uncorrectable line; a tier-2 link goes down. That power
samples step the clock also while a die is hot is the model's choice (log 101). -/
def Obligations.PowerTemperatureAndMemoryHealth : Prop :=
  ∀ (die watts line : Nat) (link : Fin 4) (s : State), s.Canonical →
    let bump := fun (t : State) (off : Nat) => t.reg off = min (s.reg off + 1) (2 ^ 64 - 1)
    (s.tripped = false → s.hot = false → ∃ t, exec (.thermalThrottle die) s = .next t ∧ t.effClock = 650 ∧ t.mem = s.mem ∧
      t.cur = s.cur ∧ t.regF 0x0400 6 1 = 1 ∧ bump t 0x2058) ∧
    (exec .thermalRecover s = .next { s with hot := false }) ∧
    (∃ t, exec .thermalTrip s = .next t ∧ t.tripped = true ∧ t.flash.thermal = true ∧ t.mem = s.mem ∧ t.alive = false) ∧
    (let limit := s.cfgF 368 16
     s.tripped = false →
      (limit < watts → 650 < s.clock → ∃ t, exec (.powerSample watts) s = .next t ∧ t.clock = s.clock - 25 ∧ t.coolSince = none ∧
        t.mem = s.mem ∧ t.cur = s.cur) ∧
      (watts ≤ limit → watts * 100 < limit * 95 →
        (s.coolSince = none → exec (.powerSample watts) s = .next { s with coolSince := some s.ftime }) ∧
        (∀ x, s.coolSince = some x → x + 1000000 ≤ s.ftime →
          exec (.powerSample watts) s = .next { s with coolSince := some s.ftime, clock := min (s.clock + 25) 1300 }))) ∧
    (s.paOk (64 * line) = true →
      (∃ t, exec (.scrub line true) s = .next t ∧ t.mem = s.mem ∧ (∀ j < 64, poisonedAt t.poison (64 * line + j) 1 = true) ∧
        bump t (if inTier1 (64 * line) then 0x2018 else 0x2028)) ∧
      (∃ t, exec (.scrub line false) s = .next t ∧ t.mem = s.mem ∧ t.poison = s.poison ∧
        bump t (if inTier1 (64 * line) then 0x2010 else 0x2020))) ∧
    (s.regF 0 (19 + link.val) 1 = 1 → ∃ t, exec (.tier2LinkDown link) s = .next t ∧ t.regF 0 (19 + link.val) 1 = 0 ∧
      (∀ l : Fin 4, l ≠ link → t.regF 0 (19 + l.val) 1 = s.regF 0 (19 + l.val) 1) ∧ bump t 0x2030 ∧ t.mem = s.mem)

/-- R104: each of the five fatal errors stops the device under its code; with a dump already held none is written and FATAL
is set; 2 s after the error, and not before, FATAL is set in any case. -/
def Obligations.FatalErrors : Prop :=
  ∀ (r : Fin 2) (s : State), s.Canonical → s.fatal = none → s.tripped = false → bit1 (s.reg 0) 16 = true →
    let stops := fun (i : Instr) (code : Nat) => ∃ t, exec i s = .next t ∧ t.fatal = some code ∧ t.alive = false ∧
      (s.regF 0x0500 0 1 = 1 → t.regF 0x0400 7 1 = 1 ∧ t.reg 0x0500 = s.reg 0x0500 ∧
        t.reg 0x2060 = min (s.reg 0x2060 + 1) (2 ^ 64 - 1)) ∧
      (s.regF 0x0500 0 1 = 0 → t.regF 0x0500 0 1 = 1 → t.regF 0x0500 8 8 = code ∧ t.regF 0x0400 7 1 = 1) ∧
      t.fatalAt = s.ftime ∧ ∀ w : State, w.fatal = some code →
        (w.ftime < w.fatalAt + 2000000000 → exec .fatalDeadline w = .next w) ∧
        (w.fatalAt + 2000000000 ≤ w.ftime →
          ∃ u, exec .fatalDeadline w = .next u ∧ u.regF 0x0400 7 1 = 1 ∧ u.fatal = some code ∧ u.mem = w.mem)
    stops .feWedged 1 ∧ stops (.reeveHang r) 2 ∧ stops (.reeveTrap r) 3 ∧ stops .stateUe 4 ∧ stops .dieLink 5

/-- R84: a host line read of tier 1 returns the line under the key of HOST_MEM, or poison where no key is loaded; a host
write puts its enabled bytes, and nothing else, into the line. -/
def Obligations.HostMemoryAccesses : Prop :=
  ∀ (line : Nat) (data : BitVec 512) (be : BitVec 64) (s : State), s.Canonical → s.exposedT1 = true →
    inTier1 (64 * line) = true → s.inCarved (64 * line) = false →
    (∀ k, s.hostKey (64 * line) = some k → ∃ t, exec (.hostMemRead line) s = .next t ∧ t.mem = s.mem ∧
      t.hostRd = some (BitVec.ofNat 512 (leNat (s.tierRead k (64 * line) 64)), poisonedAt s.poison (64 * line) 64) ∧
      (s.undef = [] → s.tierRead k (64 * line) 64 = (List.range 64).map fun i => s.tierByte k (64 * line + i))) ∧
    (s.hostKey (64 * line) = none → ∃ t, exec (.hostMemRead line) s = .next t ∧ t.mem = s.mem ∧ t.hostRd = some (0, true) ∧
      t.reg 0x2040 = min (s.reg 0x2040 + 1) (2 ^ 64 - 1)) ∧
    (s.inDump (64 * line) = true → exec (.hostMemWrite line data be) s = .next s) ∧
    (∀ k, s.inDump (64 * line) = false → s.hostKey (64 * line) = some k → ∃ t, exec (.hostMemWrite line data be) s = .next t ∧
      (∀ i < 64, t.tierByte k (64 * line + i) =
        if be.getLsbD i then data.extractLsb' (8 * i) 8 else s.tierByte k (64 * line + i)) ∧
      (∀ a, a / 64 ≠ line → t.mem.read a = s.mem.read a) ∧ t.cur = s.cur ∧ t.regs = s.regs)

/-- R85 to R88, R90, R104, R106: the running host command is carried out and its block written back: NEGOTIATE makes the selected
features active, graphs get the lowest free handle and give it back, DUMP_CLEAR clears the dump's register, FLASH_WRITE
replaces what verifies, THERMAL_ACK clears the flag in flash, and ERROR stays. -/
def Obligations.HostCommands : Prop :=
  ∀ (a : Nat) (b : BitVec 512) (s : State), s.Canonical → s.hcmd = some (a, b) →
    let arg := cmdArg b
    let runs := fun (i : Instr) (op : Nat) (st detail : Nat) (more : State → Prop) => bits b.toNat 0 8 = op →
      ∃ t, exec i s = .next t ∧ Answered s t a b st detail ∧ t.cur = s.cur ∧ more t
    (let sel := s.reg 0x0110
     let needs := fun (n : Nat) (l : List Nat) => bit1 sel n = true → ∃ m ∈ l, bit1 sel m = true
     let ok := sel &&& s.reg 0x0100 = sel ∧ bit1 sel 0 = true ∧ needs 4 [2, 3] ∧ needs 5 [2, 3] ∧ needs 6 [2, 3] ∧
      needs 7 [2, 3] ∧ needs 10 [9] ∧ needs 13 [1]
     (ok → runs .negotiate 1 csOk (bits sel 0 32) (fun t => t.reg 0x0120 = sel)) ∧
     (¬ ok → runs .negotiate 1 csFeature 0 (fun t => t.reg 0x0120 = s.reg 0x0120))) ∧
    (arg 0 % 64 = 0 → arg 0 + 63 < 0x18000000000 → arg 1 < 2 ^ 16 →
      (∀ c n, s.graphError (arg 0) (arg 1) = some (c, n) → bits b.toNat 0 8 = 2 →
        ∃ t, exec .registerGraph s = .next t ∧ t.cur = s.cur ∧ t.graphs = s.graphs ∧
          Answered (s.graphMet (arg 0) (arg 1) n) t a b csInvalid (c + n * 2 ^ 8)) ∧
      (∀ h < 1024, s.graphError (arg 0) (arg 1) = none → (∀ g ∈ s.graphs, g.handle ≠ h + 1) →
        (∀ j < h, ∃ g ∈ s.graphs, g.handle = j + 1) → runs .registerGraph 2 csOk (h + 1) (fun t =>
          ∃ g, t.graphs = s.graphs ++ [g] ∧ g.handle = h + 1 ∧ g.image = arg 0 ∧ g.asid = arg 1))) ∧
    (arg 0 < 2 ^ 16 →
      ((∀ g ∈ s.graphs, g.handle ≠ arg 0) → runs .releaseGraph 3 csHandle 0 (fun t => t.graphs = s.graphs)) ∧
      ((∃ g ∈ s.graphs, g.handle = arg 0) → (∃ i ∈ s.insts, i.handle = arg 0) →
        runs .releaseGraph 3 csBusy 0 (fun t => t.graphs = s.graphs)) ∧
      ((∃ g ∈ s.graphs, g.handle = arg 0) → (∀ i ∈ s.insts, i.handle ≠ arg 0) →
        runs .releaseGraph 3 csOk 0 (fun t => t.graphs = s.graphs.filter fun g => g.handle != arg 0))) ∧
    runs .dumpClear 9 csOk 0 (fun t => t.reg 0x0500 = 0) ∧
    (arg 0 = 1 → arg 2 = 4096 →
      let rec_ := s.hostRead (arg 1) 4096
      let ok := firmwareOk s.flash.image && recordOk s.flash.image rec_ && recFieldsOk s.flash.serial (leNat rec_)
      runs .flashWrite 10 (if ok then csOk else csSignature) 0 (fun t =>
        t.flash = if ok then { s.flash with record := leNat rec_ } else s.flash)) ∧
    (arg 0 = 0 → arg 2 ≤ 2 ^ 26 →
      let img := s.hostRead (arg 1) (arg 2)
      runs .flashWrite 10 (if firmwareOk img then csOk else csSignature) 0 (fun t =>
        t.flash = if firmwareOk img then { s.flash with image := img } else s.flash)) ∧
    runs .thermalAck 11 csOk 0 (fun t => t.flash = { s.flash with thermal := false } ∧ t.regF 0 8 8 = s.regF 0 8 8)

/-- R99 to R102: KEY_GENERATE and KEY_IMPORT write a wrapped blob, KEY_LOAD fills an empty slot with the unwrapped key,
KEY_DESTROY takes the key at once and is answered when the slot is zeroised; ATTEST writes a signed report with the host's
nonce. No other slot changes. -/
def Obligations.KeyCommandsAndAttestation : Prop :=
  ∀ (a : Nat) (b : BitVec 512) (s : State), s.Canonical → s.hcmd = some (a, b) → s.feat 9 = true →
    let arg := cmdArg b
    let runs := fun (i : Instr) (op : Nat) (st : Nat) (more : State → Prop) => bits b.toNat 0 8 = op →
      ∃ t, exec i s = .next t ∧ Answered s t a b st 0 ∧ t.cur = s.cur ∧ more t
    let others := fun (t : State) (n : Nat) => ∀ m, m ≠ n → t.slotKey m = s.slotKey m
    (arg 0 = 0 → arg 1 % 32 = 0 → apart (arg 1) 96 a 64 → runs .keyGenerate 4 csOk (fun t => t.keys = s.keys ∧
      ∃ key iv, t.hostRead (arg 1) 96 = blobOf key iv 0)) ∧
    (let env := s.hostRead (arg 0) 152
     let dom := ((env[68]?).getD 0).toNat
     arg 0 % 8 = 0 → arg 1 % 32 = 0 → dom ≤ 7 → (env.drop 69).take 3 = [0, 0, 0] → apart (arg 1) 96 a 64 →
      match openEnvelope env with
      | none => runs .keyImport 5 csKeyAuth (fun t => t.keys = s.keys)
      | some key => runs .keyImport 5 csOk (fun t => t.keys = s.keys ∧ ∃ iv, t.hostRead (arg 1) 96 = blobOf key iv dom)) ∧
    (let blob := s.hostRead (arg 1) 96
     2 ≤ arg 0 → arg 0 < 16384 → arg 1 % 32 = 0 →
      match openBlob blob with
      | none => runs .keyLoad 6 csKeyAuth (fun t => t.keys = s.keys)
      | some key => (blob.drop 12).take 4 = [0, 0, 0, 0] →
        ((∃ k ∈ s.keys, k.slot = arg 0) → runs .keyLoad 6 csBusy (fun t => t.keys = s.keys)) ∧
        ((∀ k ∈ s.keys, k.slot ≠ arg 0) → runs .keyLoad 6 csOk (fun t =>
          t.slotKey (arg 0) = some (.mat (keyBits key)) ∧ others t (arg 0)))) ∧
    (2 ≤ arg 0 → arg 0 < 16384 → bits b.toNat 0 8 = 7 →
      ((∀ k ∈ s.keys, k.slot ≠ arg 0) → runs .keyDestroy 7 csOk (fun t => t.keys = s.keys)) ∧
      ((∃ k ∈ s.keys, k.slot = arg 0) → ∃ t, exec .keyDestroy s = .next t ∧ t.hcmd = s.hcmd ∧ t.slotKey (arg 0) = none ∧
        others t (arg 0) ∧ ∃ u, exec (.keySlotZeroise (arg 0)) t = .next u ∧ Answered s u a b csOk 0 ∧
          (∀ k ∈ u.keys, k.slot ≠ arg 0) ∧ others u (arg 0))) ∧
    (s.feat 0 = true → s.feat 21 = true → arg 0 % 64 = 0 → arg 1 % 64 = 0 → apart (arg 1) 512 a 64 →
      runs .attest 8 csOk (fun t => ∃ body : List Byte, body.length = 398 ∧ body.take 4 = leBytes 0x54584152 4 ∧
        (body.drop 24).take 64 = shake256 s.fw 64 ∧ (body.drop 152).take 16 = leBytes (s.reg 0x0120) 16 ∧
        (body.drop 184).take 64 = s.hostRead (arg 0) 64 ∧
        t.hostRead (arg 1) 512 = body ++ ed448Sign identitySeed body))

/-- R92 to R94, R96, R98: SUBMIT switches observation on and off; a line is not observed after one that follows it in the order of
R94 in one I/O cycle; one whose SEQ has not changed does nothing; a submit in sequence to a registered graph starts an instance with its source nodes ready; one to no graph gets a
completion record with status 3; one out of sequence is counted. A device that is not up serves no write of SUBMIT (R25). -/
def Obligations.SubmitLines : Prop :=
  ∀ (v : Word) (line n : Nat) (s : State), s.Canonical →
    let base := bits v.toNat 14 38 * 2 ^ 14
    let array := s.regF 0x0300 14 38 * 2 ^ 14
    let only := fun (t : State) => t.reg 0x0300 = bits v.toNat 0 1 + base ∧ t.mem = s.mem ∧ t.cur = s.cur ∧ t.insts = s.insts ∧
      t.irq = s.irq
    (s.served = false → exec (.submitDisable v) s = .next s ∧ exec (.submitEnable v) s = .next s) ∧
    (s.served = true → v.getLsbD 0 = false → ∃ t, exec (.submitDisable v) s = .next t ∧ only t ∧ t.lineLast = s.lineLast) ∧
    (s.served = true → v.getLsbD 0 = true → s.regF 0x0300 0 1 = 0 → s.fatal = none →
      (∀ j < 256, bits (s.hostNat (base + 64 * j) 64) 0 32 = 0) →
      ∃ t, exec (.submitEnable v) s = .next t ∧ only t ∧ t.lineLast = []) ∧
    (s.observing = true → line < 256 →
      let l := s.hostNat (array + 64 * line) 64
      let seq := bits l 0 32
      let last := s.lineLast.getD line 0
      let crec := bits l 128 64
      let formed := bits l 48 16 = 0 ∧ bits l 256 256 = 0 ∧ bits l 64 64 % 64 = 0 ∧ crec % 64 = 0
      let record := fun (t : State) (st : Nat) => t.hostRead crec 64 = leBytes (seq + bits l 32 16 * 2 ^ 32 + line * 2 ^ 48 +
        st * 2 ^ 56 + 0xFFF * 2 ^ 64 + s.ftime * 2 ^ 128 + s.ftime * 2 ^ 192 + bits l 192 64 * 2 ^ 256) 64 ∧
        t.irq = s.irq ++ [line / 32]
      let seen := some (s.ftime, (7 - line / 32) * 32 + line % 32)
      (s.lineMay line = false → exec (.submitLineObservation line) s = .next s) ∧
      (s.lineMay line = true → seq = last → exec (.submitLineObservation line) s = .next { s with obsLast := seen }) ∧
      (s.lineMay line = true → seq ≠ last → ∃ t, exec (.submitLineObservation line) s = .next t ∧ t.lineLast = s.lineLast.put line seq 0 ∧
        t.cur = s.cur ∧ t.obsLast = seen ∧
        (seq = (last + 1) % 2 ^ 32 → formed → s.graphOf (bits l 32 16) = none → record t 3 ∧ t.insts = s.insts) ∧
        (¬ (seq = (last + 1) % 2 ^ 32 ∧ formed) → t.insts = s.insts ∧ t.reg 0x2048 = min (s.reg 0x2048 + 1) (2 ^ 64 - 1)) ∧
        (∀ g, seq = (last + 1) % 2 ^ 32 → formed → s.graphOf (bits l 32 16) = some g → inTier1 g.image = true → n < 1024 →
          (∀ j < n, ∃ i ∈ s.insts, i.num = j) → (∀ i ∈ s.insts, i.num ≠ n) →
          (s.insts.filter fun i => i.handle == bits l 32 16).length < 16 →
          (∀ j ∈ s.sources g, nodeKind (s.nodeEntry g j) = 1 ∨ nodeKind (s.nodeEntry g j) = 3) →
          ∃ i, t.insts = s.insts ++ [i] ∧ i.num = n ∧ i.handle = bits l 32 16 ∧ i.line = line ∧ i.seq = seq ∧
            i.args = bits l 64 64 ∧ i.crec = crec ∧ i.cookie = bits l 192 64 ∧ i.prio = line / 32 ∧ i.tStart = s.ftime ∧
            i.status = 0 ∧ ∀ x ∈ i.nodes, x.st = if x.idx ∈ s.sources g then .ready else .pending)))

/-- R7, R27, R32, R58, R59, R98, R119, R120, R123, R124, R157, R163, R177, R181: registers whose writes do something. An
invalidation starts, and removes every entry it names when it completes; a held fault is retried or aborted; a job write
begins a new fabric job; counters clear; a host post reaches the join; FLUSH empties a queue; values out of range and
read-only registers keep the old value; a device that is not up serves none of them (R25). -/
def Obligations.RegisterSteps : Prop :=
  ∀ (v : Word) (tag off : Nat) (q : KNo) (s : State), s.Canonical →
    let bump := fun (t : State) (o : Nat) => t.reg o = min (s.reg o + 1) (2 ^ 64 - 1)
    let same := fun (t : State) => t.mem = s.mem ∧ t.cur = s.cur
    (s.served = false → ∀ i ∈ [.xltInvGo v, .xltResumeRetry tag, .xltResumeAbort tag, .fabJobWrite v, .counterClear off,
      .hostRewardPost v], exec i s = .next s) ∧
    (s.regF 0x0710 63 1 = 1 → exec (.xltInvGo v) s = .next s) ∧
    (s.served = true → s.regF 0x0710 63 1 = 0 → v.getLsbD 63 = true → ∃ t, exec (.xltInvGo v) s = .next t ∧ same t ∧ t.regF 0x0710 63 1 = 1 ∧
      t.xlt.inval = s.xlt.inval ++ [⟨bits v.toNat 0 16, v.getLsbD 16, v.getLsbD 17, v.getLsbD 18,
        bits (s.reg 0x0718) 16 39 * 65536, bits (s.reg 0x0718) 0 16 + 1⟩]) ∧
    (∀ i rest, s.xlt.inval = i :: rest → ∃ t, exec .invalidationComplete s = .next t ∧ same t ∧ t.xlt.inval = rest ∧
      (∀ e, e ∈ t.xlt.tlb ↔ e ∈ s.xlt.tlb ∧ i.names e = false) ∧ (rest = [] → t.regF 0x0710 63 1 = 0)) ∧
    (s.served = true → s.fault tag = none → ∃ t u, exec (.xltResumeRetry tag) s = .next t ∧ exec (.xltResumeAbort tag) s = .next u ∧ bump t 0x2090 ∧
      bump u 0x2090 ∧ same t ∧ same u ∧ t.xlt = s.xlt ∧ u.xlt = s.xlt) ∧
    (∀ h, s.served = true → s.fault tag = some h → (∀ c r, h.holder ≠ .read c r) → (∀ n, h.holder ≠ .send n) →
      exec (.xltResumeRetry tag) s = .next { s with xlt := { s.xlt with held := s.xlt.held.filter fun x => x.tag != tag } }) ∧
    (∀ h c n, s.served = true → s.fault tag = some h → h.holder = .stream c n → ∃ t, exec (.xltResumeAbort tag) s = .next t ∧
      t.xlt.held = s.xlt.held.filter (fun x => x.tag != tag) ∧ t.mem = s.mem ∧ ((t.ctx c).q[n]).failed = true ∧
      ((t.ctx c).q[n]).failVal = BitVec.ofNat 64 h.va ∧ ((t.ctx c).q[n]).entries = []) ∧
    (s.served = true → ∃ t, exec (.fabJobWrite v) s = .next t ∧ same t ∧ bits (t.reg 0x1000) 0 31 = bits v.toNat 0 31 ∧
      bits (t.reg 0x1000) 32 32 = bits v.toNat 32 32 ∧ t.fab.reqCtr = 1 ∧ t.fab.cache = [] ∧ t.fab.hwm = [] ∧
      t.slu.msgCtr = 1 ∧ t.slu.ticketCtr = 1 ∧ t.slu.sends = [] ∧ t.slu.reqs = [] ∧ t.slu.closed = []) ∧
    (s.served = true → isCounter off = true → ∃ t, exec (.counterClear off) s = .next t ∧ same t ∧ t.reg off = 0 ∧
      ∀ o, o ≠ off → t.reg o = s.reg o) ∧
    (let key := s.reg 0x1418
     let st := s.reg 0x1420
     s.served = true →
     (key = 0 ∨ 2 ^ 40 ≤ st % 2 ^ 64 ∨ 2 ^ 32 ≤ v.toNat → ∃ t, exec (.hostRewardPost v) s = .next t ∧ same t ∧ bump t 0x1548 ∧
       t.orphans = s.orphans) ∧
     (0 < key → st < 2 ^ 40 → v.toNat < 2 ^ 32 →
       (s.regF 0x1400 0 1 = 0 → ∃ t, exec (.hostRewardPost v) s = .next t ∧ same t ∧ bump t 0x1548 ∧ t.orphans = s.orphans) ∧
       (s.regF 0x1400 0 1 = 1 → (∀ x ∈ s.join, x.key ≠ key) → s.orphans.length < 65536 →
         ∃ t, exec (.hostRewardPost v) s = .next t ∧ same t ∧ bump t 0x1520 ∧ t.orphans = s.orphans ++
           [⟨key, st % 2 ^ 32, (v.setWidth 32).toInt, (BitVec.ofNat 8 (st / 2 ^ 32)).toInt, s.ftime,
             s.ftime + s.regF 0x1408 0 32 * 1000⟩]))) ∧
    ((s.lq q.val).flush = true → ∃ t, exec (.lqFlush q) s = .next t ∧ same t ∧ (t.lq q.val).ready = [] ∧ (t.lq q.val).out = [] ∧
      (t.lq q.val).pend = (s.lq q.val).pend ∧ (t.lq q.val).flush = false ∧ ∀ n, n ≠ q.val → t.lq n = s.lq n) ∧
    ((s.lq q.val).flush = false → exec (.lqFlush q) s = .next s) ∧
    (s.hostUp = false → exec (.registerWrite off v) s = .next s) ∧
    (s.hostUp = true → bit1 (s.reg 0) 16 = true →
      let keeps := fun (t : State) => same t ∧ ∀ o, o ≠ off → t.reg o = s.reg o
      (off = 0x0010 → v.toNat % 2 ^ 16 ≠ 0x5752 → exec (.registerWrite off v) s = .next s) ∧
      (off ∈ [0x0000, 0x0100, 0x0108, 0x0120, 0x0128, 0x1218, 0x1220, 0x1430] → exec (.registerWrite off v) s = .next s) ∧
      (off = 0x0400 → ∃ t, exec (.registerWrite off v) s = .next t ∧ keeps t ∧ ∀ j, (t.reg off).testBit j =
        if j < 7 then (s.reg off).testBit j && !v.toNat.testBit j else decide (j = 7) && (s.reg off).testBit j) ∧
      (off = 0x0810 → ∃ t, exec (.registerWrite off v) s = .next t ∧ keeps t ∧
        t.reg off = if 256 ≤ v.toNat % 2 ^ 16 then v.toNat % 2 ^ 16 else s.reg off) ∧
      (off = 0x0808 → ∃ t, exec (.registerWrite off v) s = .next t ∧ keeps t ∧
        t.reg off = if v.toNat % 2 ^ 17 ≤ 65536 then v.toNat % 2 ^ 17 else s.reg off))

/-- R40, R43 to R50, R57, R164, R402, R403: arriving packets. A packet that fails ECRC is counted and dropped; a request with
another job's number is answered MALFORMED; a read answers with its bytes, a store, a message, an atomic and a signal act
once and answer, a store to a poisoned page with POISON; a repeated request gets its first answer; a response ends its request;
a post reaches the join; a chunk of a collective is acknowledged and kept once (the acknowledgement is the model's, log 21); a
packet for another package goes on, from relay space in a slot after the one it came in; a beacon brings time and planes, and
from the slot's partner the credits of that slot. An offset above 10 ns clears TIME_SYNC. An update that may still happen to an
object a store writes leaves that undefined (log 107). -/
def Obligations.PacketsArrive : Prop :=
  ∀ (p : Packet) (bc : Beacon) (s u : State) (ph : Phys),
    let n := p.data.length
    let bump := fun (t : State) (o : Nat) => t.reg o = min (s.reg o + 1) (2 ^ 64 - 1)
    let lands := fun (k : Nat) => s.targetXlate p.va .write = (u, .ok ph) ∧ u.Canonical ∧ u.fab = s.fab ∧ inTier1 ph.pa = true ∧
      ph.pz = false ∧ poisonedAt u.poison ph.pa k = false
    let cached := fun (t : State) => t.fab.cache.length = s.fab.cache.length + 1
    let whole := fun (t : State) => (∀ asid, u.fabAsid = some asid →
      ∀ o ∈ (u.physWrite ph (p.data.map fun b => (b, p.status == 1))).1.pendingVirt asid,
        p.va + n ≤ o ∨ o + 16 ≤ p.va) → ∀ j < n, inRanges t.undef (ph.pa + j) = false
    (s.fatal = none → s.tripped = false → p.crcOk = false →
      ∀ i ∈ [Instr.reqRd p, .reqWr p, .reqAt p, .sig p, .msg p, .resp p, .rwpostArrival p, .collChunk p, .rts p, .accept p,
        .full p, .token p, .ack p, .renew p, .returnPkt p, .cancel p, .done p, .purge p, .spill p, .pull p],
        exec i s = .next (s.count 0x1110)) ∧
    (s.fatal = none → s.tripped = false → p.crcOk = true → p.job ≠ s.job →
      ∀ i ∈ [Instr.reqRd p, .reqWr p, .reqAt p, .sig p], ∃ t, exec i s = .next t ∧ Responds s t p 9 0 ∧ bump t 0x1138 ∧
        t.mem = s.mem) ∧
    (s.takes p → p.cls = 0 → n ≤ 8 → s.targetXlate p.va .read = (u, .ok ph) → u.fab = s.fab → inTier1 ph.pa = true →
      ph.pz = false → lineBad u.poison ph.pa n = false → u.targetOk p ph false true n = 0 →
      ∃ t, exec (.reqRd p) s = .next t ∧ t.mem = u.mem ∧
        Responds s t p 0 (BitVec.ofNat 64 (leNat (u.tierRead ph.key ph.pa n)))) ∧
    (s.takes p → s.isNew p → lands n → u.targetOk p ph false false n = 0 →
      (p.cls = 1 → ∃ t, exec (.reqWr p) s = .next t ∧ Stores u t ph.key ph.pa p.data ∧ whole t ∧ Responds s t p 0 0 ∧ cached t) ∧
      (p.cls = 4 → ∃ t, exec (.msg p) s = .next t ∧ Stores u t ph.key ph.pa p.data ∧ whole t ∧ Responds s t p 0 0 ∧ cached t)) ∧
    (s.takes p → s.isNew p → p.cls = 1 → s.targetXlate p.va .write = (u, .ok ph) → u.fab = s.fab → inTier1 ph.pa = true →
      ph.pz = true → u.targetOk p ph false false n = 0 →
      ∃ t, exec (.reqWr p) s = .next t ∧ t.mem = u.mem ∧ Responds s t p 1 0 ∧ cached t) ∧
    (s.takes p → s.isNew p → p.cls = 2 → p.op < 32 → p.op % 16 < 11 →
      let k := if p.op.testBit 4 then 8 else 4
      lands k → u.targetOk p ph true true k = 0 → ∃ t new sat, exec (.reqAt p) s = .next t ∧
        atomicNew (p.op % 16) (8 * k) (leNat (u.tierRead ph.key ph.pa k)) p.opa.toNat p.opb.toNat = some (new, sat) ∧
        Stores u t ph.key ph.pa (leBytes new k) ∧ cached t ∧
        Responds s t p 0 (BitVec.ofNat 64 (leNat (u.tierRead ph.key ph.pa k)))) ∧
    (s.takes p → s.isNew p → p.cls = 9 → lands 8 → u.targetOk p ph false false 8 = 0 → p.va % 16 = 0 →
      ∃ t, exec (.sig p) s = .next t ∧ Responds s t p 0 0 ∧ cached t ∧
        Stores u t ph.key ph.pa (leBytes (leNat (u.tierRead ph.key ph.pa 8) + p.opa.toNat) 8)) ∧
    (s.takes p → p.cls = 1 → ∀ c, s.fab.cache.find? (fun c => c.src == p.src && c.reqid == p.reqid) = some c →
      ∃ t, exec (.reqWr p) s = .next t ∧ t.mem = s.mem ∧ t.fab.waiting = s.fab.waiting ++ [c.resp] ∧ bump t 0x1128 ∧
        t.fab.cache = s.fab.cache) ∧
    (s.takes p → p.cls = 3 → p.status < 10 → ∀ r c seq, s.fab.out.find? (fun r => r.key == p.reqid) = some r →
      r.pkt.dst = p.src → r.pkt.cls ≠ 8 → r.owner = .remote c seq →
      ∃ t, exec (.resp p) s = .next t ∧ t.mem = s.mem ∧ t.fab.out = s.fab.out.filter (fun x => x.key != r.key) ∧
        ∀ e ∈ (t.ctx c).remote, e.seq = seq → e.status = some p.status) ∧
    (s.takes p → p.cls = 3 → p.status = 10 → ∃ t, exec (.resp p) s = .next t ∧ t.mem = s.mem ∧ t.cur = s.cur ∧
      t.fab.out.map Request.key = s.fab.out.map Request.key) ∧
    (s.takes p → s.isNew p → p.cls = 7 → p.op = 1 → p.va = 0 → p.opb.toNat < 2 ^ 40 → n = 8 → leNat (p.data.drop 4) = 0 →
      p.opa ≠ 0 →
      let r := s.reward p.opa.toNat (p.opb.toNat % 2 ^ 32) (BitVec.ofNat 32 (leNat (p.data.take 4))).toInt
        (BitVec.ofNat 8 (p.opb.toNat / 2 ^ 32)).toInt
      ∃ t, exec (.rwpostArrival p) s = .next t ∧ t.mem = r.1.mem ∧ t.join = r.1.join ∧ t.orphans = r.1.orphans ∧
        t.regs = r.1.regs ∧ Responds s t p 0 (BitVec.ofNat 64 r.2)) ∧
    (s.takes p → p.cls = 8 → p.op = 2 → ∃ t, exec (.collChunk p) s = .next t ∧ t.mem = s.mem ∧ t.colls = s.colls ∧
      ∀ r, r ∈ t.fab.out ↔ r ∈ s.fab.out ∧ r.key ≠ chunkKey p.opa.toNat p.src p.va) ∧
    (s.takes p → p.cls = 8 → p.op = 1 → ∃ t, exec (.collChunk p) s = .next t ∧ t.mem = s.mem ∧
      (∃ q, t.fab.waiting = s.fab.waiting ++ [q] ∧ q.cls = 8 ∧ q.op = 2 ∧ q.dst = p.src ∧ q.opa = p.opa ∧ q.va = p.va) ∧
      ((∀ c ∈ s.colls, c.seq = p.opa.toNat → c.ranks = []) → t.colls = s.colls ∧
        ∃ q ∈ t.fab.early, q.src = p.src ∧ q.opa = p.opa ∧ q.va = p.va) ∧
      ∀ c, s.colls.find? (fun c => c.seq == p.opa.toNat && !c.ranks.isEmpty) = some c → c.finished = false → c.lost = false →
        (p.opb.toNat ≠ collForm c.desc.toNat → bump t 0x1148 ∧ ∃ d ∈ t.colls, d.inst = c.inst ∧ d.node = c.node ∧
          d.finished = true ∧ d.status.getLsbD 2 = true) ∧
        ∀ k, p.opb.toNat = collForm c.desc.toNat → c.ranks.findIdx? (fun a => a == p.src) = some k →
          p.va + p.data.length ≤ collInput c.desc.toNat → ∃ d ∈ t.colls, d.inst = c.inst ∧ d.node = c.node ∧
            (∀ x ∈ c.inputs, x ∈ d.inputs) ∧ (∀ x ∈ d.inputs, x ∈ c.inputs ∨ x = ⟨k, p.va, p.status == 1, p.data⟩) ∧
            ((∀ x ∈ c.inputs, ¬ (x.member = k ∧ x.off = p.va)) → ⟨k, p.va, p.status == 1, p.data⟩ ∈ d.inputs)) ∧
    (s.fatal = none → s.tripped = false →
      (p.dst = s.self → exec (.torusHop p) s = .next { s with inputs := s.inputs ++ [(s.cycle + 1, .event (arrival p))] }) ∧
      (p.dst ≠ s.self → podOf p.dst = podOf s.self → s.feat 2 = true → exec (.torusHop p) s = .next (match s.torusLink p with
        | some h => { s with tx := s.tx ++ [(h.1, { p with heading := some h })] }
        | none => s.count 0x1120)) ∧
      (podOf p.dst ≠ podOf s.self → p.relayed = true → p.inter = podOf s.self →
        ∀ l back, p.heading = some (l, back) → exec (.torusHop p) s = .next { s with fab := { s.fab with
          relay := s.fab.relay ++ [(podOf p.src, { p with slot := some (slotAt p.time (l - 6) + 1) })] } })) ∧
    (s.fatal = none → s.tripped = false → s.regF 0x1000 15 1 = 0 → ∃ t, exec (.beacon bc) s = .next t ∧ t.mem = s.mem ∧
      t.cur = s.cur ∧ t.fab.lastBeacon = s.ftime ∧ t.fab.slew = (bc.time : Int) - s.ftime ∧
      (let near := t.fab.slew.natAbs ≤ 10
       t.regF 0x1000 31 1 = (if near then 1 else 0) ∧
        (s.regF 0x1000 31 1 = 1 → ¬ near → bump t 0x1150) ∧
        t.fab.resumeAt = if s.regF 0x1000 31 1 = 0 ∧ near then s.fab.resumeAt.map (fun _ => s.ftime + 10000000) else s.fab.resumeAt) ∧
      (∀ n, bc.plane = some n →
        (s.partnerOf n = podOf bc.sender → t.fab.credits = s.fab.credits.put n bc.credits 0 ∧
          t.fab.creditSlot = s.fab.creditSlot.put n (slotAt s.ftime n + 1) 0 ∧ t.creditFor (slotAt s.ftime n) n = bc.credits) ∧
        (s.partnerOf n ≠ podOf bc.sender → t.fab.credits = s.fab.credits ∧ t.fab.creditSlot = s.fab.creditSlot) ∧
        t.fab.peerPlanes.find? (fun x => x.1 == podOf bc.sender) = some (podOf bc.sender, bc.planes)) ∧
      (bc.plane = none → t.fab.credits = s.fab.credits ∧ t.fab.peerPlanes = s.fab.peerPlanes))

/-- R62, R66 to R78, R434: the sluice. RTS takes a request-table entry and is accepted, or answered FULL; a repeat is
accepted again, a closed message gets its final packet again; ACCEPT, FULL, TOKEN, ACK, DONE and PURGE move a send-table
entry; RENEW, RETURN and CANCEL act on a request; data pieces land under a live token or spillway, else are counted; grant
decisions, at most one each 4 ns, expiry, the orphan rule and renewals. The model's choices: a TOKEN for no message is answered
CANCEL though it has expired (log 77); POISON and LINK_LOST also where CANCEL or the orphan rule ends a request (log 104); a
request with nothing to land closes at once (log 117); the order of ranges that return together (log 119). -/
def Obligations.SluicePackets : Prop :=
  ∀ (p : Packet) (s u : State) (src m : Nat),
    let id := msgidOf p
    let bump := fun (w t : State) (o : Nat) => t.reg o = min (w.reg o + 1) (2 ^ 64 - 1)
    let frame := fun (t : State) => t.mem = s.mem ∧ t.cur = s.cur ∧ t.slu.closed = s.slu.closed
    let shut := s.slu.closed.find? fun c => c.src == p.src && c.msgid == id
    let plain := p.va = 0 ∧ p.opb = 0
    let keepReqs := fun (t : State) => t.slu.reqs = s.slu.reqs ∧ frame t
    let keepSends := fun (t : State) => t.slu.sends = s.slu.sends ∧ frame t
    let live := s.ftime + s.orphanNs
    (s.slTakes p 32 51 → p.opb.toNat < 2 ^ 40 → dataWord p 3 = 0 →
      let start := dataWord p 1
      let n := dataWord p 2
      let left := if start + n < p.opb.toNat then [(start + n, p.opb.toNat)] else []
      let spill : Option Token := if n = 0 then none else some ⟨0, start, n, s.ftime + s.tokenLife, []⟩
      let accepts := fun (t : State) (k : Nat) => Controls s t 2 p.src 0 (id + s.domain * 2 ^ 48) k ∧ t.slu.sends = s.slu.sends ∧ frame t
      let closes := fun (w t : State) (r : SlReq) =>
        let x := w.rdone r.rdone (reqBits r)
        t.mem = x.mem ∧ t.slu.reqs = w.reqsWithout p.src id ∧ ∃ d c, t.fab.waiting = x.fab.waiting ++ [d] ∧ d.cls = 5 ∧ d.op = 9 ∧
          d.dst = p.src ∧ d.opa = BitVec.ofNat 64 id ∧ d.opb = BitVec.ofNat 64 (reqFlags r) ∧ d.status = 0 ∧
          t.slu.closed.getLast? = some c ∧ c.src = p.src ∧ c.msgid = id ∧ c.final = d
      (∀ c, shut = some c → exec (.rts p) s = .next (s.send c.final)) ∧
      (shut = none → s.reqOf p.src id = none → 4096 ≤ s.slu.reqs.length → ∃ t, exec (.rts p) s = .next t ∧
        Controls s t 3 p.src 0 id 0 ∧ bump s t 0x1318 ∧ t.slu = s.slu ∧ t.mem = s.mem ∧ t.cur = s.cur) ∧
      (shut = none → s.reqOf p.src id = none → s.slu.reqs.length < 4096 → ∃ t, exec (.rts p) s = .next t ∧
        let r : SlReq := ⟨p.src, id, bits p.opa.toNat 48 3, p.va, start, p.opb.toNat, dataWord p 0, s.slu.ticketCtr, .waiting, left, [],
          spill, [], false, false, live⟩
        ∃ w, accepts w s.slu.ticketCtr ∧ w.slu.ticketCtr = s.slu.ticketCtr + 1 ∧ w.slu.reqs = s.slu.reqs ++ [r] ∧
          (start < p.opb.toNat → t = w) ∧ (p.opb.toNat ≤ start → closes w t r)) ∧
      (∀ r, shut = none → s.reqOf p.src id = some r → ∃ t, exec (.rts p) s = .next t ∧
        (r.st ≠ .paused → accepts t r.ticket ∧ t.slu.reqs = s.reqsWith p.src id fun e => { e with orphanAt := live }) ∧
        (r.st = .paused → let r' : SlReq :=
          { r with st := .waiting, start := start, ungranted := left, spill := spill, tokens := [], landed := [], orphanAt := live }
          ∃ w, accepts w r.ticket ∧ w.slu.reqs = (s.reqsWith p.src id fun _ => r') ∧
            (start < r.length → t = w) ∧ (r.length ≤ start → closes w t r')))) ∧
    (s.slTakes p 0 52 → plain → ∀ e, s.sendOf id = some e →
      (bit1 p.opa.toNat 51 = false → e.st = .posted ∨ e.st = .queued → ∃ t, exec (.accept p) s = .next t ∧ keepReqs t ∧
        t.slu.sends = s.sendsWith id (fun e => { e with st := .queued, domain := some (bits p.opa.toNat 48 3) }) ∧
        t.fab.out = s.fab.out.filter fun x => x.key != sluiceKey id .rts) ∧
      (bit1 p.opa.toNat 51 = false → e.st = .returning → ∃ t, exec (.accept p) s = .next t ∧ keepReqs t ∧ keepSends t ∧
        t.fab.out = s.fab.out.filter fun x => x.key != sluiceKey id .rts) ∧
      (bit1 p.opa.toNat 51 = true → e.st ≠ .returning → exec (.accept p) s = .next s) ∧
      (bit1 p.opa.toNat 51 = true → e.st = .returning → ∃ t, exec (.accept p) s = .next t ∧ t.slu.reqs = s.slu.reqs ∧
        t.slu.sends = s.slu.sends.filter fun x => x.msgid != id)) ∧
    (s.slTakes p 0 48 → plain → ∀ e, s.sendOf id = some e → ∃ t, exec (.full p) s = .next t ∧ keepReqs t ∧ keepSends t ∧
      t.fab.out = if e.st = .posted then s.fab.out.map (fun r => if r.key = sluiceKey id .rts then
        { r with deadline := s.ftime + s.regF 0x1010 0 32 } else r) else s.fab.out) ∧
    (s.slTakes p 8 64 →
      let k : Token := ⟨p.opb.toNat, p.va, bits p.opa.toNat 48 16 + 1, dataWord p 0, []⟩
      (s.sendOf id = none → ∃ t r, exec (.token p) s = .next t ∧ keepReqs t ∧ keepSends t ∧ Controls s t 8 p.src 0 id 0 ∧
        t.fab.waiting = s.fab.waiting ++ [r] ∧ r.data = List.replicate 8 0 ∧
        ∃ x ∈ t.fab.out, x.key = sluiceKey id .cancel ∧ x.pkt = r) ∧
      (∀ e, s.sendOf id = some e → k.expiry < s.ftime → exec (.token p) s = .next s) ∧
      (∀ e, s.sendOf id = some e → s.ftime ≤ k.expiry → e.st = .posted ∨ e.st = .queued → ∃ t, exec (.token p) s = .next t ∧
        keepReqs t ∧
        let merged := fun (l : List Token) => l.filter (fun x => x.ticket < k.ticket) ++ k :: l.filter (fun x => k.ticket < x.ticket)
        t.slu.sends = s.sendsWith id fun e => { e with st := .queued, tokens := merged e.tokens })) ∧
    (s.slTakes p 0 64 → ∃ t, exec (.ack p) s = .next t ∧ keepReqs t ∧ t.slu.sends = s.sendsWith id fun e =>
      { e with acked := addRange e.acked p.va (p.va + bits p.opa.toNat 48 16 + 1) }) ∧
    (s.slTakes p 0 48 → plain →
      (∀ c, shut = some c → exec (.renew p) s = .next (s.send c.final) ∧ exec (.returnPkt p) s = .next (s.send c.final)) ∧
      (shut = none → s.reqOf p.src id = none → ∀ i ∈ [Instr.renew p, .returnPkt p], ∃ t, exec i s = .next t ∧ keepReqs t ∧
        keepSends t ∧ Controls s t 10 p.src 0 id 0) ∧
      (∀ r, shut = none → s.reqOf p.src id = some r →
        (∃ t, exec (.renew p) s = .next t ∧ keepSends t ∧ t.fab = s.fab ∧
          t.slu.reqs = s.reqsWith p.src id fun e => { e with orphanAt := live }) ∧
        ∃ t, exec (.returnPkt p) s = .next t ∧ keepSends t ∧
          Controls s t 2 p.src 0 (id + s.domain * 2 ^ 48 + 2 ^ 51) r.ticket ∧ t.slu.reqs = s.reqsWith p.src id fun e =>
            let back := ((e.tokens ++ e.spill.toList).map fun x => (x.lo, x.lo + x.len)).reverse
            { e with st := .paused, tokens := [], spill := none, ungranted := back ++ e.ungranted })) ∧
    (s.slTakes p 8 48 → plain →
      (∀ c, shut = some c → exec (.cancel p) s = .next (s.send c.final)) ∧
      (∀ r, shut = none → s.reqOf p.src id = some r →
        let w := s.rdone r.rdone (stCancelled ||| reqBits r)
        ∃ t, exec (.cancel p) s = .next t ∧ t.mem = w.mem ∧ bump w t 0x1328 ∧ t.slu.sends = s.slu.sends ∧
          t.slu.reqs = s.reqsWithout p.src id ∧ Controls s t 9 p.src 0 id (1 + reqFlags r)) ∧
      (shut = none → s.reqOf p.src id = none → ∃ t, exec (.cancel p) s = .next t ∧
        t.mem = (s.rdone (dataWord p 0) stCancelled).mem ∧ t.slu.sends = s.slu.sends ∧ Controls s t 9 p.src 0 id 1 ∧
        t.slu.closed.length = min (s.slu.closed.length + 1) (max s.slu.closed.length 4096))) ∧
    (s.slTakes p 0 48 → plain → ∀ e, s.sendOf id = some e → e.st = .posted ∨ e.st = .queued ∨ e.st = .cancelling →
      let gone := fun (t : State) (st : Nat) => t.slu.sends = s.slu.sends.filter (fun x => x.msgid != id) ∧
        t.slu.reqs = s.slu.reqs ∧ t.fab.out = s.fab.out.filter (fun x => x.key / 4 != 2 ^ 62 + id) ∧ t.cur = s.cur ∧
        t.mem = (s.objTry tlbIo e.asid (sendLdone e.desc) st).mem
      ∃ t t', exec (.done p) s = .next t ∧ exec (.purge p) s = .next t' ∧
        gone t (if e.st = .cancelling then stCancelled ||| e.err.getD 0 else 0) ∧
        gone t' (if e.st = .cancelling then stCancelled ||| e.err.getD 0 else stOrphaned)) ∧
    (let n := p.data.length
     let piece := fun (i : Instr) (r : SlReq) (k : Option Token) (ticket : Nat) =>
      (k = none → exec i s = .next (s.count 0x1320)) ∧
      (∀ t0, k = some t0 → (∀ j < pieceCount t0.len, pieceOf t0.lo t0.len j ≠ (p.va - r.dst, n)) →
        exec i s = .next (s.count 0x1138)) ∧
      ∀ t0 j ph p1, k = some t0 → j < pieceCount t0.len → r.dst ≤ p.va → pieceOf t0.lo t0.len j = (p.va - r.dst, n) →
        j ∉ t0.got → p.status = 0 → s.targetXlate p.va .write = (u, .ok ph) → u.targetXlate (p.va + n - 1) .write = (u, .ok p1) →
        u.Canonical → u.slu = s.slu → u.fab = s.fab → inTier1 ph.pa = true → inTier1 p1.pa = true → ph.pz = false →
        p.va % 4096 + n ≤ 4096 → 0 < n →
        let landed := addRange r.landed (p.va - r.dst) (p.va - r.dst + n)
        rangeSize landed < r.length - r.start → ∃ t, exec i s = .next t ∧ Stores u t ph.key ph.pa p.data ∧
          t.slu.sends = s.slu.sends ∧ t.slu.closed = s.slu.closed ∧
          (∀ e ∈ t.slu.reqs, e.src = p.src → e.msgid = id → ∃ e₀ ∈ s.slu.reqs, e.dst = e₀.dst ∧ e.ungranted = e₀.ungranted ∧
            e.orphanAt = u.ftime + u.orphanNs) ∧
          (t.reqOf p.src id).map SlReq.landed = some landed ∧
          if t0.got.length + 1 = pieceCount t0.len then ∃ a, t.fab.waiting = s.fab.waiting ++ [a] ∧ a.op = 5 ∧ a.va = t0.lo ∧
            a.opa = BitVec.ofNat 64 (id + (t0.len - 1) % 65536 * 2 ^ 48) ∧ a.opb = BitVec.ofNat 64 ticket
          else t.fab.waiting = s.fab.waiting
     s.takes p → p.tag = 0 → s.slEnabled = true → p.cls = 6 → p.opa.toNat < 2 ^ 48 → p.status ≤ 1 →
      (s.reqOf p.src id = none → p.op = 2 → exec (.pull p) s = .next (s.count 0x1320)) ∧
      ∀ r, s.reqOf p.src id = some r →
        (p.op = 2 → piece (.pull p) r (r.tokens.find? fun x => x.ticket == p.opb.toNat) p.opb.toNat) ∧
        (p.op = 1 → p.opb = 0 → piece (.spill p) r r.spill r.ticket)) ∧
    (((∀ r ∈ s.slu.reqs, s.eligible r = false) → exec .grantDecision s = .next s) ∧
     (s.ftime < s.slu.lastGrant → exec .grantDecision s = .next s) ∧
     ∀ r lo hi more, s.slu.lastGrant ≤ s.ftime → r ∈ s.slu.reqs → s.eligible r = true → r.ungranted = (lo, hi) :: more → podOf r.src = podOf s.self →
      (∀ x ∈ s.slu.reqs, s.eligible x = true → x ≠ r → grantBefore r x = true) →
      let free := (s.regF 0x1200 16 10 * 65536 - s.inUse) / 4096 * 4096
      let len := min (min (s.regF 0x1200 8 5 * 4096) (hi - lo)) free
      let rest := if lo + len < hi then (lo + len, hi) :: more else more
      ∃ t, exec .grantDecision s = .next t ∧ keepSends t ∧ t.slu.lastGrant = s.ftime + 4 ∧
        (len < min 4096 (hi - lo) → bump s t 0x1330 ∧ t.slu.reqs = s.slu.reqs ∧ t.fab = s.fab) ∧
        (min 4096 (hi - lo) ≤ len → bump s t 0x1300 ∧ t.slu.ticketCtr = s.slu.ticketCtr + 1 ∧
          Controls s t 4 r.src lo (r.msgid + (len - 1) * 2 ^ 48) s.slu.ticketCtr ∧ t.slu.reqs = s.reqsWith r.src r.msgid fun e =>
            let k : Token := ⟨s.slu.ticketCtr, lo, len, s.ftime + s.tokenLife, []⟩
            { e with ungranted := rest, tokens := e.tokens ++ [k], st := if rest.isEmpty then .draining else .waiting })) ∧
    (∀ r, s.reqOf src m = some r →
      let gone := r.tokens.filter (fun x => x.expiry ≤ s.ftime) ++ r.spill.toList.filter fun x => x.expiry ≤ s.ftime
      (gone = [] → exec (.tokenExpiry src m) s = .next s) ∧
      (gone ≠ [] → ∃ t, exec (.tokenExpiry src m) s = .next t ∧ keepSends t ∧ t.fab = s.fab ∧
        t.reg 0x1308 = min (s.reg 0x1308 + gone.length) (2 ^ 64 - 1) ∧ ∃ e, t.reqOf src m = some e ∧ e.st = .waiting ∧
          e.ungranted = (gone.map fun x => (x.lo, x.lo + x.len)).reverse ++ r.ungranted ∧
          e.tokens = r.tokens.filter (fun x => s.ftime < x.expiry) ∧ e.spill = r.spill.filter (fun x => s.ftime < x.expiry) ∧
          e.landed = r.landed) ∧
      (s.ftime < r.orphanAt → exec (.orphanTimeout src m) s = .next s) ∧
      (r.orphanAt ≤ s.ftime → ∃ t, exec (.orphanTimeout src m) s = .next t ∧ t.slu.reqs = s.reqsWithout src m ∧
        t.slu.sends = s.slu.sends ∧ Controls s t 10 src 0 m 0 ∧
        (r.st = .paused → t.mem = s.mem ∧ bump s t 0x1310 ∧ t.slu.closed = s.slu.closed) ∧
        (r.st ≠ .paused → t.mem = ((s.count 0x1310).rdone r.rdone (stOrphaned ||| reqBits r)).mem ∧
          ∃ c, t.slu.closed.getLast? = some c ∧ c.src = src ∧ c.msgid = m ∧ c.final.op = 10))) ∧
    (∀ e, s.sendOf m = some e →
      let due := e.st = .queued ∧ e.lastSent + s.regF 0x1210 32 32 * 1000 ≤ s.ftime
      (due → ∃ t, exec (.renewInterval m) s = .next t ∧ keepReqs t ∧ Controls s t 6 e.dst 0 m 0 ∧
        t.slu.sends = s.sendsWith m fun e => { e with lastSent := s.ftime }) ∧
      (¬ due → exec (.renewInterval m) s = .next s))

/-- R34 to R37, R40, R42, R43, R47, R52, R55 to R57, R80: end-to-end time-outs send again or end a request LOST; a rotor slot
begins with a beacon in its guard and no data, and a packet leaves in a slot's data window; torus beacons; the loss of time and the rotor's return; pairs that go down;
FLD bounds; a discarded save; and the moves of a collective with its folds. A direct packet leaves in the slot it was kept for, a
relayed one at once against a credit of that slot, and from relay space in a later slot. The model's choices: the fields of a COLL
packet (log 21, PRESUMED), SAT of this member's elements (log 99), a loss of pair 24 + n counted once (log 114). -/
def Obligations.FabricLinksAndTimers : Prop :=
  ∀ (key : Nat) (plane : Fin 24) (pair : Fin 48) (c : CtxId) (rec inst node : Nat) (s : State), s.Canonical →
    let bump := fun (t : State) (o : Nat) => t.reg o = min (s.reg o + 1) (2 ^ 64 - 1)
    let on := s.fatal = none ∧ s.tripped = false
    ((∀ r ∈ s.fab.out, r.key = key → s.ftime < r.deadline) → exec (.e2eTimeout key) s = .next s) ∧
    (∀ r, s.fab.out.find? (fun r => r.key == key && r.deadline ≤ s.ftime) = some r →
      (r.retries < s.regF 0x1010 32 4 → ∃ t, exec (.e2eTimeout key) s = .next t ∧ bump t 0x1118 ∧
        t.mem = s.mem ∧ t.cur = s.cur ∧ t.fab.waiting = s.fab.waiting ++ [r.pkt] ∧
        (∀ m k, r.pkt.cls = 5 → key = sluiceKey m k →
          t.slu.sends = s.sendsWith m fun e => { e with lastSent := s.ftime }) ∧
        t.fab.out = s.fab.out.map fun x => if x.key = key then
          { x with deadline := s.ftime + s.regF 0x1010 0 32, retries := x.retries + 1 } else x) ∧
      (s.regF 0x1010 32 4 ≤ r.retries → ∃ t, exec (.e2eTimeout key) s = .next t ∧ bump t 0x1120 ∧
        (∀ c seq, r.pkt.cls ≠ 5 → r.owner = .remote c seq → t.fab.out = s.fab.out.filter (fun x => x.key != key) ∧
          t.mem = s.mem ∧ ∀ e ∈ (t.ctx c).remote, e.seq = seq → e.status = some 11) ∧
        (∀ m k e, r.pkt.cls = 5 → key = sluiceKey m k → s.sendOf m = some e →
          (e.st = .posted ∧ k = .rts) ∨ (e.st = .cancelling ∧ k = .cancel) ∨ (e.st = .returning ∧ k = .ret) →
          t.slu.sends = s.slu.sends.filter fun x => x.msgid != m))) ∧
    (let n := plane.val
     let begins := s.rotorOn = true ∧ s.fab.planesUp.getLsbD n = true ∧ n * 128 ≤ s.ftime ∧ (s.ftime - n * 128) % 4096 < 256
     (¬ begins ∨ s.pods < s.partnerOf n ∨ s.pods < podOf s.self → exec (.rotorSlotStart plane) s = .next s) ∧
     (begins → s.partnerOf n ≤ s.pods → podOf s.self ≤ s.pods → ∃ b, exec (.rotorSlotStart plane) s = .next { s with
       txBeacons := s.txBeacons ++ [(6 + n, b)] } ∧ b.plane = some n ∧ b.sender = s.self ∧ b.time = s.ftime ∧
       b.planes = s.fab.planesUp) ∧
     (∀ p, let t := s.rotorSend p
       t.mem = s.mem ∧ t.cur = s.cur ∧ (t.tx = s.tx ∨ ∃ k q, let now := slotAt s.ftime k
         s.fits k p = true ∧ 256 ≤ (s.ftime - k * 128) % 4096 ∧ podOf s.self ≤ s.pods ∧ s.partnerOf k ≤ s.pods ∧
         t.tx = s.tx ++ [(6 + k, q)] ∧ t.fab.waiting = s.fab.waiting.erase p ∧ q.dst = p.dst ∧ q.data = p.data ∧ q.time = s.ftime ∧
         (p.slot = some now ∧ s.partnerOf k = podOf p.dst ∧ q.rotorDone = true ∧ t.fab.credits = s.fab.credits ∨
           p.slot = none ∧ q.relayed = true ∧ q.inter = s.partnerOf k ∧ q.inter ≠ podOf p.dst ∧ 1 ≤ s.creditFor now k ∧
             t.fab.credits = s.fab.credits.put k (s.fab.credits.getD k 0 - 1) 0))) ∧
     ∀ x, s.relaySend x = s ∨ ∃ k q, s.fits k x.2 = true ∧ (∀ t ∈ x.2.slot, t ≤ slotAt s.ftime k) ∧
       s.partnerOf k = podOf x.2.dst ∧ (s.relaySend x).tx = s.tx ++ [(6 + k, q)] ∧
       (s.relaySend x).fab.relay = s.fab.relay.erase x ∧ q.rotorDone = true ∧ q.dst = x.2.dst ∧ q.data = x.2.data) ∧
    (¬ (s.feat 2 = true ∧ on) → exec .torusBeacon s = .next s) ∧
    (s.feat 2 = true → on → ∃ l, exec .torusBeacon s = .next { s with txBeacons := s.txBeacons ++ l } ∧
      l.map Prod.fst = (List.range 6).filter (fun k => s.torusUp k && s.regF 0x1000 (22 + 3 * (k / 2)) 3 != 0) ∧
      ∀ x ∈ l, x.2.plane = none ∧ x.2.sender = s.self ∧ x.2.time = s.ftime) ∧
    (let lost := s.regF 0x1000 15 1 = 0 ∧ s.regF 0x1000 31 1 = 1 ∧ s.fab.lastBeacon + 1000000 ≤ s.ftime
     (¬ lost → exec .beaconLoss s = .next s) ∧
     (lost → ∃ t, exec .beaconLoss s = .next t ∧ t.regF 0x1000 31 1 = 0 ∧ t.regF 0x0400 5 1 = 1 ∧ bump t 0x1150 ∧
       t.rotorOn = false ∧ t.fab.resumeAt = some 0 ∧ t.fab.slew = 0 ∧ t.mem = s.mem ∧ t.cur = s.cur)) ∧
    (∀ k, s.fab.resumeAt = some k → exec .rotorResume s = .next
      (if s.regF 0x1000 31 1 = 1 ∧ k ≤ s.ftime then { s with fab := { s.fab with resumeAt := none } } else s)) ∧
    (s.fab.resumeAt = none → exec .rotorResume s = .next s) ∧
    (∃ n, (n = 1 ∨ n = s.fab.replays.getD pair.val 0 + 1) ∧ exec (.linkReplay pair) s =
      if n < 8 then .next { s with fab := { s.fab with replays := s.fab.replays.put pair.val n 0 } }
      else exec (.lossOfLight pair) s) ∧
    (s.fab.pairsUp.getLsbD pair.val = false → exec (.lossOfLight pair) s = .next s) ∧
    (s.fab.pairsUp.getLsbD pair.val = true → ∃ t, exec (.lossOfLight pair) s = .next t ∧ bump t 0x1108 ∧
      t.regF 0x0400 5 1 = 1 ∧ t.mem = s.mem ∧ t.cur = s.cur ∧
      (∀ k, t.fab.pairsUp.getLsbD k = (s.fab.pairsUp.getLsbD k && k != pair.val)) ∧
      ∀ k, t.fab.planesUp.getLsbD k = (s.fab.planesUp.getLsbD k && k + 24 != pair.val)) ∧
    (∀ e, (s.ctx c).bounds = [e] → e.reg < 32 → e.reg ≠ 0 → e.vec = false → ∃ t, exec (.fldBound c) s = .next t ∧ t.mem = s.mem ∧
      (∀ k, k ≠ e.reg → (t.ctx c).s[k]? = (s.ctx c).s[k]?) ∧
      (e.status = some 0 → (t.ctx c).s[e.reg]? = some e.data ∧ (t.ctx c).spois.getLsbD e.reg = false ∧
        (t.ctx c).late = (s.ctx c).late.filter fun x => x.seq != e.seq) ∧
      (e.status ≠ some 0 → (t.ctx c).s = (s.ctx c).s ∧ (t.ctx c).spois.getLsbD e.reg = true ∧
        ∀ x ∈ (t.ctx c).late, x.seq = e.seq → x.late = true ∧ x.bound = none)) ∧
    ((∀ v ∈ s.saves, v.num = rec → v.full = false) → exec (.savedContextDiscard rec) s = .next s) ∧
    (∀ v, s.saves.find? (fun v => v.num == rec && v.full) = some v → ∃ t, exec (.savedContextDiscard rec) s = .next t ∧
      t.mem = s.mem ∧ t.cur = s.cur ∧
      ∀ u ∈ t.saves, u ∈ s.saves ∧ ¬ (u.walker = v.walker ∧ u.index = v.index ∧ u.full = true)) ∧
    (s.nodeActs inst node = none → exec (.collNode inst node) s = .next s) ∧
    (∀ i g e k, s.nodeActs inst node = some (i, g, e) → s.collOf inst node = some k →
      let d := k.desc.toNat
      let me := (k.ranks.findIdx? fun a => a == s.self).getD 0
      let total := collInput d
      let out := collOutput d me ((List.range k.ranks.length).map k.part)
      let dst := bits d 192 64
      let first := ∀ x ∈ s.colls, k.seq ≤ x.seq
      let here := ∀ j < k.ranks.length, (k.part j).length = total
      let goes := k.finished = false ∧ k.lost = false
      let started := s.startNode inst node
      let ends := fun (w : State) => exec (.collNode inst node) s = .next (({ w with
        colls := w.colls.filter fun x => !(x.inst == inst && x.node == node)
        fab := { w.fab with early := w.fab.early.filter fun p => p.opa.toNat != k.seq } } : State).retireNode inst node)
      (¬ goes ∨ total ≤ k.sent → ¬ first → exec (.collNode inst node) s = .next started) ∧
      (goes → total ≤ k.sent → ¬ here → exec (.collNode inst node) s = .next started) ∧
      (∀ w, ¬ goes → first →
        (started.vUndef tlbIo k.asid (pagesOf (collOutBytes d - k.written)) (dst + k.written)
          (collOutBytes d - k.written)).objVirt tlbIo k.asid (bits d 320 64) 1
          (k.status.toNat ||| (if k.lost then 2 ^ 3 else 0)) = (w, none) → ends w) ∧
      (∀ u l m, goes → 0 < total → total ≤ 4096 → k.sent = 0 → k.chunk = [] → bits d 128 64 % 4096 + total ≤ 4096 →
        started.vGet tlbIo k.asid (bits d 128 64) total = (u, .ok (l, m)) → (∀ b ∈ l, b.2 = false) →
        ∃ t, exec (.collNode inst node) s = .next t ∧ t.mem = s.mem ∧ (∃ x ∈ t.colls, x.inst = inst ∧ x.node = node ∧ x.sent = total) ∧
          ∀ j a, k.ranks[j]? = some a → j ≠ me → ∃ q ∈ t.fab.waiting, q.cls = 8 ∧ q.op = 1 ∧ q.dst = a ∧ q.va = 0 ∧
            q.opa = BitVec.ofNat 64 k.seq ∧ q.opb = BitVec.ofNat 64 (collForm d) ∧ q.data = l.map Prod.fst) ∧
      (∀ u w m, goes → total ≤ k.sent → first → here → k.written = 0 → 0 < out.1.length → dst % 4096 + out.1.length ≤ 4096 →
        (started.mapColl inst node fun c => { c with status := c.status ||| BitVec.ofNat 18 out.2.toNat }).vPut tlbIo k.asid dst
          out.1 = (u, .ok m) →
        (u.mapColl inst node fun c => { c with
          written := out.1.length, status := if m.poison then c.status ||| 2#18 else c.status }).objVirt tlbIo k.asid
          (bits d 320 64) 1 (k.status ||| BitVec.ofNat 18 out.2.toNat ||| if m.poison then 2#18 else 0#18).toNat = (w, none) →
        ends w)) ∧
    (∀ (d : Nat) (v : Int) (vs : List Int), collFold d [v] = (v, false) ∧
      (bits d 0 4 = 0 ∨ bits d 0 4 = 4 → ∀ x, collFold d [v, x] = (nearest (collElem (bits d 4 4)) (v + x),
        !fitsType (collElem (bits d 4 4)) (v + x))) ∧
      (bits d 0 4 = 1 ∨ bits d 0 4 = 5 → collFold d (v :: vs) = (vs.foldl min v, false)) ∧
      (bits d 0 4 = 2 ∨ bits d 0 4 = 6 → collFold d (v :: vs) = (vs.foldl max v, false)))

/-- R158, R161 to R163, R166, R167, R172 to R175, R178: timers of the reward join, its backward scan and the release of
episodes. A closed entry past its time is completed or discarded; an open one past its limit is dropped; held rewards and
done entries leave; the scan takes episodes in the order of their completion and writes each step's advantage and return from the last step down; the head of a queue's order is
delivered, found stale, or waits. -/
def Obligations.JoinTimersScanAndRelease : Prop :=
  ∀ (e : Nat) (q : KNo) (s : State), s.Canonical →
    let bump := fun (t : State) (o : Nat) => t.reg o = min (s.reg o + 1) (2 ^ 64 - 1)
    let linger := s.ftime + s.regF 0x1408 32 32 * 1000
    let isDue := fun (x : JEntry) => ∃ d, x.deadline = some d ∧ d ≤ s.ftime
    let gone := fun (t : State) (x : JEntry) => t.jEntry e = some { x with st := .done, slot := none, deadline := some linger } ∧
      t.mem = s.mem ∧ t.cur = s.cur
    let ended := fun (t : State) (x : JEntry) =>
      t.jEntry e = some { x with st := .complete, completed := s.ftime, deadline := none } ∧ t.cur = s.cur
    (s.jEntry e = none → exec (.joinTimeout e) s = .next s ∧ exec (.openLimit e) s = .next s ∧
      exec (.lingerExpiry e) s = .next s ∧ exec (.backwardScan e) s = .next s) ∧
    (∀ x, s.jEntry e = some x →
      (x.st ≠ .closed ∨ ¬ isDue x → exec (.joinTimeout e) s = .next s) ∧
      (x.st ≠ .opn ∨ ¬ isDue x → exec (.openLimit e) s = .next s) ∧
      (x.st ≠ .done ∨ ¬ isDue x → exec (.lingerExpiry e) s = .next s) ∧
      (x.st ≠ .complete ∨ x.scanned = true ∨ s.scanNext x = false → exec (.backwardScan e) s = .next s) ∧
      (x.st = .opn → isDue x → ∃ t, exec (.openLimit e) s = .next t ∧ gone t x ∧ bump t 0x1568 ∧
        t.orphans = s.orphans.filter fun o => o.key != x.key) ∧
      (x.st = .done → isDue x → exec (.lingerExpiry e) s = .next { s with
        join := s.join.filter fun y => y.idx != e, reuse := s.reuse.put e ((s.reuse.getD e 0 + 1) % 4096) 0 }) ∧
      ∀ sl, x.slot = some sl → inTier1 (s.slotPlace sl + 63) = true →
        let h := s.header sl
        (x.st = .closed → isDue x → ∃ t, exec (.joinTimeout e) s = .next t ∧
          (hMode h = 2 → ended t x ∧ t.mem = s.mem) ∧
          (hMode h ≠ 2 → s.regF (lqReg x.tag) 1 1 = 1 → gone t x ∧ bump t 0x1558) ∧
          (hMode h ≠ 2 → s.regF (lqReg x.tag) 1 1 = 0 → ended t x ∧ bump t 0x1550 ∧ bit1 (t.header sl) 256 = true ∧
            ∀ j, j ≠ 256 → j < 512 → bit1 (t.header sl) j = bit1 h j)) ∧
        (x.st = .complete → x.scanned = false → s.scanNext x = true → inTier1 (s.stepPlace sl (hSteps h)) = true →
          let n := hSteps h
          let par := s.reg (lqReg x.tag + 8)
          let γ : Int := bits par 0 16
          let γl : Int := bits par 16 16
          let V := fun k => if k < n then i32 (bits (s.stepRec sl k) 0 32) else if bit1 h 110 then i32 (bits h 192 32) else 0
          ∃ (t : State) (A G : Nat → Int), exec (.backwardScan e) s = .next t ∧ t.cur = s.cur ∧ A n = 0 ∧ G n = 0 ∧
            t.jEntry e = some { x with scanned := true } ∧ bits (t.header sl) 0 256 = bits h 0 256 ∧
            (∀ k < n, let r := s.stepRec sl k
              let nd : Int := 1 - bits r 88 1
              let rew := i32 (bits r 160 32)
              let δ := sat (sat (rew + rnd16 (γ * V (k + 1) * nd)) 32 - V k) 32
              A k = sat (δ + rnd16 (γl * A (k + 1))) 32 ∧ G k = sat (rew + rnd16 (γ * G (k + 1) * nd)) 32 ∧
              t.stepRec sl k = putBits (putBits r 192 32 (u32 (A k))) 224 32 (u32 (G k))))) ∧
    (∃ t, exec .orphanWindowExpiry s = .next t ∧ t.mem = s.mem ∧ t.cur = s.cur ∧ t.join = s.join ∧
      t.orphans = s.orphans.filter (fun o => s.ftime < o.deadline) ∧
      let n := (s.orphans.filter fun o => o.deadline ≤ s.ftime).length
      t.reg 0x1530 = if n = 0 then s.reg 0x1530 else min (s.reg 0x1530 + n) (2 ^ 64 - 1)) ∧
    ((s.lq q.val).pend = [] → exec (.descriptorReady q) s = .next s) ∧
    (∀ d j ds, (s.lq q.val).pend = (d, j) :: ds → ∃ t d', exec (.descriptorReady q) s = .next t ∧ bump t 0x1580 ∧
      t.mem = s.mem ∧ t.cur = s.cur ∧ t.lq q.val = { s.lq q.val with
        pend := ds, ready := (s.lq q.val).ready ++ [(d', j)], seq := ((s.lq q.val).seq + 1) % 2 ^ 32 } ∧
      descSeq d' = (s.lq q.val).seq % 2 ^ 32 ∧ bits d'.toNat 0 160 = bits d.toNat 0 160 ∧
      bits d'.toNat 192 64 = bits d.toNat 192 64 ∧ ∀ n, n ≠ q.val → t.lq n = s.lq n) ∧
    (s.lqHead q.val = none → exec (.release q) s = .next s) ∧
    (∀ x sl, s.lqHead q.val = some x → s.jEntry x.idx = some x → x.slot = some sl →
      let r := lqReg q.val
      let h := s.header sl
      let done := fun (t : State) => t.jEntry x.idx = some { x with st := .done, slot := none, deadline := some linger }
      let lag := sext ((s.regF (r + 0x10) 0 32 : Int) - bits h 64 32) 32
      (x.scanned = false → exec (.release q) s = .next s) ∧
      (x.scanned = true → s.regF r 0 1 = 0 ∨ s.lqSlot q.val = none →
        (x.counted = true → exec (.release q) s = .next s) ∧
        (x.counted = false → ∃ t, exec (.release q) s = .next t ∧ bump t 0x1578 ∧ t.mem = s.mem ∧ t.lqs = s.lqs ∧
          t.jEntry x.idx = some { x with counted := true })) ∧
      (∀ j, x.scanned = true → s.regF r 0 1 = 1 → s.lqSlot q.val = some j →
        ((s.regF r 32 32 : Int) < lag → ∃ t, exec (.release q) s = .next t ∧ done t ∧ bump t 0x1560 ∧ t.mem = s.mem ∧
          t.lqs = s.lqs) ∧
        (lag ≤ s.regF r 32 32 →
          let n := 64 + 32 * hSteps h
          let a := s.slotPlace sl
          let pz := (List.range n).map fun i => lineBad s.poison (a + i) 1
          let h' := hFlagIf h 7 (pz.any id)
          let out := s.deliver (s.regF r 16 16) (pagesOf n) (s.regF (r + 0x18) 0 55 + j * s.slotBytes)
            ((leBytes h' 64 ++ (s.tierRead .reeve a n).drop 64).zip pz)
          let again := out.1.deliver (s.regF r 16 16) 2 (s.regF (r + 0x18) 0 55 + j * s.slotBytes) ((leBytes (hFlagIf h' 7 true) 64).zip pz)
          (∀ w ∈ [out.1, again.1], w.join = s.join ∧ w.lqs = s.lqs ∧ w.regs = s.regs ∧ w.ftime = s.ftime) → ∃ t, exec (.release q) s = .next t ∧ done t ∧
            (out.2 ≠ some true → t.mem = out.1.mem) ∧
            (out.2 = none → bump t 0x1588 ∧ t.lq q.val = { s.lq q.val with error := true }) ∧
            ∀ lost, out.2 = some lost → ∃ d, t.lq q.val = { s.lq q.val with pend := (s.lq q.val).pend ++ [(d, j)] } ∧
              bits d.toNat 0 64 = bits h 0 64 ∧ bits d.toNat 64 32 = hSteps h ∧ bits d.toNat 96 32 = bits h 64 32 ∧
              bits d.toNat 136 4 = q.val ∧ bit1 d.toNat 147 = (lost || bit1 h' 263))))

/-- R96, R97, R115 to R118, R122, R124, R129, R132 to R146, R150 to R155, R260, R435: held faults are delivered in the ring
of their address space, or wait; a copy-on-write page gets a frame of its own; PUBL swaps a page's frames; nodes wait, add and
copy; walkers start, emit and split; a coordinate is dispatched, loaded, started and retired; slices end; victims are marked,
stop, are saved and come back, each a time after it was stopped or dispatched (R156). Registers that the stop left undefined are
saved so. An event whose condition does not hold changes nothing. The model's choices: PUBL checks no permission but SH (log 34); an
entry that joins a queue lets its head be tried again (log 90); an idle polder asks for a split once (log 109). -/
def Obligations.FaultsAndScheduling : Prop :=
  ∀ (tag inst node core seq : Nat) (c : CtxId) (p : Fin 24) (w : Fin 64) (s u : State), s.Canonical →
    let bump := fun (s t : State) (o : Nat) => t.reg o = min (s.reg o + 1) (2 ^ 64 - 1)
    let x := s.ctx c
    let idle := fun (i : Instr) => exec i s = .next s
    (s.fault tag = none → ∀ i ∈ [Instr.faultDelivery tag, .faultDeliveryRetry tag, .cowFill tag], idle i) ∧
    (∀ h, s.fault tag = some h → h.delivered = false → h.waits = false → h.queued = false → s.fillable h = false →
      (h.code = 10 ∨ s.ast h.asid = none → exec (.faultDelivery tag) s = .next (s.abort { h with code := 10 })) ∧
      (∀ e, h.code ≠ 10 → s.ast h.asid = some e → bits e 128 64 = 0 → exec (.faultDelivery tag) s = .next (s.abort h))) ∧
    (∀ h e, s.fault tag = some h → h.delivered = false → h.queued = false → h.code ≠ 10 → s.fillable h = false →
      s.ast h.asid = some e → bits e 128 64 ≠ 0 → lineBad s.poison (bits e 128 64) 8 = false →
      let base := bits e 128 64
      let size := 2 ^ bits e 192 4
      let n := s.tierNat .host base 8
      let i := if h.waits then Instr.faultDeliveryRetry tag else .faultDelivery tag
      ∃ t, exec i s = .next t ∧ t.cur = s.cur ∧
        ((n + 2 ^ 64 - bits e 256 64) % 2 ^ 64 = size → t.mem = s.mem ∧ t.fault tag = some { h with waits := true, tryAt := s.ftime } ∧
          (h.waits = false → bump s t 0x2098)) ∧
        ((n + 2 ^ 64 - bits e 256 64) % 2 ^ 64 ≠ size → bump s t 0x2080 ∧ t.tierNat .host base 8 = (n + 1) % 2 ^ 64 ∧
          t.tierRead .host (base + 64 + 64 * (n % size)) 64 = leBytes h.record 64 ∧
          t.fault tag = some { h with delivered := true, waits := false })) ∧
    (∀ h, s.fault tag = some h → h.code ≠ 6 ∨ h.delivered = true → idle (.cowFill tag)) ∧
    (∀ h e l kc kl tk, s.fault tag = some h → h.code = 6 → h.delivered = false →
      (∀ y ∈ s.xlt.held, (∀ c r, y.holder ≠ .read c r) ∧ ∀ n, y.holder ≠ .send n) →
      s.ast h.asid = some e → s.walk h.asid h.va = .ok l → l.size = 65536 → l.pte.getLsbD 5 = true → bits e 416 32 ≠ bits e 384 32 →
      s.slotKey (bits e 32 14) = some kc → s.slotKey (leafKeyId l.pte.toNat) = some kl → s.slotKey (bits e 16 14) = some tk →
      let at_ := bits e 320 64 + 8 * bits e 416 32
      let f := s.tierNat .host at_ 8
      let old := bits l.pte.toNat 12 40 * 4096
      inTier1 (at_ + 7) = true → lineBad s.poison at_ 8 = false →
      f % 65536 = 0 → inTier1 (f + 65535) = true → inTier1 (old + 65535) = true → inTier1 (l.at_ + 7) = true →
      apart f 65536 old 65536 → apart f 65536 (l.at_ / 64 * 64) 128 → apart f 65536 (s.astPlace h.asid) 64 →
      apart old 65536 (l.at_ / 64 * 64) 128 → apart old 65536 (s.astPlace h.asid) 64 → s.astPlace h.asid % 64 = 0 →
      ∃ t, exec (.cowFill tag) s = .next t ∧ bump s t 0x2088 ∧ t.cur = s.cur ∧ t.fault tag = none ∧
        (∀ j < 65536, s.tierRead kl (old + j) 1 = [t.tierByte kc (f + j)]) ∧
        let pte := t.tierNat tk l.at_ 8
        bits pte 12 40 * 4096 = f % 2 ^ 52 ∧ leafKeyId pte = bits e 32 14 ∧ bit1 pte 3 = true ∧ bit1 pte 5 = false) ∧
    (∀ e va, s.opOf c seq = some e → e.kind = .publ va → e.phase = .waiting → s.opReady x e = true →
      ∀ l a k, s.walk x.launch.asid va.toNat = .ok l → s.ast x.launch.asid = some a → s.slotKey (bits a 16 14) = some k →
        (l.pte.getLsbD 6 = false → ∃ t, exec (.publSwap c seq) s = .next t ∧ t.mem = s.mem ∧
          ∃ e', t.opOf c seq = some e' ∧ e'.phase = .updating ∧ e'.status = e.status ||| BitVec.ofNat 18 (2 ^ 15)) ∧
        (l.pte.getLsbD 6 = true → s.pageInUse x.launch.asid l.va l.size = true → idle (.publSwap c seq)) ∧
        (l.pte.getLsbD 6 = true → s.pageInUse x.launch.asid l.va l.size = false → inTier1 (l.at_ + 7) = true →
          ∃ t, exec (.publSwap c seq) s = .next t ∧ t.tierNat k l.at_ 8 = (l.pte ^^^ BitVec.ofNat 64 (2 ^ 11)).toNat ∧
            (∀ y ∈ t.xlt.tlb, y ∈ s.xlt.tlb ∧ ¬ ((y.global = true ∨ y.asid = x.launch.asid) ∧ y.va < l.va + l.size ∧
              l.va < y.va + y.size)) ∧ ∃ e', t.opOf c seq = some e' ∧ e'.phase = .updating ∧ e'.status = e.status)) ∧
    (s.nodeActs inst node = none → ∀ i ∈ [Instr.waitNodeMet inst node, .signalNodeRetire inst node, .copyNodeRetire inst node,
      .walkerStart inst node], idle i) ∧
    (∀ i g e, s.nodeActs inst node = some (i, g, e) →
      let s₀ := s.startNode inst node
      let va := s.nodeAddr i e 64 192
      (∀ n, s₀.objCounter tlbIo g.asid va = (u, .ok (.ok n)) → exec (.waitNodeMet inst node) s =
        .next (if bits e 128 64 ≤ n then u.retireNode inst node else u)) ∧
      (s₀.objVirt tlbIo g.asid va (bits e 128 64) 0 = (u, none) →
        exec (.signalNodeRetire inst node) s = .next (u.retireNode inst node)) ∧
      (∀ f, s₀.objVirt tlbIo g.asid va (bits e 128 64) 0 = (u, some f) → u.engHeld engSeq coreIo = false → ∃ t, exec (.signalNodeRetire inst node) s = .next t ∧
        t.mem = u.mem ∧ t.xlt.held.length = u.xlt.held.length + 1) ∧
      (∀ (run : Nat → State) (l : Nat → List PByte), (i.nodeSt node).map NodeSt.prog = some 0 → run 0 = s₀ →
        (∀ j, 64 * j < bits e 192 40 → ∃ v m m', (run j).vGet tlbIo g.asid (s.nodeAddr i e 64 232 + 64 * j)
          (min 64 (bits e 192 40 - 64 * j)) = (v, .ok (l j, m)) ∧
          let dst := s.nodeAddr i e 128 233 + 64 * j
          (v.vPut tlbIo g.asid dst (l j)).2 = .ok m' ∧
            run (j + 1) = (v.vPut tlbIo g.asid dst (l j)).1.clobberVirt tlbIo g.asid dst (min 64 (bits e 192 40 - 64 * j))) →
        exec (.copyNodeRetire inst node) s = .next ((run ((bits e 192 40 + 63) / 64)).retireNode inst node)) ∧
      (s.fatal = none → i.status = 0 → s.succs g node = [] → ∃ t, t = s.retireNode inst node ∧
        t.insts = s.insts.filter (fun y => y.num != inst) ∧ t.irq = s.irq ++ [i.line / 32] ∧
        t.hostRead i.crec 64 = leBytes (i.seq + i.handle * 2 ^ 32 + i.line * 2 ^ 48 + i.node * 2 ^ 64 + i.preempts * 2 ^ 96 +
          i.tStart * 2 ^ 128 + s.ftime * 2 ^ 192 + i.cookie * 2 ^ 256) 64) ∧
      ((i.nodeSt node).map NodeSt.st ≠ some .ready → idle (.walkerStart inst node)) ∧
      (∀ n, (i.nodeSt node).map NodeSt.st = some .ready →
        s.launchWaits i node g.asid (s.launchRec g node) 4 = (u, true) → firstFree (u.walkers.map Walker.num) 64 = some n →
        ∃ t y, exec (.walkerStart inst node) s = .next t ∧ t.walkers = u.walkers ++ [y] ∧ t.mem = u.mem ∧ y.num = n ∧
          y.cursor = 0 ∧ y.last = lrCount (s.launchRec g node) ∧ y.inst = inst ∧ y.node = node ∧
          y.mask = i.allowed node ∧ y.prio = min (bits (s.launchRec g node) 136 3) i.prio)) ∧
    (s.walker w.val = none → idle (.walkerEmit w)) ∧
    (∀ y, s.walker w.val = some y →
      (s.mayEmit y = false → idle (.walkerEmit w)) ∧
      (∀ q, s.mayEmit y = true → s.bestPolder (fun p => y.mask.getLsbD p) y.prio = some q → ∃ t, exec (.walkerEmit w) s = .next t ∧
        t.mem = s.mem ∧ t.cur = s.cur ∧ (t.pol q).runQ = (s.pol q).runQ ++ [(y.prio, ⟨y.num, y.cursor, none, y.inst, 0⟩)] ∧
        (∀ r, r ≠ q → t.pol r = s.pol r) ∧
        t.walker w.val = some { y with cursor := y.cursor + 1, emitted := y.emitted + 1, emitAt := s.ftime + 4 })) ∧
    (let may := s.polIdle p.val = true ∧ s.feat 18 = true ∧ (s.pol p.val).split = false
     (¬ may → idle (.splitRequest p)) ∧
     (may → ∃ t, exec (.splitRequest p) s = .next t ∧ t.mem = s.mem ∧ t.cur = s.cur ∧
       (∀ r, r ∈ t.splitQ ↔ r ∈ s.splitQ ∨ r = (s.ftime, p.val)) ∧
       (t.pol p.val).split = true ∧ ∀ r, r ≠ p.val → t.pol r = s.pol r)) ∧
    (s.splitNext ≠ some p.val ∨ s.ftime < s.splitAt → idle (.walkerSplit p)) ∧
    (∀ y i n k, s.splitQ = [(k, p.val)] → s.splitAt ≤ s.ftime → s.inst y.inst = some i → y.ordered = false → s.walkers = [y] →
      (i.allowed y.node).getLsbD p.val = true → firstFree [y.num] 64 = some n →
      let g := bits (s.launchOf y) 144 16
      let mid := g * ((y.cursor + (y.last - y.cursor) / 2 + g / 2) / g)
      (mid ≤ y.cursor ∨ y.last ≤ mid → idle (.walkerSplit p)) ∧
      (y.cursor < mid → mid < y.last → ∃ t, exec (.walkerSplit p) s = .next t ∧ bump s t 0x2100 ∧ t.mem = s.mem ∧ t.cur = s.cur ∧
        t.splitQ = [] ∧ t.splitAt = s.ftime + 1 ∧ t.walkers = [{ y with last := mid },
          { y with num := n, cursor := mid, emitted := 0, retired := 0, mask := 1#24 <<< p.val }])) ∧
    (headEntry (s.pol p.val) = none → idle (.dispatch p) ∧ idle (.restore p) ∧ idle (.preemptMark p)) ∧
    (∀ lvl e i y, headEntry (s.pol p.val) = some (lvl, e) → e.record = none → s.inst e.inst = some i → s.walker e.walker = some y →
      let g := s.instGraph i
      let r := s.launchRec g y.node
      (s.placement p.val s.tasks (s.members i y.node) = none → idle (.dispatch p)) ∧
      (∀ ids area, s.placement p.val s.tasks (s.members i y.node) = some (ids, area) → ∃ t, exec (.dispatch p) s = .next t ∧
        (t.pol p.val).runQ = (s.pol p.val).runQ.erase (lvl, e) ∧ ids.length = lrGang r + 1 ∧
        ∀ k id, ids[k]? = some id → ∃ l regs, t.ctx id = { Ctx.idle id with
            phase := (t.ctx id).phase, launch := l, s := regs, pc := BitVec.ofNat 64 (l.share - l.code + l.entry),
            budget := bits r 192 48, refills := bits r 184 8 } ∧
          ((t.ctx id).phase = .waiting ∨ (t.ctx id).phase = .loading) ∧ l.image = lrImage r k ∧ l.rank = k ∧ l.index = e.index ∧
          l.walker = y.num ∧ l.inst = i.num ∧ l.asid = g.asid ∧ l.prio = y.prio ∧ l.members = ids ∧ l.share = s.shareOf p.val ∧
          ∀ n < 32, regs[n]? = some (BitVec.ofNat 64 (if n = 1 then i.args + bits r 64 64 else if n = 2 then e.index
            else if n = 9 then k else if 3 ≤ n ∧ n ≤ 8 then ((coord r e.index)[n - 3]?).getD 0 else 0)))) ∧
    (x.phase ≠ .loading ∨ s.isHeld (.overlay c) = true → idle (.overlayLoadDone c)) ∧
    (x.phase ≠ .waiting ∨ s.isHeld (.overlay c) = true → idle (.startWaitMet c)) ∧
    (∀ d m bytes m' w, x.phase = .loading → s.isHeld (.overlay c) = false → x.filled = 0 → 0 < x.launch.code →
      s.vGet tlbIo x.launch.asid x.launch.image 128 = (w, .ok (d, m)) →
      let va := bits (leNat (d.map Prod.fst)) 192 64
      va % 4096 + x.launch.code ≤ 4096 →
      w.vRead tlbIo x.launch.asid .fetch (pagesOf x.launch.code) va x.launch.code = (u, .ok (bytes, m')) →
      u.Canonical → u.regs = s.regs → u.cfg = s.cfg → ∃ t, exec (.overlayLoadDone c) s = .next t ∧ (t.ctx c).phase = .waiting ∧
        (t.ctx c).filled = x.launch.code ∧
        ∀ j < bytes.length, t.mem.read (s.slotBase c + x.launch.share - x.launch.code + j) = ((bytes[j]?).getD (0, false)).1) ∧
    (x.phase = .waiting → s.isHeld (.overlay c) = false →
      (s.startWaits c x.launch x.launch.waits = (u, false) → exec (.startWaitMet c) s = .next u) ∧
      (s.startWaits c x.launch x.launch.waits = (u, true) → x.launch.waits ≠ [] → ∃ t, exec (.startWaitMet c) s = .next t ∧
        t.mem = u.mem ∧ (t.ctx c).phase = .ready ∧ (t.ctx c).pc = (u.ctx c).pc)) ∧
    (x.phase = .waiting → s.isHeld (.overlay c) = false → x.launch.waits = [] → x.launch.gang = 0 →
      let due := x.launch.dispatchTime + 400 + (x.launch.recSize + 127) / 128 ≤ s.cycle
      (¬ due → idle (.startWaitMet c)) ∧
      (due → ∃ t, exec (.startWaitMet c) s = .next t ∧ t.mem = s.mem ∧ (t.ctx c).phase = .ready ∧ (t.ctx c).pc = x.pc)) ∧
    (s.retirable x = false → idle (.taskRetire c)) ∧
    (s.retirable x = true → (∀ q : QNo, (x.q[q]).kind = .unbound) → ∃ t, exec (.taskRetire c) s = .next t ∧
      t.ctx c = Ctx.idle c ∧
      (x.launch.code ≤ x.filled → (t.core c.core).lastImage.contains (c.slot, x.launch.image) = true)) ∧
    ((s.core core).slicing = false ∨ s.cycle < (s.core core).sliceEnd → idle (.sliceEnd core)) ∧
    (∀ k, (s.core core).slicing = true → (s.core core).sliceEnd ≤ s.cycle → s.runnable core = [k] → s.ctx k.id = k →
      ∃ t, exec (.sliceEnd core) s = .next t ∧ t.mem = s.mem ∧ (t.core core).slicing = false ∧
        let k' := t.ctx k.id
        (k.sliceRun = true → k'.sliceRun = false ∧ k'.launch = k.launch) ∧
        (k.sliceRun = false → k'.launch.prio = k.launch.prio ∧
          (k'.launch.passes, k'.launch.prom) = if k.launch.passes + 1 < 8 then (k.launch.passes + 1, k.launch.prom)
            else (0, if k.launch.prio + k.launch.prom < 7 then k.launch.prom + 1 else k.launch.prom))) ∧
    (s.mayPreempt p.val = none → idle (.preemptMark p)) ∧
    (∀ lvl e, s.mayPreempt p.val = some (lvl, e) →
      (s.victims p.val lvl e = none → ∃ t, exec (.preemptMark p) s = .next t ∧ (t.pol p.val).tried = true ∧ t.saves = s.saves ∧
        t.cur = s.cur ∧ t.mem = s.mem) ∧
      (∀ gs, s.victims p.val lvl e = some gs → (∀ g ∈ gs, ∃ i ∈ g, (s.ctx i).notStarted = false) →
        (s.freeRecords gs.flatten.length = none → ∃ t, exec (.preemptMark p) s = .next t ∧ (t.pol p.val).tried = true ∧
          bump s t 0x2130 ∧ t.saves = s.saves) ∧
        (∀ recs, s.freeRecords gs.flatten.length = some recs → ∃ t, exec (.preemptMark p) s = .next t ∧
          ((∀ i ∈ gs.flatten, (s.ctx i).notStarted = false) → t.mem = s.mem) ∧
          t.saves.map Save.num = s.saves.map Save.num ++ recs ∧
          ∀ i ∈ gs.flatten, (∃ r ∈ recs, (t.ctx i).victim = some r) ∧
            (t.ctx i).phase = if (s.ctx i).notStarted then .saving else (s.ctx i).phase)) ∧
      (∀ i n recs, s.victims p.val lvl e = some [[i]] → (s.ctx i).notStarted = true → s.freeRecords 1 = some recs →
        s.inst (s.ctx i).launch.inst = some n → n.status = 0 → ∃ t, exec (.preemptMark p) s = .next t ∧ t.saves = s.saves ∧
          t.mem = s.mem ∧ t.ctx i = Ctx.idle i ∧ (t.pol p.val).tried = true ∧ let l := (s.ctx i).launch
          (t.pol p.val).runQ = (l.prio, ⟨l.walker, l.index, none, l.inst, 0⟩) :: (s.pol p.val).runQ)) ∧
    (x.victim = none ∨ s.mayStop x = false → idle (.victimStop c)) ∧
    (∀ r, x.victim = some r → s.mayStop x = true → ∃ t, exec (.victimStop c) s = .next t ∧
      let y := t.ctx c
      y.phase = .saving ∧ y.victim = some r ∧ y.pc = x.pc ∧ y.s = x.s ∧ y.v = x.v ∧ (x.flags = [] → y.csr = x.csr) ∧
        (x.writes = [] → x.ep = [] → x.remote = [] → x.mq = [] → (∀ e ∈ x.engA, ∀ a k n, e.kind ≠ .look a k n) →
          y.undef.s = x.undef.s ∧ y.undef.v = x.undef.v ∧ y.undef.k = x.undef.k) ∧
        (∀ z ∈ x.writes, ∀ n v pz, n < 32 → (z.dest = .s n v pz → y.undef.s.getLsbD n = true)) ∧
        (∀ v ∈ t.saves, v.num = r → v.stopAt = s.cycle) ∧ y.barrier = none ∧ y.lease = .none ∧ ∀ e ∈ y.late, e.bound = none) ∧
    (s.maySave x = false → idle (.saveDone c)) ∧
    (∀ r, s.maySave x = true → x.launch.gang = 0 → x.victim = some r → x.launch.accs ≤ 4 →
      inTier1 (s.saveBase r + 4538367) = true → x.launch.recSize ≤ 4538368 → (∀ i, s.inst x.launch.inst = some i → i.status = 0) →
      ∃ t, exec (.saveDone c) s = .next t ∧ bump s t 0x2108 ∧
        (∀ n < 32, n ≠ 0 → x.undef.s.getLsbD n = false →
          t.tierNat .reeve (s.saveBase r + 0x100 + 8 * n) 8 = ((x.s[n]?).getD 0).toNat) ∧
        (∀ n < 16, x.undef.k.getLsbD n = false → t.tierNat .reeve (s.saveBase r + 0x300 + 8 * n) 8 = ((x.k[n]?).getD 0).toNat) ∧
        (∀ n < 32, x.undef.v.getLsbD n = false →
          t.tierNat .reeve (s.saveBase r + 0x1000 + 128 * n) 128 = ((x.v[n]?).getD 0).toNat) ∧
        (∀ n < 32, ∀ j, (x.undef.s.getLsbD n = true → j < 8 → inRanges t.undef (s.saveBase r + 0x100 + 8 * n + j) = true) ∧
          (x.undef.v.getLsbD n = true → j < 128 → inRanges t.undef (s.saveBase r + 0x1000 + 128 * n + j) = true) ∧
          (n < 16 → x.undef.k.getLsbD n = true → j < 8 → inRanges t.undef (s.saveBase r + 0x300 + 8 * n + j) = true)) ∧
        (s.inst x.launch.inst ≠ none → t.ctx c = Ctx.idle c)) ∧
    (s.resumeNext = none → idle .resumeEntryJoin) ∧
    (∀ e lvl q, s.resumeNext = some (e, lvl, q) → ∃ t, exec .resumeEntryJoin s = .next t ∧ t.mem = s.mem ∧ t.cur = s.cur ∧
      t.resumeWait = s.resumeWait.erase e ∧ (t.pol q).runQ = (s.pol q).runQ ++ [(lvl, e)] ∧ ∀ r, r ≠ q → t.pol r = s.pol r) ∧
    (∀ lvl e r ms id area l, headEntry (s.pol p.val) = some (lvl, e) → e.record = some r → s.recsOf e = [r] →
      s.entryMembers p.val e = some ms → s.savedLaunches e = [l] →
      (s.returning r = true → idle (.restore p)) ∧
      (s.recordOk [r] = true → s.placement p.val s.tasks ms = none → idle (.restore p)) ∧
      (s.placement p.val s.tasks ms = some ([id], area) → lineBad s.poison (s.saveBase r) 8192 = false → s.returning r = false → s.recordOk [r] = true → l.gang = 0 →
        ∃ t, exec (.restore p) s = .next t ∧ (t.pol p.val).runQ = (s.pol p.val).runQ.erase (lvl, e) ∧
          (∀ v ∈ t.saves, v ∈ s.saves ∧ v.num ≠ r) ∧
          let y := t.ctx id
          let word := fun (o n : Nat) => s.tierNat .reeve (s.saveBase r + o) n
          (y.phase = .waiting ∨ y.phase = .loading) ∧ y.pc = BitVec.ofNat 64 (word 8 8) ∧
          (∀ n < 32, y.s[n]? = some (BitVec.ofNat 64 (word (0x100 + 8 * n) 8))) ∧
          (∀ n < 16, y.k[n]? = some (BitVec.ofNat 64 (word (0x300 + 8 * n) 8))) ∧
          ∀ n < 32, y.v[n]? = some (BitVec.ofNat 1024 (word (0x1000 + 128 * n) 128))))

/-- R189 to R191, R198 to R200, R203, R207, R208, R226, R229, R325, R358 to R361, R364, R369, R370, R385, R389, R392, R406:
what happens in a core at its own time. Results and flags land at their bounds; a pending trap is entered; peer stores and
banks; a stall ends; leases are granted; a step reads its buffers and lands in its tile; loads, stores and streams move; a
completion object gains its count; descriptors are read. An event whose condition does not hold changes nothing. -/
def Obligations.CoreEvents : Prop :=
  ∀ (c : CtxId) (core seq : Nat) (pipe : Bool) (p : Fin 24) (q : QNo) (bank : Fin 4) (s u : State), s.Canonical →
    let x := s.ctx c
    let b := x.q[q]
    let idle := fun (i : Instr) => exec i s = .next s
    let quiet := u.cur = s.cur ∧ u.ctxs = s.ctxs ∧ u.cores = s.cores
    (∀ w, x.writes.filter (fun w => w.due ≤ s.cycle) = [w] → x.ep = [] → (∀ f ∈ x.flags, s.cycle < f.due) →
      ∃ t, exec (.resultLand c) s = .next t ∧
      let y := t.ctx c
      y.writes = x.writes.filter (fun w => s.cycle < w.due) ∧ y.pc = x.pc ∧ y.csr = x.csr ∧
      match w.dest with
      | .s n v pz => n < 32 → t.mem = s.mem ∧ (∀ k, y.s[k]? = if k = n then some v else x.s[k]?) ∧ y.spois.getLsbD n = pz ∧ y.v = x.v
      | .p n v => n < 8 → t.mem = s.mem ∧ (∀ k < 8, y.p.getLsbD k = if k = n then v else x.p.getLsbD k) ∧ y.s = x.s ∧ y.v = x.v
      | .m n v => n < 8 → t.mem = s.mem ∧ (∀ k, y.m[k]? = if k = n then some v else x.m[k]?) ∧ y.s = x.s ∧ y.v = x.v
      | .k n v => n < 16 → t.mem = s.mem ∧ (∀ k, y.k[k]? = if k = n then some v else x.k[k]?) ∧ y.s = x.s ∧ y.v = x.v
      | .v n v pz => n < 32 → t.mem = s.mem ∧ y.s = x.s ∧ (∀ k, k ≠ n → y.v[k]? = x.v[k]?) ∧
        ((x.csrs csrVgate).getLsbD (n / 8) = false → (x.wake[n / 8]?).getD 0 ≤ s.cycle →
          y.v[n]? = some v ∧ y.vpois.getLsbD n = pz)
      | .tile n v => n < 4 → t.mem = s.mem ∧ y.s = x.s ∧ (s.tileClash x n s.cycle = false → y.acc[n]? = some v)
      | .mem a bytes => y.s = x.s ∧ y.v = x.v ∧ (∀ k < bytes.length, t.mem.read (a + k) = (bytes[k]?).getD 0) ∧
        ∀ k, k < a ∨ a + bytes.length ≤ k → t.mem.read k = s.mem.read k
      | .stat _ _ => y.s = x.s ∧ y.v = x.v) ∧
    (∀ f, x.flags.filter (fun f => f.due ≤ s.cycle) = [f] → x.ep = [] → (∀ w ∈ x.writes, s.cycle < w.due) →
      ∃ t, exec (.resultLand c) s = .next t ∧ t.mem = s.mem ∧
      let y := t.ctx c
      y.s = x.s ∧ y.v = x.v ∧ y.csrs csrSticky = x.csrs csrSticky ||| (f.flags.setWidth 64 <<< (5 * f.slot)) ∧
      (s.feat 19 = true → (x.csrs csrFeInfo).getLsbD 0 = false → f.flags ≠ 0 → f.slot ≤ 5 → y.csrs csrFePc = f.pc ∧
        y.csrs csrFeInfo = 1 ||| BitVec.ofNat 64 (f.slot * 2) ||| (f.flags.setWidth 64 <<< 4))) ∧
    (x.trap = none → idle (.trapEntry c)) ∧
    (∀ k, x.trap = some k → exec (.trapEntry c) s = .next (if s.exposed x then s else (s.bringIn c).takeTrap k)) ∧
    ((∀ k ∈ s.peers, s.cycle < k.due) → idle .peerStoreLand) ∧
    (∀ k, s.peers.filter (fun k => k.due ≤ s.cycle) = [k] → (k.cells.map Prod.fst).Nodup → ∃ t, exec .peerStoreLand s = .next t ∧
      t.peers = s.peers.filter (fun k => s.cycle < k.due) ∧ (∀ y ∈ k.cells, t.mem.read y.1 = y.2) ∧
      (∀ a, a ∉ k.cells.map Prod.fst → t.mem.read a = s.mem.read a) ∧
      ∀ m, k.loose = true → k.mc = some m → ∀ a ∈ m.2, inRanges t.undef a = true) ∧
    (∃ t, exec (.bankWake c bank) s = .next t ∧ t.mem = s.mem ∧
      t.ctx c = if x.wake[bank] ≤ s.cycle then { x with wake := x.wake.set bank 0 } else x) ∧
    (∃ t, exec (.stallRelease c) s = .next t ∧ t.mem = s.mem ∧ (t.ctx c).stalled = false ∧ (t.ctx c).s = x.s ∧
      (t.ctx c).pc = x.pc ∧ ((s.core c.core).run.isSome = true → t.ctx c = { x with stalled := false } ∧ t.cores = s.cores)) ∧
    (s.mayGrant p.val = false → idle (.leaseGrant p)) ∧
    (∀ i n rest, s.mayGrant p.val = true → (s.pol p.val).leaseQ = (i, n) :: rest → ∃ t, exec (.leaseGrant p) s = .next t ∧
      t.mem = s.mem ∧ (t.pol p.val).holder = some i ∧ (t.pol p.val).leaseQ = rest ∧ t.ctx i = { s.ctx i with lease := .held }) ∧
    (s.nextStep p.val = none → idle (.stepEnter p)) ∧
    (∀ k m a b ta tb okA okB, s.nextStep p.val = some (k, m) → m.kind = .step a b ta tb okA okB →
      let more := if ta = .i16 ∧ tb = .i16 then 1 else 0
      ∃ t e, exec (.stepEnter p) s = .next t ∧ t.mem = s.mem ∧ (t.pol p.val).arr = (s.pol p.val).arr ++ [e] ∧
        (t.pol p.val).freeAt = s.cycle + more + 1 ∧ e.ctx = k.id ∧ e.tile = m.tile ∧ e.due = s.cycle + more + 6 ∧
        (t.ctx k.id).mq = (s.ctx k.id).mq.filter (fun y => y.seq != m.seq) ∧ (t.ctx k.id).acc = (s.ctx k.id).acc ∧
        (okA = true → okB = true → (s.collector k.id.core false a).urow = 0 → (s.collector k.id.core false a).ucol = 0 →
          (s.collector k.id.core true b).urow = 0 → (s.collector k.id.core true b).ucol = 0 → ∀ i < 64, ∀ j < 64, ((e.sums[i]?).getD [])[j]? = some (((List.range (kMax ta)).map fun n =>
          ((s.collector k.id.core false a).feed i n).1 * ((s.collector k.id.core true b).feed j n).1).sum))) ∧
    ((∀ a ∈ (s.pol p.val).arr, s.cycle < a.due) → idle (.stepLand p)) ∧
    (∀ a, (s.pol p.val).arr.filter (fun a => a.due ≤ s.cycle) = [a] → (s.ctx a.ctx).mq = [] → a.tile < 4 →
      (s.ctx a.ctx).tileUndef a.tile a.issued = false → (s.ctx a.ctx).altFor a.tile a.issued = none → ∃ t, exec (.stepLand p) s = .next t ∧ t.mem = s.mem ∧
        let old := ((s.ctx a.ctx).acc[a.tile]?).getD Tile.zero
        let new := ((t.ctx a.ctx).acc[a.tile]?).getD Tile.zero
        new.steps = old.steps + 1 ∧ new.poison = (old.poison || a.poison) ∧
        (∀ n, n ≠ a.tile → (t.ctx a.ctx).acc[n]? = (s.ctx a.ctx).acc[n]?) ∧ ∀ i < 64, ∀ j < 64,
          new.at_ i j = nearest .i32 (old.at_ i j + (((a.sums[i]?).bind fun r => r[j]?).getD 0))) ∧
    (s.loadReady core pipe = none → idle (.loadPipeComplete core pipe)) ∧
    (∀ l, s.loadReady core pipe = some l → (s.pipeOf core pipe).q = [l] →
      let buf := fun (t : State) => (t.pipeOf core pipe).q = []
      let r := l.row
      let n := encBits (spEnc l.spec) (spKlen l.spec)
      (∀ t₀ f, l.fill = some (t₀, f) → ∃ t, exec (.loadPipeComplete core pipe) s = .next t ∧ t.mem = s.mem ∧ buf t ∧
        (t.collector core pipe l.buf).fill = some t₀ ∧ (t.collector core pipe l.buf).rpois = 0 ∧
        ∀ i < 64, (t.collector core pipe l.buf).rows[i]? = some (BitVec.ofNat 768 (fillRow t₀ f i))) ∧
      (l.fill = none → l.bad = true → ∃ t, exec (.loadPipeComplete core pipe) s = .next t ∧ t.mem = s.mem ∧ buf t ∧
        (t.collector core pipe l.buf).rpois = BitVec.allOnes 64) ∧
      (l.fill = none → l.bad = false → spLayout l.spec ≠ 1 → spLayout l.spec ≠ 3 → r + 1 = spRows l.spec → r < 64 → n ≤ 768 →
        (loadRowAt l.spec r = none → ∃ t, exec (.loadPipeComplete core pipe) s = .next t ∧ t.mem = s.mem ∧ buf t ∧
          (t.collector core pipe l.buf).rows[r]? = some 0) ∧
        ∀ a bytes m, loadRowAt l.spec r = some a →
          s.eRead l.ctx (l.racy ++ (s.ctx l.ctx).racing l.issued l.waits) a (encBytes (spEnc l.spec) (spKlen l.spec)) =
            (u, .ok (bytes, m)) → quiet → ∃ t, exec (.loadPipeComplete core pipe) s = .next t ∧ t.mem = u.mem ∧ buf t ∧
          (t.collector core pipe l.buf).rpois.getLsbD r = m.poison ∧ ∃ row, (t.collector core pipe l.buf).rows[r]? = some row ∧
            row.toNat % 2 ^ n = leNat (bytes.map Prod.fst) % 2 ^ n)) ∧
    (s.storeReady core = none → idle (.storePathDone core)) ∧
    (∀ y, s.storeReady core = some y → (s.core core).store = [y] → (s.ctx y.ctx).mq = [] → y.descDue = false → spDv y.spec = false →
      (y.load = true → y.count ≤ y.row → y.tile < 4 → (s.ctx y.ctx).tileUndef y.tile y.issued = false →
        (s.ctx y.ctx).altFor y.tile y.issued = none → ∃ t, exec (.storePathDone core) s = .next t ∧ t.mem = s.mem ∧ (t.core core).store = [] ∧
          (t.ctx y.ctx).acc[y.tile]? = some y.tileOf) ∧
      (∀ m, y.load = false → y.row + 1 = y.count →
        let a := storeRowAt y.spec y.row
        let bytes := ((y.rows[y.row]?).getD []).map fun b => (b, false)
        s.eWrite y.ctx (y.racy ++ (s.ctx y.ctx).racing y.issued y.waits) a.a bytes.length a bytes = (u, .ok m) → quiet →
        u.cycle = s.cycle → u.xlt.held = s.xlt.held → (u.storeReady core).isSome = true → ∃ t, exec (.storePathDone core) s = .next t ∧
          t.mem = u.mem ∧ (t.core core).store = [] ∧ (t.ctx y.ctx).s = (s.ctx y.ctx).s)) ∧
    (s.opOf c seq = none → idle (.culvertCompletionUpdate c seq) ∧ idle (.sendDescriptorRead c seq)) ∧
    (∀ e, s.opOf c seq = some e →
      (e.phase ≠ .updating ∨ x.behindC0 e = true → idle (.culvertCompletionUpdate c seq)) ∧
      (e.phase = .updating → s.isHeld (.eng c seq) = false → e.start ≤ s.cycle → x.behindC0 e = false → e.owes = none →
        let add := match e.kind with
          | .csig a d => (a.toNat, d.toNat)
          | _ => (1, e.status.toNat)
        let gone := fun (t : State) => (t.ctx c).ops = x.ops.filter fun y => y.seq != seq
        (e.done = none → ∃ t, exec (.culvertCompletionUpdate c seq) s = .next t ∧ t.mem = s.mem ∧ gone t) ∧
        (∀ a, e.done = some a → s.objUpdate c (e.racy ++ x.racing e.issued e.waits) a add.1 add.2 = (u, none) → quiet →
          ∃ t, exec (.culvertCompletionUpdate c seq) s = .next t ∧ t.mem = u.mem ∧ gone t ∧ (t.ctx c).s = x.s)) ∧
      (∀ va l m, e.kind = .frts va → s.opReady x e = true → s.eRead c [] ⟨.virt, va.toNat⟩ 64 = (u, .ok (l, m)) → quiet →
        u.slu = s.slu → u.regs = s.regs → u.fab = s.fab →
        let d := BitVec.ofNat 512 (leNat (l.map Prod.fst))
        ((∀ y ∈ s.slu.sends, ¬ (y.owner = c ∧ y.st = .reading ∧ y.seq = seq)) → ∃ t, exec (.sendDescriptorRead c seq) s = .next t ∧
          t.mem = u.mem ∧ (t.ctx c).ops = x.ops.filter fun y => y.seq != seq) ∧
        (∀ y, s.slu.sends = [y] → y.owner = c → y.st = .reading → y.seq = seq → (∀ b ∈ l, b.2 = false) → (s.slEnabled = false ∨ sendBad d = true) →
          ∃ t, exec (.sendDescriptorRead c seq) s = .next t ∧ t.slu.sends = [] ∧
            t.mem = (u.objTry tlbIo y.asid (sendLdone d) (if s.slEnabled then 2 ^ 12 else 2 ^ 10)).mem))) ∧
    (s.streamReady x q = false → idle (.streamFill c q) ∧ idle (.streamEntryWrite c q)) ∧
    (s.streamReady x q = true → b.pipe = false →
      (∀ l m, b.kind = .read → b.entries.length < 8 → b.token = false → b.fetched < b.count →
        s.getRuns c (b.unseen (b.racy ++ (x.recent.filter fun r => b.since ≤ r.2.2.1).map fun r => (r.1, r.2.1))) (patAt b.pat.toNat)
          (min ((b.fetched + 1) * b.eBytes) (patTotal b.pat.toNat)) 257 (b.fetched * b.eBytes) = (u, .ok (l, m)) → quiet →
        ∃ t e, exec (.streamFill c q) s = .next t ∧ t.mem = u.mem ∧ (t.ctx c).s = x.s ∧ ((t.ctx c).q[q]).fetched = b.fetched + 1 ∧
          ((t.ctx c).q[q]).entries = b.entries ++ [e] ∧ e.data = BitVec.ofNat 1024 (leNat (l.map Prod.fst)) ∧
          e.poison = l.any Prod.snd ∧ (b.count ≤ b.fetched + 1 → ((t.ctx c).q[q]).updated = true)) ∧
      (∀ e rest m, b.kind = .write → x.closingPipe b = false → b.entries = e :: rest → e.ready ≤ s.cycle → b.ended = false →
        b.pos + 1 < b.count → s.putRuns c (b.racy ++ e.racy ++ x.racing e.pushed b.waits) (patAt b.pat.toNat) 257
          (b.pos * b.eBytes) (((leBytes e.data.toNat b.eBytes).map fun y => (y, e.poison)).take
            (patTotal b.pat.toNat - b.pos * b.eBytes)) = (u, .ok m) → quiet →
        ∃ t, exec (.streamEntryWrite c q) s = .next t ∧ t.mem = u.mem ∧ ((t.ctx c).q[q]).entries = rest ∧
          ((t.ctx c).q[q]).pos = b.pos + 1 ∧ (t.ctx c).s = x.s)) ∧
    (x.cdescOp q = none → idle (.cdescReadDone c q)) ∧
    (∀ e a l m, x.cdescOp q = some e → e.kind = .cdesc q a → s.opReady x e = true → x.dr[q] = .reading e.seq → b.pend = none →
      s.eRead c (e.racy ++ x.racing (e.start - 1) e.waits) a 128 = (u, .ok (l, m)) → quiet →
      ∃ t, exec (.cdescReadDone c q) s = .next t ∧ t.mem = u.mem ∧ (t.ctx c).s = x.s ∧
        (t.ctx c).dr[q] = if m.poison then .failed 2#18 else .loaded (BitVec.ofNat 1024 (leNat (l.map Prod.fst))))
end

