-- ==== Sys2Proof/Laws/State.lean ====
section
/-! SUPPORT. What each update of the state leaves in each field. -/

namespace Sys2Proof.Machine

/-! ### The context in the issue stage -/

@[simp] theorem State.setCur_cur (s : State) (f : Ctx → Ctx) : (s.setCur f).cur = f s.cur := rfl
@[simp] theorem State.setCur_ctxs (s : State) (f : Ctx → Ctx) : (s.setCur f).ctxs = s.ctxs := rfl
@[simp] theorem State.setCur_cores (s : State) (f : Ctx → Ctx) : (s.setCur f).cores = s.cores := rfl
@[simp] theorem State.setCur_pols (s : State) (f : Ctx → Ctx) : (s.setCur f).pols = s.pols := rfl
@[simp] theorem State.setCur_mem (s : State) (f : Ctx → Ctx) : (s.setCur f).mem = s.mem := rfl
@[simp] theorem State.setCur_undef (s : State) (f : Ctx → Ctx) : (s.setCur f).undef = s.undef := rfl
@[simp] theorem State.setCur_poison (s : State) (f : Ctx → Ctx) : (s.setCur f).poison = s.poison := rfl
@[simp] theorem State.setCur_lineKeys (s : State) (f : Ctx → Ctx) : (s.setCur f).lineKeys = s.lineKeys := rfl
@[simp] theorem State.setCur_regs (s : State) (f : Ctx → Ctx) : (s.setCur f).regs = s.regs := rfl
@[simp] theorem State.setCur_keys (s : State) (f : Ctx → Ctx) : (s.setCur f).keys = s.keys := rfl
@[simp] theorem State.setCur_cycle (s : State) (f : Ctx → Ctx) : (s.setCur f).cycle = s.cycle := rfl
@[simp] theorem State.setCur_ftime (s : State) (f : Ctx → Ctx) : (s.setCur f).ftime = s.ftime := rfl
@[simp] theorem State.setCur_phase (s : State) (f : Ctx → Ctx) : (s.setCur f).phase = s.phase := rfl
@[simp] theorem State.setCur_clock (s : State) (f : Ctx → Ctx) : (s.setCur f).clock = s.clock := rfl
@[simp] theorem State.setCur_peers (s : State) (f : Ctx → Ctx) : (s.setCur f).peers = s.peers := rfl
@[simp] theorem State.setCur_landedNow (s : State) (f : Ctx → Ctx) : (s.setCur f).landedNow = s.landedNow := rfl
@[simp] theorem State.setCur_xlt (s : State) (f : Ctx → Ctx) : (s.setCur f).xlt = s.xlt := rfl
@[simp] theorem State.setCur_fab (s : State) (f : Ctx → Ctx) : (s.setCur f).fab = s.fab := rfl
@[simp] theorem State.setCur_slu (s : State) (f : Ctx → Ctx) : (s.setCur f).slu = s.slu := rfl
@[simp] theorem State.setCur_colls (s : State) (f : Ctx → Ctx) : (s.setCur f).colls = s.colls := rfl
@[simp] theorem State.setCur_reeveK (s : State) (f : Ctx → Ctx) : (s.setCur f).reeveK = s.reeveK := rfl
@[simp] theorem State.setCur_inputs (s : State) (f : Ctx → Ctx) : (s.setCur f).inputs = s.inputs := rfl
@[simp] theorem State.setCur_tx (s : State) (f : Ctx → Ctx) : (s.setCur f).tx = s.tx := rfl
@[simp] theorem State.setCur_txBeacons (s : State) (f : Ctx → Ctx) : (s.setCur f).txBeacons = s.txBeacons := rfl
@[simp] theorem State.setCur_irq (s : State) (f : Ctx → Ctx) : (s.setCur f).irq = s.irq := rfl
@[simp] theorem State.setCur_hostRd (s : State) (f : Ctx → Ctx) : (s.setCur f).hostRd = s.hostRd := rfl
@[simp] theorem State.setCur_flash (s : State) (f : Ctx → Ctx) : (s.setCur f).flash = s.flash := rfl
@[simp] theorem State.setCur_cfg (s : State) (f : Ctx → Ctx) : (s.setCur f).cfg = s.cfg := rfl
@[simp] theorem State.setCur_fw (s : State) (f : Ctx → Ctx) : (s.setCur f).fw = s.fw := rfl
@[simp] theorem State.setCur_hcmd (s : State) (f : Ctx → Ctx) : (s.setCur f).hcmd = s.hcmd := rfl
@[simp] theorem State.setCur_graphs (s : State) (f : Ctx → Ctx) : (s.setCur f).graphs = s.graphs := rfl
@[simp] theorem State.setCur_insts (s : State) (f : Ctx → Ctx) : (s.setCur f).insts = s.insts := rfl
@[simp] theorem State.setCur_obsCtr (s : State) (f : Ctx → Ctx) : (s.setCur f).obsCtr = s.obsCtr := rfl
@[simp] theorem State.setCur_lineLast (s : State) (f : Ctx → Ctx) : (s.setCur f).lineLast = s.lineLast := rfl
@[simp] theorem State.setCur_walkers (s : State) (f : Ctx → Ctx) : (s.setCur f).walkers = s.walkers := rfl
@[simp] theorem State.setCur_saves (s : State) (f : Ctx → Ctx) : (s.setCur f).saves = s.saves := rfl
@[simp] theorem State.setCur_resumeWait (s : State) (f : Ctx → Ctx) : (s.setCur f).resumeWait = s.resumeWait := rfl
@[simp] theorem State.setCur_splitQ (s : State) (f : Ctx → Ctx) : (s.setCur f).splitQ = s.splitQ := rfl
@[simp] theorem State.setCur_splitAt (s : State) (f : Ctx → Ctx) : (s.setCur f).splitAt = s.splitAt := rfl
@[simp] theorem State.setCur_obsLast (s : State) (f : Ctx → Ctx) : (s.setCur f).obsLast = s.obsLast := rfl
@[simp] theorem State.setCur_join (s : State) (f : Ctx → Ctx) : (s.setCur f).join = s.join := rfl
@[simp] theorem State.setCur_reuse (s : State) (f : Ctx → Ctx) : (s.setCur f).reuse = s.reuse := rfl
@[simp] theorem State.setCur_orphans (s : State) (f : Ctx → Ctx) : (s.setCur f).orphans = s.orphans := rfl
@[simp] theorem State.setCur_lqs (s : State) (f : Ctx → Ctx) : (s.setCur f).lqs = s.lqs := rfl
@[simp] theorem State.setCur_hot (s : State) (f : Ctx → Ctx) : (s.setCur f).hot = s.hot := rfl
@[simp] theorem State.setCur_coolSince (s : State) (f : Ctx → Ctx) : (s.setCur f).coolSince = s.coolSince := rfl
@[simp] theorem State.setCur_fatal (s : State) (f : Ctx → Ctx) : (s.setCur f).fatal = s.fatal := rfl
@[simp] theorem State.setCur_fatalAt (s : State) (f : Ctx → Ctx) : (s.setCur f).fatalAt = s.fatalAt := rfl
@[simp] theorem State.setCur_tripped (s : State) (f : Ctx → Ctx) : (s.setCur f).tripped = s.tripped := rfl
@[simp] theorem State.setCur_reeveRun (s : State) (f : Ctx → Ctx) : (s.setCur f).reeveRun = s.reeveRun := rfl
@[simp] theorem State.setCur_hostLink (s : State) (f : Ctx → Ctx) : (s.setCur f).hostLink = s.hostLink := rfl
@[simp] theorem State.setCur_slotNow (s : State) (f : Ctx → Ctx) : (s.setCur f).slotNow = s.slotNow := rfl
@[simp] theorem State.setCur_issueMem (s : State) (f : Ctx → Ctx) : (s.setCur f).issueMem = s.issueMem := rfl
@[simp] theorem State.setCur_issueCur (s : State) (f : Ctx → Ctx) : (s.setCur f).issueCur = s.issueCur := rfl
@[simp] theorem State.setCur_raised (s : State) (f : Ctx → Ctx) : (s.setCur f).raised = s.raised := rfl
@[simp] theorem State.setCur_freeCtr (s : State) (f : Ctx → Ctx) : (s.setCur f).freeCtr = s.freeCtr := rfl

/-! ### Device registers -/

@[simp] theorem State.setReg_cur (s : State) (o v : Nat) : (s.setReg o v).cur = s.cur := rfl
@[simp] theorem State.setReg_ctxs (s : State) (o v : Nat) : (s.setReg o v).ctxs = s.ctxs := rfl
@[simp] theorem State.setReg_cores (s : State) (o v : Nat) : (s.setReg o v).cores = s.cores := rfl
@[simp] theorem State.setReg_pols (s : State) (o v : Nat) : (s.setReg o v).pols = s.pols := rfl
@[simp] theorem State.setReg_mem (s : State) (o v : Nat) : (s.setReg o v).mem = s.mem := rfl
@[simp] theorem State.setReg_undef (s : State) (o v : Nat) : (s.setReg o v).undef = s.undef := rfl
@[simp] theorem State.setReg_poison (s : State) (o v : Nat) : (s.setReg o v).poison = s.poison := rfl
@[simp] theorem State.setReg_lineKeys (s : State) (o v : Nat) : (s.setReg o v).lineKeys = s.lineKeys := rfl
@[simp] theorem State.setReg_regs (s : State) (o v : Nat) : (s.setReg o v).regs = s.regs.put o v (regReset o) := rfl
@[simp] theorem State.setReg_keys (s : State) (o v : Nat) : (s.setReg o v).keys = s.keys := rfl
@[simp] theorem State.setReg_cycle (s : State) (o v : Nat) : (s.setReg o v).cycle = s.cycle := rfl
@[simp] theorem State.setReg_ftime (s : State) (o v : Nat) : (s.setReg o v).ftime = s.ftime := rfl
@[simp] theorem State.setReg_phase (s : State) (o v : Nat) : (s.setReg o v).phase = s.phase := rfl
@[simp] theorem State.setReg_clock (s : State) (o v : Nat) : (s.setReg o v).clock = s.clock := rfl
@[simp] theorem State.setReg_peers (s : State) (o v : Nat) : (s.setReg o v).peers = s.peers := rfl
@[simp] theorem State.setReg_landedNow (s : State) (o v : Nat) : (s.setReg o v).landedNow = s.landedNow := rfl
@[simp] theorem State.setReg_xlt (s : State) (o v : Nat) : (s.setReg o v).xlt = s.xlt := rfl
@[simp] theorem State.setReg_fab (s : State) (o v : Nat) : (s.setReg o v).fab = s.fab := rfl
@[simp] theorem State.setReg_slu (s : State) (o v : Nat) : (s.setReg o v).slu = s.slu := rfl
@[simp] theorem State.setReg_colls (s : State) (o v : Nat) : (s.setReg o v).colls = s.colls := rfl
@[simp] theorem State.setReg_reeveK (s : State) (o v : Nat) : (s.setReg o v).reeveK = s.reeveK := rfl
@[simp] theorem State.setReg_inputs (s : State) (o v : Nat) : (s.setReg o v).inputs = s.inputs := rfl
@[simp] theorem State.setReg_tx (s : State) (o v : Nat) : (s.setReg o v).tx = s.tx := rfl
@[simp] theorem State.setReg_txBeacons (s : State) (o v : Nat) : (s.setReg o v).txBeacons = s.txBeacons := rfl
@[simp] theorem State.setReg_irq (s : State) (o v : Nat) : (s.setReg o v).irq = s.irq := rfl
@[simp] theorem State.setReg_hostRd (s : State) (o v : Nat) : (s.setReg o v).hostRd = s.hostRd := rfl
@[simp] theorem State.setReg_flash (s : State) (o v : Nat) : (s.setReg o v).flash = s.flash := rfl
@[simp] theorem State.setReg_cfg (s : State) (o v : Nat) : (s.setReg o v).cfg = s.cfg := rfl
@[simp] theorem State.setReg_fw (s : State) (o v : Nat) : (s.setReg o v).fw = s.fw := rfl
@[simp] theorem State.setReg_hcmd (s : State) (o v : Nat) : (s.setReg o v).hcmd = s.hcmd := rfl
@[simp] theorem State.setReg_graphs (s : State) (o v : Nat) : (s.setReg o v).graphs = s.graphs := rfl
@[simp] theorem State.setReg_insts (s : State) (o v : Nat) : (s.setReg o v).insts = s.insts := rfl
@[simp] theorem State.setReg_obsCtr (s : State) (o v : Nat) : (s.setReg o v).obsCtr = s.obsCtr := rfl
@[simp] theorem State.setReg_lineLast (s : State) (o v : Nat) : (s.setReg o v).lineLast = s.lineLast := rfl
@[simp] theorem State.setReg_walkers (s : State) (o v : Nat) : (s.setReg o v).walkers = s.walkers := rfl
@[simp] theorem State.setReg_saves (s : State) (o v : Nat) : (s.setReg o v).saves = s.saves := rfl
@[simp] theorem State.setReg_resumeWait (s : State) (o v : Nat) : (s.setReg o v).resumeWait = s.resumeWait := rfl
@[simp] theorem State.setReg_splitQ (s : State) (o v : Nat) : (s.setReg o v).splitQ = s.splitQ := rfl
@[simp] theorem State.setReg_splitAt (s : State) (o v : Nat) : (s.setReg o v).splitAt = s.splitAt := rfl
@[simp] theorem State.setReg_obsLast (s : State) (o v : Nat) : (s.setReg o v).obsLast = s.obsLast := rfl
@[simp] theorem State.setReg_join (s : State) (o v : Nat) : (s.setReg o v).join = s.join := rfl
@[simp] theorem State.setReg_reuse (s : State) (o v : Nat) : (s.setReg o v).reuse = s.reuse := rfl
@[simp] theorem State.setReg_orphans (s : State) (o v : Nat) : (s.setReg o v).orphans = s.orphans := rfl
@[simp] theorem State.setReg_lqs (s : State) (o v : Nat) : (s.setReg o v).lqs = s.lqs := rfl
@[simp] theorem State.setReg_hot (s : State) (o v : Nat) : (s.setReg o v).hot = s.hot := rfl
@[simp] theorem State.setReg_coolSince (s : State) (o v : Nat) : (s.setReg o v).coolSince = s.coolSince := rfl
@[simp] theorem State.setReg_fatal (s : State) (o v : Nat) : (s.setReg o v).fatal = s.fatal := rfl
@[simp] theorem State.setReg_fatalAt (s : State) (o v : Nat) : (s.setReg o v).fatalAt = s.fatalAt := rfl
@[simp] theorem State.setReg_tripped (s : State) (o v : Nat) : (s.setReg o v).tripped = s.tripped := rfl
@[simp] theorem State.setReg_reeveRun (s : State) (o v : Nat) : (s.setReg o v).reeveRun = s.reeveRun := rfl
@[simp] theorem State.setReg_hostLink (s : State) (o v : Nat) : (s.setReg o v).hostLink = s.hostLink := rfl
@[simp] theorem State.setReg_slotNow (s : State) (o v : Nat) : (s.setReg o v).slotNow = s.slotNow := rfl
@[simp] theorem State.setReg_issueMem (s : State) (o v : Nat) : (s.setReg o v).issueMem = s.issueMem := rfl
@[simp] theorem State.setReg_issueCur (s : State) (o v : Nat) : (s.setReg o v).issueCur = s.issueCur := rfl
@[simp] theorem State.setReg_raised (s : State) (o v : Nat) : (s.setReg o v).raised = s.raised := rfl
@[simp] theorem State.setReg_freeCtr (s : State) (o v : Nat) : (s.setReg o v).freeCtr = s.freeCtr := rfl

/-! ### Private SRAM, the boezem and host memory -/

@[simp] theorem State.poke_cur (s : State) (a : Nat) (b : List Byte) : (s.poke a b).cur = s.cur := rfl
@[simp] theorem State.poke_ctxs (s : State) (a : Nat) (b : List Byte) : (s.poke a b).ctxs = s.ctxs := rfl
@[simp] theorem State.poke_cores (s : State) (a : Nat) (b : List Byte) : (s.poke a b).cores = s.cores := rfl
@[simp] theorem State.poke_pols (s : State) (a : Nat) (b : List Byte) : (s.poke a b).pols = s.pols := rfl
@[simp] theorem State.poke_mem (s : State) (a : Nat) (b : List Byte) : (s.poke a b).mem = s.mem.writeList a b := rfl
@[simp] theorem State.poke_undef (s : State) (a : Nat) (b : List Byte) : (s.poke a b).undef = cutRange s.undef a (a + b.length) := rfl
@[simp] theorem State.poke_poison (s : State) (a : Nat) (b : List Byte) : (s.poke a b).poison = s.poison.filter fun w => !(a ≤ w * 8 && w * 8 + 8 ≤ a + b.length) := rfl
@[simp] theorem State.poke_lineKeys (s : State) (a : Nat) (b : List Byte) : (s.poke a b).lineKeys = s.lineKeys := rfl
@[simp] theorem State.poke_regs (s : State) (a : Nat) (b : List Byte) : (s.poke a b).regs = s.regs := rfl
@[simp] theorem State.poke_keys (s : State) (a : Nat) (b : List Byte) : (s.poke a b).keys = s.keys := rfl
@[simp] theorem State.poke_cycle (s : State) (a : Nat) (b : List Byte) : (s.poke a b).cycle = s.cycle := rfl
@[simp] theorem State.poke_ftime (s : State) (a : Nat) (b : List Byte) : (s.poke a b).ftime = s.ftime := rfl
@[simp] theorem State.poke_phase (s : State) (a : Nat) (b : List Byte) : (s.poke a b).phase = s.phase := rfl
@[simp] theorem State.poke_clock (s : State) (a : Nat) (b : List Byte) : (s.poke a b).clock = s.clock := rfl
@[simp] theorem State.poke_peers (s : State) (a : Nat) (b : List Byte) : (s.poke a b).peers = s.peers := rfl
@[simp] theorem State.poke_landedNow (s : State) (a : Nat) (b : List Byte) : (s.poke a b).landedNow = s.landedNow := rfl
@[simp] theorem State.poke_xlt (s : State) (a : Nat) (b : List Byte) : (s.poke a b).xlt = s.xlt := rfl
@[simp] theorem State.poke_fab (s : State) (a : Nat) (b : List Byte) : (s.poke a b).fab = s.fab := rfl
@[simp] theorem State.poke_slu (s : State) (a : Nat) (b : List Byte) : (s.poke a b).slu = s.slu := rfl
@[simp] theorem State.poke_colls (s : State) (a : Nat) (b : List Byte) : (s.poke a b).colls = s.colls := rfl
@[simp] theorem State.poke_reeveK (s : State) (a : Nat) (b : List Byte) : (s.poke a b).reeveK = s.reeveK := rfl
@[simp] theorem State.poke_inputs (s : State) (a : Nat) (b : List Byte) : (s.poke a b).inputs = s.inputs := rfl
@[simp] theorem State.poke_tx (s : State) (a : Nat) (b : List Byte) : (s.poke a b).tx = s.tx := rfl
@[simp] theorem State.poke_txBeacons (s : State) (a : Nat) (b : List Byte) : (s.poke a b).txBeacons = s.txBeacons := rfl
@[simp] theorem State.poke_irq (s : State) (a : Nat) (b : List Byte) : (s.poke a b).irq = s.irq := rfl
@[simp] theorem State.poke_hostRd (s : State) (a : Nat) (b : List Byte) : (s.poke a b).hostRd = s.hostRd := rfl
@[simp] theorem State.poke_flash (s : State) (a : Nat) (b : List Byte) : (s.poke a b).flash = s.flash := rfl
@[simp] theorem State.poke_cfg (s : State) (a : Nat) (b : List Byte) : (s.poke a b).cfg = s.cfg := rfl
@[simp] theorem State.poke_fw (s : State) (a : Nat) (b : List Byte) : (s.poke a b).fw = s.fw := rfl
@[simp] theorem State.poke_hcmd (s : State) (a : Nat) (b : List Byte) : (s.poke a b).hcmd = s.hcmd := rfl
@[simp] theorem State.poke_graphs (s : State) (a : Nat) (b : List Byte) : (s.poke a b).graphs = s.graphs := rfl
@[simp] theorem State.poke_insts (s : State) (a : Nat) (b : List Byte) : (s.poke a b).insts = s.insts := rfl
@[simp] theorem State.poke_obsCtr (s : State) (a : Nat) (b : List Byte) : (s.poke a b).obsCtr = s.obsCtr := rfl
@[simp] theorem State.poke_lineLast (s : State) (a : Nat) (b : List Byte) : (s.poke a b).lineLast = s.lineLast := rfl
@[simp] theorem State.poke_walkers (s : State) (a : Nat) (b : List Byte) : (s.poke a b).walkers = s.walkers := rfl
@[simp] theorem State.poke_saves (s : State) (a : Nat) (b : List Byte) : (s.poke a b).saves = s.saves := rfl
@[simp] theorem State.poke_resumeWait (s : State) (a : Nat) (b : List Byte) : (s.poke a b).resumeWait = s.resumeWait := rfl
@[simp] theorem State.poke_splitQ (s : State) (a : Nat) (b : List Byte) : (s.poke a b).splitQ = s.splitQ := rfl
@[simp] theorem State.poke_splitAt (s : State) (a : Nat) (b : List Byte) : (s.poke a b).splitAt = s.splitAt := rfl
@[simp] theorem State.poke_obsLast (s : State) (a : Nat) (b : List Byte) : (s.poke a b).obsLast = s.obsLast := rfl
@[simp] theorem State.poke_join (s : State) (a : Nat) (b : List Byte) : (s.poke a b).join = s.join := rfl
@[simp] theorem State.poke_reuse (s : State) (a : Nat) (b : List Byte) : (s.poke a b).reuse = s.reuse := rfl
@[simp] theorem State.poke_orphans (s : State) (a : Nat) (b : List Byte) : (s.poke a b).orphans = s.orphans := rfl
@[simp] theorem State.poke_lqs (s : State) (a : Nat) (b : List Byte) : (s.poke a b).lqs = s.lqs := rfl
@[simp] theorem State.poke_hot (s : State) (a : Nat) (b : List Byte) : (s.poke a b).hot = s.hot := rfl
@[simp] theorem State.poke_coolSince (s : State) (a : Nat) (b : List Byte) : (s.poke a b).coolSince = s.coolSince := rfl
@[simp] theorem State.poke_fatal (s : State) (a : Nat) (b : List Byte) : (s.poke a b).fatal = s.fatal := rfl
@[simp] theorem State.poke_fatalAt (s : State) (a : Nat) (b : List Byte) : (s.poke a b).fatalAt = s.fatalAt := rfl
@[simp] theorem State.poke_tripped (s : State) (a : Nat) (b : List Byte) : (s.poke a b).tripped = s.tripped := rfl
@[simp] theorem State.poke_reeveRun (s : State) (a : Nat) (b : List Byte) : (s.poke a b).reeveRun = s.reeveRun := rfl
@[simp] theorem State.poke_hostLink (s : State) (a : Nat) (b : List Byte) : (s.poke a b).hostLink = s.hostLink := rfl
@[simp] theorem State.poke_slotNow (s : State) (a : Nat) (b : List Byte) : (s.poke a b).slotNow = s.slotNow := rfl
@[simp] theorem State.poke_issueMem (s : State) (a : Nat) (b : List Byte) : (s.poke a b).issueMem = s.issueMem := rfl
@[simp] theorem State.poke_issueCur (s : State) (a : Nat) (b : List Byte) : (s.poke a b).issueCur = s.issueCur := rfl
@[simp] theorem State.poke_raised (s : State) (a : Nat) (b : List Byte) : (s.poke a b).raised = s.raised := rfl
@[simp] theorem State.poke_freeCtr (s : State) (a : Nat) (b : List Byte) : (s.poke a b).freeCtr = s.freeCtr := rfl

@[simp] theorem State.hostWrite_cur (s : State) (a : Nat) (b : List Byte) : (s.hostWrite a b).cur = s.cur := rfl
@[simp] theorem State.hostWrite_ctxs (s : State) (a : Nat) (b : List Byte) : (s.hostWrite a b).ctxs = s.ctxs := rfl
@[simp] theorem State.hostWrite_cores (s : State) (a : Nat) (b : List Byte) : (s.hostWrite a b).cores = s.cores := rfl
@[simp] theorem State.hostWrite_pols (s : State) (a : Nat) (b : List Byte) : (s.hostWrite a b).pols = s.pols := rfl
@[simp] theorem State.hostWrite_mem (s : State) (a : Nat) (b : List Byte) : (s.hostWrite a b).mem = s.mem.writeList (hostBase + a) b := rfl
@[simp] theorem State.hostWrite_undef (s : State) (a : Nat) (b : List Byte) : (s.hostWrite a b).undef = s.undef := rfl
@[simp] theorem State.hostWrite_poison (s : State) (a : Nat) (b : List Byte) : (s.hostWrite a b).poison = s.poison := rfl
@[simp] theorem State.hostWrite_lineKeys (s : State) (a : Nat) (b : List Byte) : (s.hostWrite a b).lineKeys = s.lineKeys := rfl
@[simp] theorem State.hostWrite_regs (s : State) (a : Nat) (b : List Byte) : (s.hostWrite a b).regs = s.regs := rfl
@[simp] theorem State.hostWrite_keys (s : State) (a : Nat) (b : List Byte) : (s.hostWrite a b).keys = s.keys := rfl
@[simp] theorem State.hostWrite_cycle (s : State) (a : Nat) (b : List Byte) : (s.hostWrite a b).cycle = s.cycle := rfl
@[simp] theorem State.hostWrite_ftime (s : State) (a : Nat) (b : List Byte) : (s.hostWrite a b).ftime = s.ftime := rfl
@[simp] theorem State.hostWrite_phase (s : State) (a : Nat) (b : List Byte) : (s.hostWrite a b).phase = s.phase := rfl
@[simp] theorem State.hostWrite_clock (s : State) (a : Nat) (b : List Byte) : (s.hostWrite a b).clock = s.clock := rfl
@[simp] theorem State.hostWrite_peers (s : State) (a : Nat) (b : List Byte) : (s.hostWrite a b).peers = s.peers := rfl
@[simp] theorem State.hostWrite_landedNow (s : State) (a : Nat) (b : List Byte) : (s.hostWrite a b).landedNow = s.landedNow := rfl
@[simp] theorem State.hostWrite_xlt (s : State) (a : Nat) (b : List Byte) : (s.hostWrite a b).xlt = s.xlt := rfl
@[simp] theorem State.hostWrite_fab (s : State) (a : Nat) (b : List Byte) : (s.hostWrite a b).fab = s.fab := rfl
@[simp] theorem State.hostWrite_slu (s : State) (a : Nat) (b : List Byte) : (s.hostWrite a b).slu = s.slu := rfl
@[simp] theorem State.hostWrite_colls (s : State) (a : Nat) (b : List Byte) : (s.hostWrite a b).colls = s.colls := rfl
@[simp] theorem State.hostWrite_reeveK (s : State) (a : Nat) (b : List Byte) : (s.hostWrite a b).reeveK = s.reeveK := rfl
@[simp] theorem State.hostWrite_inputs (s : State) (a : Nat) (b : List Byte) : (s.hostWrite a b).inputs = s.inputs := rfl
@[simp] theorem State.hostWrite_tx (s : State) (a : Nat) (b : List Byte) : (s.hostWrite a b).tx = s.tx := rfl
@[simp] theorem State.hostWrite_txBeacons (s : State) (a : Nat) (b : List Byte) : (s.hostWrite a b).txBeacons = s.txBeacons := rfl
@[simp] theorem State.hostWrite_irq (s : State) (a : Nat) (b : List Byte) : (s.hostWrite a b).irq = s.irq := rfl
@[simp] theorem State.hostWrite_hostRd (s : State) (a : Nat) (b : List Byte) : (s.hostWrite a b).hostRd = s.hostRd := rfl
@[simp] theorem State.hostWrite_flash (s : State) (a : Nat) (b : List Byte) : (s.hostWrite a b).flash = s.flash := rfl
@[simp] theorem State.hostWrite_cfg (s : State) (a : Nat) (b : List Byte) : (s.hostWrite a b).cfg = s.cfg := rfl
@[simp] theorem State.hostWrite_fw (s : State) (a : Nat) (b : List Byte) : (s.hostWrite a b).fw = s.fw := rfl
@[simp] theorem State.hostWrite_hcmd (s : State) (a : Nat) (b : List Byte) : (s.hostWrite a b).hcmd = s.hcmd := rfl
@[simp] theorem State.hostWrite_graphs (s : State) (a : Nat) (b : List Byte) : (s.hostWrite a b).graphs = s.graphs := rfl
@[simp] theorem State.hostWrite_insts (s : State) (a : Nat) (b : List Byte) : (s.hostWrite a b).insts = s.insts := rfl
@[simp] theorem State.hostWrite_obsCtr (s : State) (a : Nat) (b : List Byte) : (s.hostWrite a b).obsCtr = s.obsCtr := rfl
@[simp] theorem State.hostWrite_lineLast (s : State) (a : Nat) (b : List Byte) : (s.hostWrite a b).lineLast = s.lineLast := rfl
@[simp] theorem State.hostWrite_walkers (s : State) (a : Nat) (b : List Byte) : (s.hostWrite a b).walkers = s.walkers := rfl
@[simp] theorem State.hostWrite_saves (s : State) (a : Nat) (b : List Byte) : (s.hostWrite a b).saves = s.saves := rfl
@[simp] theorem State.hostWrite_resumeWait (s : State) (a : Nat) (b : List Byte) : (s.hostWrite a b).resumeWait = s.resumeWait := rfl
@[simp] theorem State.hostWrite_splitQ (s : State) (a : Nat) (b : List Byte) : (s.hostWrite a b).splitQ = s.splitQ := rfl
@[simp] theorem State.hostWrite_splitAt (s : State) (a : Nat) (b : List Byte) : (s.hostWrite a b).splitAt = s.splitAt := rfl
@[simp] theorem State.hostWrite_obsLast (s : State) (a : Nat) (b : List Byte) : (s.hostWrite a b).obsLast = s.obsLast := rfl
@[simp] theorem State.hostWrite_join (s : State) (a : Nat) (b : List Byte) : (s.hostWrite a b).join = s.join := rfl
@[simp] theorem State.hostWrite_reuse (s : State) (a : Nat) (b : List Byte) : (s.hostWrite a b).reuse = s.reuse := rfl
@[simp] theorem State.hostWrite_orphans (s : State) (a : Nat) (b : List Byte) : (s.hostWrite a b).orphans = s.orphans := rfl
@[simp] theorem State.hostWrite_lqs (s : State) (a : Nat) (b : List Byte) : (s.hostWrite a b).lqs = s.lqs := rfl
@[simp] theorem State.hostWrite_hot (s : State) (a : Nat) (b : List Byte) : (s.hostWrite a b).hot = s.hot := rfl
@[simp] theorem State.hostWrite_coolSince (s : State) (a : Nat) (b : List Byte) : (s.hostWrite a b).coolSince = s.coolSince := rfl
@[simp] theorem State.hostWrite_fatal (s : State) (a : Nat) (b : List Byte) : (s.hostWrite a b).fatal = s.fatal := rfl
@[simp] theorem State.hostWrite_fatalAt (s : State) (a : Nat) (b : List Byte) : (s.hostWrite a b).fatalAt = s.fatalAt := rfl
@[simp] theorem State.hostWrite_tripped (s : State) (a : Nat) (b : List Byte) : (s.hostWrite a b).tripped = s.tripped := rfl
@[simp] theorem State.hostWrite_reeveRun (s : State) (a : Nat) (b : List Byte) : (s.hostWrite a b).reeveRun = s.reeveRun := rfl
@[simp] theorem State.hostWrite_hostLink (s : State) (a : Nat) (b : List Byte) : (s.hostWrite a b).hostLink = s.hostLink := rfl
@[simp] theorem State.hostWrite_slotNow (s : State) (a : Nat) (b : List Byte) : (s.hostWrite a b).slotNow = s.slotNow := rfl
@[simp] theorem State.hostWrite_issueMem (s : State) (a : Nat) (b : List Byte) : (s.hostWrite a b).issueMem = s.issueMem := rfl
@[simp] theorem State.hostWrite_issueCur (s : State) (a : Nat) (b : List Byte) : (s.hostWrite a b).issueCur = s.issueCur := rfl
@[simp] theorem State.hostWrite_raised (s : State) (a : Nat) (b : List Byte) : (s.hostWrite a b).raised = s.raised := rfl
@[simp] theorem State.hostWrite_freeCtr (s : State) (a : Nat) (b : List Byte) : (s.hostWrite a b).freeCtr = s.freeCtr := rfl

/-! ### Cores, polders, interrupts, free values -/

@[simp] theorem State.mapCore_cur (s : State) (n : Nat) (f : CoreSt → CoreSt) : (s.mapCore n f).cur = s.cur := rfl
@[simp] theorem State.mapCore_ctxs (s : State) (n : Nat) (f : CoreSt → CoreSt) : (s.mapCore n f).ctxs = s.ctxs := rfl
@[simp] theorem State.mapCore_cores (s : State) (n : Nat) (f : CoreSt → CoreSt) : (s.mapCore n f).cores = putCore (f (s.core n)) s.cores := rfl
@[simp] theorem State.mapCore_pols (s : State) (n : Nat) (f : CoreSt → CoreSt) : (s.mapCore n f).pols = s.pols := rfl
@[simp] theorem State.mapCore_mem (s : State) (n : Nat) (f : CoreSt → CoreSt) : (s.mapCore n f).mem = s.mem := rfl
@[simp] theorem State.mapCore_undef (s : State) (n : Nat) (f : CoreSt → CoreSt) : (s.mapCore n f).undef = s.undef := rfl
@[simp] theorem State.mapCore_poison (s : State) (n : Nat) (f : CoreSt → CoreSt) : (s.mapCore n f).poison = s.poison := rfl
@[simp] theorem State.mapCore_lineKeys (s : State) (n : Nat) (f : CoreSt → CoreSt) : (s.mapCore n f).lineKeys = s.lineKeys := rfl
@[simp] theorem State.mapCore_regs (s : State) (n : Nat) (f : CoreSt → CoreSt) : (s.mapCore n f).regs = s.regs := rfl
@[simp] theorem State.mapCore_keys (s : State) (n : Nat) (f : CoreSt → CoreSt) : (s.mapCore n f).keys = s.keys := rfl
@[simp] theorem State.mapCore_cycle (s : State) (n : Nat) (f : CoreSt → CoreSt) : (s.mapCore n f).cycle = s.cycle := rfl
@[simp] theorem State.mapCore_ftime (s : State) (n : Nat) (f : CoreSt → CoreSt) : (s.mapCore n f).ftime = s.ftime := rfl
@[simp] theorem State.mapCore_phase (s : State) (n : Nat) (f : CoreSt → CoreSt) : (s.mapCore n f).phase = s.phase := rfl
@[simp] theorem State.mapCore_clock (s : State) (n : Nat) (f : CoreSt → CoreSt) : (s.mapCore n f).clock = s.clock := rfl
@[simp] theorem State.mapCore_peers (s : State) (n : Nat) (f : CoreSt → CoreSt) : (s.mapCore n f).peers = s.peers := rfl
@[simp] theorem State.mapCore_landedNow (s : State) (n : Nat) (f : CoreSt → CoreSt) : (s.mapCore n f).landedNow = s.landedNow := rfl
@[simp] theorem State.mapCore_xlt (s : State) (n : Nat) (f : CoreSt → CoreSt) : (s.mapCore n f).xlt = s.xlt := rfl
@[simp] theorem State.mapCore_fab (s : State) (n : Nat) (f : CoreSt → CoreSt) : (s.mapCore n f).fab = s.fab := rfl
@[simp] theorem State.mapCore_slu (s : State) (n : Nat) (f : CoreSt → CoreSt) : (s.mapCore n f).slu = s.slu := rfl
@[simp] theorem State.mapCore_colls (s : State) (n : Nat) (f : CoreSt → CoreSt) : (s.mapCore n f).colls = s.colls := rfl
@[simp] theorem State.mapCore_reeveK (s : State) (n : Nat) (f : CoreSt → CoreSt) : (s.mapCore n f).reeveK = s.reeveK := rfl
@[simp] theorem State.mapCore_inputs (s : State) (n : Nat) (f : CoreSt → CoreSt) : (s.mapCore n f).inputs = s.inputs := rfl
@[simp] theorem State.mapCore_tx (s : State) (n : Nat) (f : CoreSt → CoreSt) : (s.mapCore n f).tx = s.tx := rfl
@[simp] theorem State.mapCore_txBeacons (s : State) (n : Nat) (f : CoreSt → CoreSt) : (s.mapCore n f).txBeacons = s.txBeacons := rfl
@[simp] theorem State.mapCore_irq (s : State) (n : Nat) (f : CoreSt → CoreSt) : (s.mapCore n f).irq = s.irq := rfl
@[simp] theorem State.mapCore_hostRd (s : State) (n : Nat) (f : CoreSt → CoreSt) : (s.mapCore n f).hostRd = s.hostRd := rfl
@[simp] theorem State.mapCore_flash (s : State) (n : Nat) (f : CoreSt → CoreSt) : (s.mapCore n f).flash = s.flash := rfl
@[simp] theorem State.mapCore_cfg (s : State) (n : Nat) (f : CoreSt → CoreSt) : (s.mapCore n f).cfg = s.cfg := rfl
@[simp] theorem State.mapCore_fw (s : State) (n : Nat) (f : CoreSt → CoreSt) : (s.mapCore n f).fw = s.fw := rfl
@[simp] theorem State.mapCore_hcmd (s : State) (n : Nat) (f : CoreSt → CoreSt) : (s.mapCore n f).hcmd = s.hcmd := rfl
@[simp] theorem State.mapCore_graphs (s : State) (n : Nat) (f : CoreSt → CoreSt) : (s.mapCore n f).graphs = s.graphs := rfl
@[simp] theorem State.mapCore_insts (s : State) (n : Nat) (f : CoreSt → CoreSt) : (s.mapCore n f).insts = s.insts := rfl
@[simp] theorem State.mapCore_obsCtr (s : State) (n : Nat) (f : CoreSt → CoreSt) : (s.mapCore n f).obsCtr = s.obsCtr := rfl
@[simp] theorem State.mapCore_lineLast (s : State) (n : Nat) (f : CoreSt → CoreSt) : (s.mapCore n f).lineLast = s.lineLast := rfl
@[simp] theorem State.mapCore_walkers (s : State) (n : Nat) (f : CoreSt → CoreSt) : (s.mapCore n f).walkers = s.walkers := rfl
@[simp] theorem State.mapCore_saves (s : State) (n : Nat) (f : CoreSt → CoreSt) : (s.mapCore n f).saves = s.saves := rfl
@[simp] theorem State.mapCore_resumeWait (s : State) (n : Nat) (f : CoreSt → CoreSt) : (s.mapCore n f).resumeWait = s.resumeWait := rfl
@[simp] theorem State.mapCore_splitQ (s : State) (n : Nat) (f : CoreSt → CoreSt) : (s.mapCore n f).splitQ = s.splitQ := rfl
@[simp] theorem State.mapCore_splitAt (s : State) (n : Nat) (f : CoreSt → CoreSt) : (s.mapCore n f).splitAt = s.splitAt := rfl
@[simp] theorem State.mapCore_obsLast (s : State) (n : Nat) (f : CoreSt → CoreSt) : (s.mapCore n f).obsLast = s.obsLast := rfl
@[simp] theorem State.mapCore_join (s : State) (n : Nat) (f : CoreSt → CoreSt) : (s.mapCore n f).join = s.join := rfl
@[simp] theorem State.mapCore_reuse (s : State) (n : Nat) (f : CoreSt → CoreSt) : (s.mapCore n f).reuse = s.reuse := rfl
@[simp] theorem State.mapCore_orphans (s : State) (n : Nat) (f : CoreSt → CoreSt) : (s.mapCore n f).orphans = s.orphans := rfl
@[simp] theorem State.mapCore_lqs (s : State) (n : Nat) (f : CoreSt → CoreSt) : (s.mapCore n f).lqs = s.lqs := rfl
@[simp] theorem State.mapCore_hot (s : State) (n : Nat) (f : CoreSt → CoreSt) : (s.mapCore n f).hot = s.hot := rfl
@[simp] theorem State.mapCore_coolSince (s : State) (n : Nat) (f : CoreSt → CoreSt) : (s.mapCore n f).coolSince = s.coolSince := rfl
@[simp] theorem State.mapCore_fatal (s : State) (n : Nat) (f : CoreSt → CoreSt) : (s.mapCore n f).fatal = s.fatal := rfl
@[simp] theorem State.mapCore_fatalAt (s : State) (n : Nat) (f : CoreSt → CoreSt) : (s.mapCore n f).fatalAt = s.fatalAt := rfl
@[simp] theorem State.mapCore_tripped (s : State) (n : Nat) (f : CoreSt → CoreSt) : (s.mapCore n f).tripped = s.tripped := rfl
@[simp] theorem State.mapCore_reeveRun (s : State) (n : Nat) (f : CoreSt → CoreSt) : (s.mapCore n f).reeveRun = s.reeveRun := rfl
@[simp] theorem State.mapCore_hostLink (s : State) (n : Nat) (f : CoreSt → CoreSt) : (s.mapCore n f).hostLink = s.hostLink := rfl
@[simp] theorem State.mapCore_slotNow (s : State) (n : Nat) (f : CoreSt → CoreSt) : (s.mapCore n f).slotNow = s.slotNow := rfl
@[simp] theorem State.mapCore_issueMem (s : State) (n : Nat) (f : CoreSt → CoreSt) : (s.mapCore n f).issueMem = s.issueMem := rfl
@[simp] theorem State.mapCore_issueCur (s : State) (n : Nat) (f : CoreSt → CoreSt) : (s.mapCore n f).issueCur = s.issueCur := rfl
@[simp] theorem State.mapCore_raised (s : State) (n : Nat) (f : CoreSt → CoreSt) : (s.mapCore n f).raised = s.raised := rfl
@[simp] theorem State.mapCore_freeCtr (s : State) (n : Nat) (f : CoreSt → CoreSt) : (s.mapCore n f).freeCtr = s.freeCtr := rfl

@[simp] theorem State.mapPol_cur (s : State) (n : Nat) (f : PolderSt → PolderSt) : (s.mapPol n f).cur = s.cur := rfl
@[simp] theorem State.mapPol_ctxs (s : State) (n : Nat) (f : PolderSt → PolderSt) : (s.mapPol n f).ctxs = s.ctxs := rfl
@[simp] theorem State.mapPol_cores (s : State) (n : Nat) (f : PolderSt → PolderSt) : (s.mapPol n f).cores = s.cores := rfl
@[simp] theorem State.mapPol_pols (s : State) (n : Nat) (f : PolderSt → PolderSt) : (s.mapPol n f).pols = putPol (f (s.pol n)) s.pols := rfl
@[simp] theorem State.mapPol_mem (s : State) (n : Nat) (f : PolderSt → PolderSt) : (s.mapPol n f).mem = s.mem := rfl
@[simp] theorem State.mapPol_undef (s : State) (n : Nat) (f : PolderSt → PolderSt) : (s.mapPol n f).undef = s.undef := rfl
@[simp] theorem State.mapPol_poison (s : State) (n : Nat) (f : PolderSt → PolderSt) : (s.mapPol n f).poison = s.poison := rfl
@[simp] theorem State.mapPol_lineKeys (s : State) (n : Nat) (f : PolderSt → PolderSt) : (s.mapPol n f).lineKeys = s.lineKeys := rfl
@[simp] theorem State.mapPol_regs (s : State) (n : Nat) (f : PolderSt → PolderSt) : (s.mapPol n f).regs = s.regs := rfl
@[simp] theorem State.mapPol_keys (s : State) (n : Nat) (f : PolderSt → PolderSt) : (s.mapPol n f).keys = s.keys := rfl
@[simp] theorem State.mapPol_cycle (s : State) (n : Nat) (f : PolderSt → PolderSt) : (s.mapPol n f).cycle = s.cycle := rfl
@[simp] theorem State.mapPol_ftime (s : State) (n : Nat) (f : PolderSt → PolderSt) : (s.mapPol n f).ftime = s.ftime := rfl
@[simp] theorem State.mapPol_phase (s : State) (n : Nat) (f : PolderSt → PolderSt) : (s.mapPol n f).phase = s.phase := rfl
@[simp] theorem State.mapPol_clock (s : State) (n : Nat) (f : PolderSt → PolderSt) : (s.mapPol n f).clock = s.clock := rfl
@[simp] theorem State.mapPol_peers (s : State) (n : Nat) (f : PolderSt → PolderSt) : (s.mapPol n f).peers = s.peers := rfl
@[simp] theorem State.mapPol_landedNow (s : State) (n : Nat) (f : PolderSt → PolderSt) : (s.mapPol n f).landedNow = s.landedNow := rfl
@[simp] theorem State.mapPol_xlt (s : State) (n : Nat) (f : PolderSt → PolderSt) : (s.mapPol n f).xlt = s.xlt := rfl
@[simp] theorem State.mapPol_fab (s : State) (n : Nat) (f : PolderSt → PolderSt) : (s.mapPol n f).fab = s.fab := rfl
@[simp] theorem State.mapPol_slu (s : State) (n : Nat) (f : PolderSt → PolderSt) : (s.mapPol n f).slu = s.slu := rfl
@[simp] theorem State.mapPol_colls (s : State) (n : Nat) (f : PolderSt → PolderSt) : (s.mapPol n f).colls = s.colls := rfl
@[simp] theorem State.mapPol_reeveK (s : State) (n : Nat) (f : PolderSt → PolderSt) : (s.mapPol n f).reeveK = s.reeveK := rfl
@[simp] theorem State.mapPol_inputs (s : State) (n : Nat) (f : PolderSt → PolderSt) : (s.mapPol n f).inputs = s.inputs := rfl
@[simp] theorem State.mapPol_tx (s : State) (n : Nat) (f : PolderSt → PolderSt) : (s.mapPol n f).tx = s.tx := rfl
@[simp] theorem State.mapPol_txBeacons (s : State) (n : Nat) (f : PolderSt → PolderSt) : (s.mapPol n f).txBeacons = s.txBeacons := rfl
@[simp] theorem State.mapPol_irq (s : State) (n : Nat) (f : PolderSt → PolderSt) : (s.mapPol n f).irq = s.irq := rfl
@[simp] theorem State.mapPol_hostRd (s : State) (n : Nat) (f : PolderSt → PolderSt) : (s.mapPol n f).hostRd = s.hostRd := rfl
@[simp] theorem State.mapPol_flash (s : State) (n : Nat) (f : PolderSt → PolderSt) : (s.mapPol n f).flash = s.flash := rfl
@[simp] theorem State.mapPol_cfg (s : State) (n : Nat) (f : PolderSt → PolderSt) : (s.mapPol n f).cfg = s.cfg := rfl
@[simp] theorem State.mapPol_fw (s : State) (n : Nat) (f : PolderSt → PolderSt) : (s.mapPol n f).fw = s.fw := rfl
@[simp] theorem State.mapPol_hcmd (s : State) (n : Nat) (f : PolderSt → PolderSt) : (s.mapPol n f).hcmd = s.hcmd := rfl
@[simp] theorem State.mapPol_graphs (s : State) (n : Nat) (f : PolderSt → PolderSt) : (s.mapPol n f).graphs = s.graphs := rfl
@[simp] theorem State.mapPol_insts (s : State) (n : Nat) (f : PolderSt → PolderSt) : (s.mapPol n f).insts = s.insts := rfl
@[simp] theorem State.mapPol_obsCtr (s : State) (n : Nat) (f : PolderSt → PolderSt) : (s.mapPol n f).obsCtr = s.obsCtr := rfl
@[simp] theorem State.mapPol_lineLast (s : State) (n : Nat) (f : PolderSt → PolderSt) : (s.mapPol n f).lineLast = s.lineLast := rfl
@[simp] theorem State.mapPol_walkers (s : State) (n : Nat) (f : PolderSt → PolderSt) : (s.mapPol n f).walkers = s.walkers := rfl
@[simp] theorem State.mapPol_saves (s : State) (n : Nat) (f : PolderSt → PolderSt) : (s.mapPol n f).saves = s.saves := rfl
@[simp] theorem State.mapPol_resumeWait (s : State) (n : Nat) (f : PolderSt → PolderSt) : (s.mapPol n f).resumeWait = s.resumeWait := rfl
@[simp] theorem State.mapPol_splitQ (s : State) (n : Nat) (f : PolderSt → PolderSt) : (s.mapPol n f).splitQ = s.splitQ := rfl
@[simp] theorem State.mapPol_splitAt (s : State) (n : Nat) (f : PolderSt → PolderSt) : (s.mapPol n f).splitAt = s.splitAt := rfl
@[simp] theorem State.mapPol_obsLast (s : State) (n : Nat) (f : PolderSt → PolderSt) : (s.mapPol n f).obsLast = s.obsLast := rfl
@[simp] theorem State.mapPol_join (s : State) (n : Nat) (f : PolderSt → PolderSt) : (s.mapPol n f).join = s.join := rfl
@[simp] theorem State.mapPol_reuse (s : State) (n : Nat) (f : PolderSt → PolderSt) : (s.mapPol n f).reuse = s.reuse := rfl
@[simp] theorem State.mapPol_orphans (s : State) (n : Nat) (f : PolderSt → PolderSt) : (s.mapPol n f).orphans = s.orphans := rfl
@[simp] theorem State.mapPol_lqs (s : State) (n : Nat) (f : PolderSt → PolderSt) : (s.mapPol n f).lqs = s.lqs := rfl
@[simp] theorem State.mapPol_hot (s : State) (n : Nat) (f : PolderSt → PolderSt) : (s.mapPol n f).hot = s.hot := rfl
@[simp] theorem State.mapPol_coolSince (s : State) (n : Nat) (f : PolderSt → PolderSt) : (s.mapPol n f).coolSince = s.coolSince := rfl
@[simp] theorem State.mapPol_fatal (s : State) (n : Nat) (f : PolderSt → PolderSt) : (s.mapPol n f).fatal = s.fatal := rfl
@[simp] theorem State.mapPol_fatalAt (s : State) (n : Nat) (f : PolderSt → PolderSt) : (s.mapPol n f).fatalAt = s.fatalAt := rfl
@[simp] theorem State.mapPol_tripped (s : State) (n : Nat) (f : PolderSt → PolderSt) : (s.mapPol n f).tripped = s.tripped := rfl
@[simp] theorem State.mapPol_reeveRun (s : State) (n : Nat) (f : PolderSt → PolderSt) : (s.mapPol n f).reeveRun = s.reeveRun := rfl
@[simp] theorem State.mapPol_hostLink (s : State) (n : Nat) (f : PolderSt → PolderSt) : (s.mapPol n f).hostLink = s.hostLink := rfl
@[simp] theorem State.mapPol_slotNow (s : State) (n : Nat) (f : PolderSt → PolderSt) : (s.mapPol n f).slotNow = s.slotNow := rfl
@[simp] theorem State.mapPol_issueMem (s : State) (n : Nat) (f : PolderSt → PolderSt) : (s.mapPol n f).issueMem = s.issueMem := rfl
@[simp] theorem State.mapPol_issueCur (s : State) (n : Nat) (f : PolderSt → PolderSt) : (s.mapPol n f).issueCur = s.issueCur := rfl
@[simp] theorem State.mapPol_raised (s : State) (n : Nat) (f : PolderSt → PolderSt) : (s.mapPol n f).raised = s.raised := rfl
@[simp] theorem State.mapPol_freeCtr (s : State) (n : Nat) (f : PolderSt → PolderSt) : (s.mapPol n f).freeCtr = s.freeCtr := rfl

@[simp] theorem State.raiseIrq_cur (s : State) (v : Nat) : (s.raiseIrq v).cur = s.cur := rfl
@[simp] theorem State.raiseIrq_ctxs (s : State) (v : Nat) : (s.raiseIrq v).ctxs = s.ctxs := rfl
@[simp] theorem State.raiseIrq_cores (s : State) (v : Nat) : (s.raiseIrq v).cores = s.cores := rfl
@[simp] theorem State.raiseIrq_pols (s : State) (v : Nat) : (s.raiseIrq v).pols = s.pols := rfl
@[simp] theorem State.raiseIrq_mem (s : State) (v : Nat) : (s.raiseIrq v).mem = s.mem := rfl
@[simp] theorem State.raiseIrq_undef (s : State) (v : Nat) : (s.raiseIrq v).undef = s.undef := rfl
@[simp] theorem State.raiseIrq_poison (s : State) (v : Nat) : (s.raiseIrq v).poison = s.poison := rfl
@[simp] theorem State.raiseIrq_lineKeys (s : State) (v : Nat) : (s.raiseIrq v).lineKeys = s.lineKeys := rfl
@[simp] theorem State.raiseIrq_regs (s : State) (v : Nat) : (s.raiseIrq v).regs = s.regs := rfl
@[simp] theorem State.raiseIrq_keys (s : State) (v : Nat) : (s.raiseIrq v).keys = s.keys := rfl
@[simp] theorem State.raiseIrq_cycle (s : State) (v : Nat) : (s.raiseIrq v).cycle = s.cycle := rfl
@[simp] theorem State.raiseIrq_ftime (s : State) (v : Nat) : (s.raiseIrq v).ftime = s.ftime := rfl
@[simp] theorem State.raiseIrq_phase (s : State) (v : Nat) : (s.raiseIrq v).phase = s.phase := rfl
@[simp] theorem State.raiseIrq_clock (s : State) (v : Nat) : (s.raiseIrq v).clock = s.clock := rfl
@[simp] theorem State.raiseIrq_peers (s : State) (v : Nat) : (s.raiseIrq v).peers = s.peers := rfl
@[simp] theorem State.raiseIrq_landedNow (s : State) (v : Nat) : (s.raiseIrq v).landedNow = s.landedNow := rfl
@[simp] theorem State.raiseIrq_xlt (s : State) (v : Nat) : (s.raiseIrq v).xlt = s.xlt := rfl
@[simp] theorem State.raiseIrq_fab (s : State) (v : Nat) : (s.raiseIrq v).fab = s.fab := rfl
@[simp] theorem State.raiseIrq_slu (s : State) (v : Nat) : (s.raiseIrq v).slu = s.slu := rfl
@[simp] theorem State.raiseIrq_colls (s : State) (v : Nat) : (s.raiseIrq v).colls = s.colls := rfl
@[simp] theorem State.raiseIrq_reeveK (s : State) (v : Nat) : (s.raiseIrq v).reeveK = s.reeveK := rfl
@[simp] theorem State.raiseIrq_inputs (s : State) (v : Nat) : (s.raiseIrq v).inputs = s.inputs := rfl
@[simp] theorem State.raiseIrq_tx (s : State) (v : Nat) : (s.raiseIrq v).tx = s.tx := rfl
@[simp] theorem State.raiseIrq_txBeacons (s : State) (v : Nat) : (s.raiseIrq v).txBeacons = s.txBeacons := rfl
@[simp] theorem State.raiseIrq_irq (s : State) (v : Nat) : (s.raiseIrq v).irq = s.irq ++ [v] := rfl
@[simp] theorem State.raiseIrq_hostRd (s : State) (v : Nat) : (s.raiseIrq v).hostRd = s.hostRd := rfl
@[simp] theorem State.raiseIrq_flash (s : State) (v : Nat) : (s.raiseIrq v).flash = s.flash := rfl
@[simp] theorem State.raiseIrq_cfg (s : State) (v : Nat) : (s.raiseIrq v).cfg = s.cfg := rfl
@[simp] theorem State.raiseIrq_fw (s : State) (v : Nat) : (s.raiseIrq v).fw = s.fw := rfl
@[simp] theorem State.raiseIrq_hcmd (s : State) (v : Nat) : (s.raiseIrq v).hcmd = s.hcmd := rfl
@[simp] theorem State.raiseIrq_graphs (s : State) (v : Nat) : (s.raiseIrq v).graphs = s.graphs := rfl
@[simp] theorem State.raiseIrq_insts (s : State) (v : Nat) : (s.raiseIrq v).insts = s.insts := rfl
@[simp] theorem State.raiseIrq_obsCtr (s : State) (v : Nat) : (s.raiseIrq v).obsCtr = s.obsCtr := rfl
@[simp] theorem State.raiseIrq_lineLast (s : State) (v : Nat) : (s.raiseIrq v).lineLast = s.lineLast := rfl
@[simp] theorem State.raiseIrq_walkers (s : State) (v : Nat) : (s.raiseIrq v).walkers = s.walkers := rfl
@[simp] theorem State.raiseIrq_saves (s : State) (v : Nat) : (s.raiseIrq v).saves = s.saves := rfl
@[simp] theorem State.raiseIrq_resumeWait (s : State) (v : Nat) : (s.raiseIrq v).resumeWait = s.resumeWait := rfl
@[simp] theorem State.raiseIrq_splitQ (s : State) (v : Nat) : (s.raiseIrq v).splitQ = s.splitQ := rfl
@[simp] theorem State.raiseIrq_splitAt (s : State) (v : Nat) : (s.raiseIrq v).splitAt = s.splitAt := rfl
@[simp] theorem State.raiseIrq_obsLast (s : State) (v : Nat) : (s.raiseIrq v).obsLast = s.obsLast := rfl
@[simp] theorem State.raiseIrq_join (s : State) (v : Nat) : (s.raiseIrq v).join = s.join := rfl
@[simp] theorem State.raiseIrq_reuse (s : State) (v : Nat) : (s.raiseIrq v).reuse = s.reuse := rfl
@[simp] theorem State.raiseIrq_orphans (s : State) (v : Nat) : (s.raiseIrq v).orphans = s.orphans := rfl
@[simp] theorem State.raiseIrq_lqs (s : State) (v : Nat) : (s.raiseIrq v).lqs = s.lqs := rfl
@[simp] theorem State.raiseIrq_hot (s : State) (v : Nat) : (s.raiseIrq v).hot = s.hot := rfl
@[simp] theorem State.raiseIrq_coolSince (s : State) (v : Nat) : (s.raiseIrq v).coolSince = s.coolSince := rfl
@[simp] theorem State.raiseIrq_fatal (s : State) (v : Nat) : (s.raiseIrq v).fatal = s.fatal := rfl
@[simp] theorem State.raiseIrq_fatalAt (s : State) (v : Nat) : (s.raiseIrq v).fatalAt = s.fatalAt := rfl
@[simp] theorem State.raiseIrq_tripped (s : State) (v : Nat) : (s.raiseIrq v).tripped = s.tripped := rfl
@[simp] theorem State.raiseIrq_reeveRun (s : State) (v : Nat) : (s.raiseIrq v).reeveRun = s.reeveRun := rfl
@[simp] theorem State.raiseIrq_hostLink (s : State) (v : Nat) : (s.raiseIrq v).hostLink = s.hostLink := rfl
@[simp] theorem State.raiseIrq_slotNow (s : State) (v : Nat) : (s.raiseIrq v).slotNow = s.slotNow := rfl
@[simp] theorem State.raiseIrq_issueMem (s : State) (v : Nat) : (s.raiseIrq v).issueMem = s.issueMem := rfl
@[simp] theorem State.raiseIrq_issueCur (s : State) (v : Nat) : (s.raiseIrq v).issueCur = s.issueCur := rfl
@[simp] theorem State.raiseIrq_raised (s : State) (v : Nat) : (s.raiseIrq v).raised = s.raised := rfl
@[simp] theorem State.raiseIrq_freeCtr (s : State) (v : Nat) : (s.raiseIrq v).freeCtr = s.freeCtr := rfl

@[simp] theorem State.fresh_cur (s : State) : (s.fresh).cur = s.cur := rfl
@[simp] theorem State.fresh_ctxs (s : State) : (s.fresh).ctxs = s.ctxs := rfl
@[simp] theorem State.fresh_cores (s : State) : (s.fresh).cores = s.cores := rfl
@[simp] theorem State.fresh_pols (s : State) : (s.fresh).pols = s.pols := rfl
@[simp] theorem State.fresh_mem (s : State) : (s.fresh).mem = s.mem := rfl
@[simp] theorem State.fresh_undef (s : State) : (s.fresh).undef = s.undef := rfl
@[simp] theorem State.fresh_poison (s : State) : (s.fresh).poison = s.poison := rfl
@[simp] theorem State.fresh_lineKeys (s : State) : (s.fresh).lineKeys = s.lineKeys := rfl
@[simp] theorem State.fresh_regs (s : State) : (s.fresh).regs = s.regs := rfl
@[simp] theorem State.fresh_keys (s : State) : (s.fresh).keys = s.keys := rfl
@[simp] theorem State.fresh_cycle (s : State) : (s.fresh).cycle = s.cycle := rfl
@[simp] theorem State.fresh_ftime (s : State) : (s.fresh).ftime = s.ftime := rfl
@[simp] theorem State.fresh_phase (s : State) : (s.fresh).phase = s.phase := rfl
@[simp] theorem State.fresh_clock (s : State) : (s.fresh).clock = s.clock := rfl
@[simp] theorem State.fresh_peers (s : State) : (s.fresh).peers = s.peers := rfl
@[simp] theorem State.fresh_landedNow (s : State) : (s.fresh).landedNow = s.landedNow := rfl
@[simp] theorem State.fresh_xlt (s : State) : (s.fresh).xlt = s.xlt := rfl
@[simp] theorem State.fresh_fab (s : State) : (s.fresh).fab = s.fab := rfl
@[simp] theorem State.fresh_slu (s : State) : (s.fresh).slu = s.slu := rfl
@[simp] theorem State.fresh_colls (s : State) : (s.fresh).colls = s.colls := rfl
@[simp] theorem State.fresh_reeveK (s : State) : (s.fresh).reeveK = s.reeveK := rfl
@[simp] theorem State.fresh_inputs (s : State) : (s.fresh).inputs = s.inputs := rfl
@[simp] theorem State.fresh_tx (s : State) : (s.fresh).tx = s.tx := rfl
@[simp] theorem State.fresh_txBeacons (s : State) : (s.fresh).txBeacons = s.txBeacons := rfl
@[simp] theorem State.fresh_irq (s : State) : (s.fresh).irq = s.irq := rfl
@[simp] theorem State.fresh_hostRd (s : State) : (s.fresh).hostRd = s.hostRd := rfl
@[simp] theorem State.fresh_flash (s : State) : (s.fresh).flash = s.flash := rfl
@[simp] theorem State.fresh_cfg (s : State) : (s.fresh).cfg = s.cfg := rfl
@[simp] theorem State.fresh_fw (s : State) : (s.fresh).fw = s.fw := rfl
@[simp] theorem State.fresh_hcmd (s : State) : (s.fresh).hcmd = s.hcmd := rfl
@[simp] theorem State.fresh_graphs (s : State) : (s.fresh).graphs = s.graphs := rfl
@[simp] theorem State.fresh_insts (s : State) : (s.fresh).insts = s.insts := rfl
@[simp] theorem State.fresh_obsCtr (s : State) : (s.fresh).obsCtr = s.obsCtr := rfl
@[simp] theorem State.fresh_lineLast (s : State) : (s.fresh).lineLast = s.lineLast := rfl
@[simp] theorem State.fresh_walkers (s : State) : (s.fresh).walkers = s.walkers := rfl
@[simp] theorem State.fresh_saves (s : State) : (s.fresh).saves = s.saves := rfl
@[simp] theorem State.fresh_resumeWait (s : State) : (s.fresh).resumeWait = s.resumeWait := rfl
@[simp] theorem State.fresh_splitQ (s : State) : (s.fresh).splitQ = s.splitQ := rfl
@[simp] theorem State.fresh_splitAt (s : State) : (s.fresh).splitAt = s.splitAt := rfl
@[simp] theorem State.fresh_obsLast (s : State) : (s.fresh).obsLast = s.obsLast := rfl
@[simp] theorem State.fresh_join (s : State) : (s.fresh).join = s.join := rfl
@[simp] theorem State.fresh_reuse (s : State) : (s.fresh).reuse = s.reuse := rfl
@[simp] theorem State.fresh_orphans (s : State) : (s.fresh).orphans = s.orphans := rfl
@[simp] theorem State.fresh_lqs (s : State) : (s.fresh).lqs = s.lqs := rfl
@[simp] theorem State.fresh_hot (s : State) : (s.fresh).hot = s.hot := rfl
@[simp] theorem State.fresh_coolSince (s : State) : (s.fresh).coolSince = s.coolSince := rfl
@[simp] theorem State.fresh_fatal (s : State) : (s.fresh).fatal = s.fatal := rfl
@[simp] theorem State.fresh_fatalAt (s : State) : (s.fresh).fatalAt = s.fatalAt := rfl
@[simp] theorem State.fresh_tripped (s : State) : (s.fresh).tripped = s.tripped := rfl
@[simp] theorem State.fresh_reeveRun (s : State) : (s.fresh).reeveRun = s.reeveRun := rfl
@[simp] theorem State.fresh_hostLink (s : State) : (s.fresh).hostLink = s.hostLink := rfl
@[simp] theorem State.fresh_slotNow (s : State) : (s.fresh).slotNow = s.slotNow := rfl
@[simp] theorem State.fresh_issueMem (s : State) : (s.fresh).issueMem = s.issueMem := rfl
@[simp] theorem State.fresh_issueCur (s : State) : (s.fresh).issueCur = s.issueCur := rfl
@[simp] theorem State.fresh_raised (s : State) : (s.fresh).raised = s.raised := rfl
@[simp] theorem State.fresh_freeCtr (s : State) : (s.fresh).freeCtr = s.freeCtr + 1 := rfl

/-! ### CSRs of a context -/

@[simp] theorem Ctx.setCsr_id (c : Ctx) (n : Fin 17) (v : Word) : (c.setCsr n v).id = c.id := rfl
@[simp] theorem Ctx.setCsr_phase (c : Ctx) (n : Fin 17) (v : Word) : (c.setCsr n v).phase = c.phase := rfl
@[simp] theorem Ctx.setCsr_launch (c : Ctx) (n : Fin 17) (v : Word) : (c.setCsr n v).launch = c.launch := rfl
@[simp] theorem Ctx.setCsr_s (c : Ctx) (n : Fin 17) (v : Word) : (c.setCsr n v).s = c.s := rfl
@[simp] theorem Ctx.setCsr_spois (c : Ctx) (n : Fin 17) (v : Word) : (c.setCsr n v).spois = c.spois := rfl
@[simp] theorem Ctx.setCsr_p (c : Ctx) (n : Fin 17) (v : Word) : (c.setCsr n v).p = c.p := rfl
@[simp] theorem Ctx.setCsr_v (c : Ctx) (n : Fin 17) (v : Word) : (c.setCsr n v).v = c.v := rfl
@[simp] theorem Ctx.setCsr_vpois (c : Ctx) (n : Fin 17) (v : Word) : (c.setCsr n v).vpois = c.vpois := rfl
@[simp] theorem Ctx.setCsr_m (c : Ctx) (n : Fin 17) (v : Word) : (c.setCsr n v).m = c.m := rfl
@[simp] theorem Ctx.setCsr_acc (c : Ctx) (n : Fin 17) (v : Word) : (c.setCsr n v).acc = c.acc := rfl
@[simp] theorem Ctx.setCsr_undef (c : Ctx) (n : Fin 17) (v : Word) : (c.setCsr n v).undef = c.undef := rfl
@[simp] theorem Ctx.setCsr_os (c : Ctx) (n : Fin 17) (v : Word) : (c.setCsr n v).os = c.os := rfl
@[simp] theorem Ctx.setCsr_osVer (c : Ctx) (n : Fin 17) (v : Word) : (c.setCsr n v).osVer = c.osVer := rfl
@[simp] theorem Ctx.setCsr_k (c : Ctx) (n : Fin 17) (v : Word) : (c.setCsr n v).k = c.k := rfl
@[simp] theorem Ctx.setCsr_q (c : Ctx) (n : Fin 17) (v : Word) : (c.setCsr n v).q = c.q := rfl
@[simp] theorem Ctx.setCsr_dr (c : Ctx) (n : Fin 17) (v : Word) : (c.setCsr n v).dr = c.dr := rfl
@[simp] theorem Ctx.setCsr_it (c : Ctx) (n : Fin 17) (v : Word) : (c.setCsr n v).it = c.it := rfl
@[simp] theorem Ctx.setCsr_bt (c : Ctx) (n : Fin 17) (v : Word) : (c.setCsr n v).bt = c.bt := rfl
@[simp] theorem Ctx.setCsr_rstack (c : Ctx) (n : Fin 17) (v : Word) : (c.setCsr n v).rstack = c.rstack := rfl
@[simp] theorem Ctx.setCsr_pc (c : Ctx) (n : Fin 17) (v : Word) : (c.setCsr n v).pc = c.pc := rfl
@[simp] theorem Ctx.setCsr_npc (c : Ctx) (n : Fin 17) (v : Word) : (c.setCsr n v).npc = c.npc := rfl
@[simp] theorem Ctx.setCsr_csr (c : Ctx) (n : Fin 17) (v : Word) : (c.setCsr n v).csr = c.csr.set n v := rfl
@[simp] theorem Ctx.setCsr_budget (c : Ctx) (n : Fin 17) (v : Word) : (c.setCsr n v).budget = c.budget := rfl
@[simp] theorem Ctx.setCsr_refills (c : Ctx) (n : Fin 17) (v : Word) : (c.setCsr n v).refills = c.refills := rfl
@[simp] theorem Ctx.setCsr_gap (c : Ctx) (n : Fin 17) (v : Word) : (c.setCsr n v).gap = c.gap := rfl
@[simp] theorem Ctx.setCsr_bundles (c : Ctx) (n : Fin 17) (v : Word) : (c.setCsr n v).bundles = c.bundles := rfl
@[simp] theorem Ctx.setCsr_block (c : Ctx) (n : Fin 17) (v : Word) : (c.setCsr n v).block = c.block := rfl
@[simp] theorem Ctx.setCsr_nest (c : Ctx) (n : Fin 17) (v : Word) : (c.setCsr n v).nest = c.nest := rfl
@[simp] theorem Ctx.setCsr_suspended (c : Ctx) (n : Fin 17) (v : Word) : (c.setCsr n v).suspended = c.suspended := rfl
@[simp] theorem Ctx.setCsr_finalBundle (c : Ctx) (n : Fin 17) (v : Word) : (c.setCsr n v).finalBundle = c.finalBundle := rfl
@[simp] theorem Ctx.setCsr_writes (c : Ctx) (n : Fin 17) (v : Word) : (c.setCsr n v).writes = c.writes := rfl
@[simp] theorem Ctx.setCsr_flags (c : Ctx) (n : Fin 17) (v : Word) : (c.setCsr n v).flags = c.flags := rfl
@[simp] theorem Ctx.setCsr_wake (c : Ctx) (n : Fin 17) (v : Word) : (c.setCsr n v).wake = c.wake := rfl
@[simp] theorem Ctx.setCsr_recent (c : Ctx) (n : Fin 17) (v : Word) : (c.setCsr n v).recent = c.recent := rfl
@[simp] theorem Ctx.setCsr_fences (c : Ctx) (n : Fin 17) (v : Word) : (c.setCsr n v).fences = c.fences := rfl
@[simp] theorem Ctx.setCsr_newFence (c : Ctx) (n : Fin 17) (v : Word) : (c.setCsr n v).newFence = c.newFence := rfl
@[simp] theorem Ctx.setCsr_drainSeq (c : Ctx) (n : Fin 17) (v : Word) : (c.setCsr n v).drainSeq = c.drainSeq := rfl
@[simp] theorem Ctx.setCsr_newDrain (c : Ctx) (n : Fin 17) (v : Word) : (c.setCsr n v).newDrain = c.newDrain := rfl
@[simp] theorem Ctx.setCsr_eng (c : Ctx) (n : Fin 17) (v : Word) : (c.setCsr n v).eng = c.eng := rfl
@[simp] theorem Ctx.setCsr_engA (c : Ctx) (n : Fin 17) (v : Word) : (c.setCsr n v).engA = c.engA := rfl
@[simp] theorem Ctx.setCsr_remote (c : Ctx) (n : Fin 17) (v : Word) : (c.setCsr n v).remote = c.remote := rfl
@[simp] theorem Ctx.setCsr_late (c : Ctx) (n : Fin 17) (v : Word) : (c.setCsr n v).late = c.late := rfl
@[simp] theorem Ctx.setCsr_ep (c : Ctx) (n : Fin 17) (v : Word) : (c.setCsr n v).ep = c.ep := rfl
@[simp] theorem Ctx.setCsr_nextSeq (c : Ctx) (n : Fin 17) (v : Word) : (c.setCsr n v).nextSeq = c.nextSeq := rfl
@[simp] theorem Ctx.setCsr_lease (c : Ctx) (n : Fin 17) (v : Word) : (c.setCsr n v).lease = c.lease := rfl
@[simp] theorem Ctx.setCsr_mq (c : Ctx) (n : Fin 17) (v : Word) : (c.setCsr n v).mq = c.mq := rfl
@[simp] theorem Ctx.setCsr_bufT (c : Ctx) (n : Fin 17) (v : Word) : (c.setCsr n v).bufT = c.bufT := rfl
@[simp] theorem Ctx.setCsr_bufOk (c : Ctx) (n : Fin 17) (v : Word) : (c.setCsr n v).bufOk = c.bufOk := rfl
@[simp] theorem Ctx.setCsr_pipeUsed (c : Ctx) (n : Fin 17) (v : Word) : (c.setCsr n v).pipeUsed = c.pipeUsed := rfl
@[simp] theorem Ctx.setCsr_tileLand (c : Ctx) (n : Fin 17) (v : Word) : (c.setCsr n v).tileLand = c.tileLand := rfl
@[simp] theorem Ctx.setCsr_tileAlt (c : Ctx) (n : Fin 17) (v : Word) : (c.setCsr n v).tileAlt = c.tileAlt := rfl
@[simp] theorem Ctx.setCsr_bound (c : Ctx) (n : Fin 17) (v : Word) : (c.setCsr n v).bound = c.bound := rfl
@[simp] theorem Ctx.setCsr_bzLoose (c : Ctx) (n : Fin 17) (v : Word) : (c.setCsr n v).bzLoose = c.bzLoose := rfl
@[simp] theorem Ctx.setCsr_mcLoose (c : Ctx) (n : Fin 17) (v : Word) : (c.setCsr n v).mcLoose = c.mcLoose := rfl
@[simp] theorem Ctx.setCsr_feAt (c : Ctx) (n : Fin 17) (v : Word) : (c.setCsr n v).feAt = c.feAt := rfl
@[simp] theorem Ctx.setCsr_filled (c : Ctx) (n : Fin 17) (v : Word) : (c.setCsr n v).filled = c.filled := rfl
@[simp] theorem Ctx.setCsr_trap (c : Ctx) (n : Fin 17) (v : Word) : (c.setCsr n v).trap = c.trap := rfl
@[simp] theorem Ctx.setCsr_xlate (c : Ctx) (n : Fin 17) (v : Word) : (c.setCsr n v).xlate = c.xlate := rfl
@[simp] theorem Ctx.setCsr_waived (c : Ctx) (n : Fin 17) (v : Word) : (c.setCsr n v).waived = c.waived := rfl
@[simp] theorem Ctx.setCsr_stalled (c : Ctx) (n : Fin 17) (v : Word) : (c.setCsr n v).stalled = c.stalled := rfl
@[simp] theorem Ctx.setCsr_barrier (c : Ctx) (n : Fin 17) (v : Word) : (c.setCsr n v).barrier = c.barrier := rfl
@[simp] theorem Ctx.setCsr_victim (c : Ctx) (n : Fin 17) (v : Word) : (c.setCsr n v).victim = c.victim := rfl
@[simp] theorem Ctx.setCsr_sliceRun (c : Ctx) (n : Fin 17) (v : Word) : (c.setCsr n v).sliceRun = c.sliceRun := rfl

end Sys2Proof.Machine
end

