-- ==== Sys2Proof/Laws/Memory.lean ====
section
/-! SUPPORT. Memory: what a read gives after a write, and that every operation keeps the canonical form. -/

namespace Sys2Proof.Machine

/-- Every listed address is above a bound. -/
def Memory.above (n : Nat) (m : Memory) : Prop := ∀ x ∈ m, n < x.1

theorem Memory.wf_cons (a : Nat) (b : Byte) (m : Memory) :
    Memory.wf ((a, b) :: m) = true ↔ b ≠ Memory.unlisted ∧ Memory.above a m ∧ Memory.wf m = true := by
  induction m generalizing a b with
  | nil => simp [Memory.wf, Memory.above]
  | cons y m ih =>
    obtain ⟨k, c⟩ := y
    simp only [Memory.wf, Bool.and_eq_true, bne_iff_ne, decide_eq_true_eq]
    constructor
    · rintro ⟨⟨hb, hlt⟩, h⟩
      refine ⟨hb, ?_, h⟩
      have hk := ((ih k c).1 h).2.1
      intro x hx
      rcases List.mem_cons.1 hx with rfl | hx
      · exact hlt
      · exact Nat.lt_trans hlt (hk x hx)
    · rintro ⟨hb, ha, h⟩
      exact ⟨⟨hb, ha (k, c) (by simp)⟩, h⟩

@[simp] theorem Memory.wf_nil : Memory.wf [] = true := rfl

theorem Memory.read_above {n : Nat} {m : Memory} (h : m.above n) {a : Nat} (ha : a ≤ n) : m.read a = Memory.unlisted := by
  induction m with
  | nil => rfl
  | cons y m ih =>
    obtain ⟨k, c⟩ := y
    have hk : n < k := h (k, c) (by simp)
    have : a ≠ k := by omega
    simp only [Memory.read, this, if_false]
    exact ih fun x hx => h x (by simp [hx])

theorem Memory.write_above {n a : Nat} {m : Memory} {b : Byte} (h : m.above n) (ha : n < a) : (m.write a b).above n := by
  induction m with
  | nil => unfold Memory.write; split <;> simp_all [Memory.above]
  | cons y m ih =>
    obtain ⟨k, c⟩ := y
    have hm : Memory.above n m := fun x hx => h x (by simp [hx])
    have hk : n < k := h (k, c) (by simp)
    unfold Memory.write
    split
    · split
      · exact h
      · intro x hx
        rcases List.mem_cons.1 hx with rfl | hx
        · exact ha
        · exact h x hx
    · split
      · split
        · exact hm
        · intro x hx
          rcases List.mem_cons.1 hx with rfl | hx
          · exact ha
          · exact hm x hx
      · intro x hx
        rcases List.mem_cons.1 hx with rfl | hx
        · exact hk
        · exact ih hm x hx

/-- A write keeps the canonical form. -/
theorem Memory.write_wf {m : Memory} (h : m.wf = true) (a : Nat) (b : Byte) : (m.write a b).wf = true := by
  induction m with
  | nil =>
    unfold Memory.write
    split
    · rfl
    · simpa [Memory.wf] using ‹_›
  | cons y m ih =>
    obtain ⟨k, c⟩ := y
    obtain ⟨hc, hab, hm⟩ := (Memory.wf_cons k c m).1 h
    unfold Memory.write
    split
    · split
      · exact h
      · refine (Memory.wf_cons _ _ _).2 ⟨‹_›, ?_, h⟩
        intro x hx
        rcases List.mem_cons.1 hx with rfl | hx
        · assumption
        · exact Nat.lt_trans ‹a < k› (hab x hx)
    · split
      · split
        · exact hm
        · subst_vars
          exact (Memory.wf_cons _ _ _).2 ⟨‹_›, hab, hm⟩
      · exact (Memory.wf_cons _ _ _).2 ⟨hc, Memory.write_above hab (by omega), ih hm⟩

/-- A read after a write. -/
theorem Memory.read_write {m : Memory} (h : m.wf = true) (a x : Nat) (b : Byte) :
    (m.write a b).read x = if x = a then b else m.read x := by
  induction m with
  | nil =>
    unfold Memory.write
    by_cases hb : b = Memory.unlisted
    · by_cases hx : x = a <;> simp [hb, hx, Memory.read]
    · by_cases hx : x = a <;> simp [hb, hx, Memory.read]
  | cons y m ih =>
    obtain ⟨k, c⟩ := y
    obtain ⟨hc, hab, hm⟩ := (Memory.wf_cons k c m).1 h
    unfold Memory.write
    split
    · rename_i hlt
      split
      · rename_i hb
        by_cases hx : x = a
        · subst hx
          have : x ≠ k := by omega
          simp only [Memory.read, this, if_false, if_true]
          rw [Memory.read_above hab (by omega), hb]
        · simp [hx]
      · by_cases hx : x = a <;> simp [Memory.read, hx]
    · split
      · rename_i hak
        subst hak
        split
        · rename_i hb
          by_cases hx : x = a
          · subst hx
            rw [Memory.read_above hab (Nat.le_refl _)]
            simp [hb]
          · simp [Memory.read, hx]
        · by_cases hx : x = a <;> simp [Memory.read, hx]
      · rename_i hne
        by_cases hxk : x = k
        · subst hxk
          have : x ≠ a := fun e => hne e.symm
          simp [Memory.read, this]
        · simp only [Memory.read, hxk, if_false, ih hm]

theorem Memory.writeList_wf {m : Memory} (h : m.wf = true) (a : Nat) (l : List Byte) : (m.writeList a l).wf = true := by
  induction l generalizing m a with
  | nil => exact h
  | cons b l ih => exact ih (Memory.write_wf h a b) (a + 1)

theorem Memory.writeCells_wf {m : Memory} (h : m.wf = true) (l : List (Nat × Byte)) : (m.writeCells l).wf = true := by
  induction l generalizing m with
  | nil => exact h
  | cons c l ih => exact ih (Memory.write_wf h c.1 c.2)

/-- A read after a write of bytes. -/
theorem Memory.read_writeList {m : Memory} (h : m.wf = true) (a x : Nat) (l : List Byte) :
    (m.writeList a l).read x = if a ≤ x then ((l[x - a]?).getD (m.read x)) else m.read x := by
  induction l generalizing m a with
  | nil => simp [Memory.writeList]
  | cons b l ih =>
    simp only [Memory.writeList]
    rw [ih (Memory.write_wf h a b), Memory.read_write h]
    by_cases h1 : x = a
    · subst h1
      have : ¬ x + 1 ≤ x := by omega
      simp [this]
    · by_cases h2 : a + 1 ≤ x
      · have h3 : a ≤ x := by omega
        have h4 : x - a = (x - (a + 1)) + 1 := by omega
        simp [h1, h2, h3, h4]
      · have h3 : ¬ a ≤ x := by omega
        simp [h1, h2, h3]

/-- Bytes outside a write keep their value. -/
theorem Memory.read_writeList_outside {m : Memory} (h : m.wf = true) {a x : Nat} {l : List Byte}
    (hx : x < a ∨ a + l.length ≤ x) : (m.writeList a l).read x = m.read x := by
  rw [Memory.read_writeList h]
  split
  · have : l.length ≤ x - a := by omega
    simp [List.getElem?_eq_none this]
  · rfl

/-- A byte no cell names keeps its value. -/
theorem Memory.read_writeCells_outside {m : Memory} (h : m.wf = true) {x : Nat} {l : List (Nat × Byte)}
    (hx : ∀ c ∈ l, c.1 ≠ x) : (m.writeCells l).read x = m.read x := by
  induction l generalizing m with
  | nil => rfl
  | cons c l ih =>
    have h1 : x ≠ c.1 := fun e => hx c (by simp) e.symm
    simp only [Memory.writeCells]
    rw [ih (Memory.write_wf h _ _) fun d hd => hx d (by simp [hd]), Memory.read_write h]
    simp [h1]

theorem leBytes_length (v n : Nat) : (leBytes v n).length = n := by
  induction n generalizing v with
  | zero => rfl
  | succ n ih => simp [leBytes, ih]

/-- The bytes of a number stand for it. -/
theorem leNat_leBytes (v n : Nat) : leNat (leBytes v n) = v % 2 ^ (8 * n) := by
  induction n generalizing v with
  | zero => simp [leBytes, leNat, Nat.mod_one]
  | succ n ih =>
    have hb : (BitVec.ofNat 8 v).toNat = v % 256 := by simp [BitVec.toNat_ofNat]
    simp only [leBytes, leNat, ih, hb]
    have : (2 : Nat) ^ (8 * (n + 1)) = 256 * 2 ^ (8 * n) := by rw [Nat.mul_add, Nat.pow_add]; simp [Nat.mul_comm]
    rw [this, Nat.mod_mul]

/-! ### Maps of numbers -/

/-- The canonical form of a map with one unlisted value for each key. -/
def NatMap.wf (d : Nat → Nat) : NatMap → Prop
  | [] => True
  | (a, v) :: m => v ≠ d a ∧ (∀ x ∈ m, a < x.1) ∧ NatMap.wf d m

theorem NatMap.getD_above {m : NatMap} {a n d : Nat} (h : ∀ x ∈ m, n < x.1) (ha : a ≤ n) : m.getD a d = d := by
  induction m with
  | nil => rfl
  | cons y m ih =>
    obtain ⟨k, v⟩ := y
    have hk : n < k := h (k, v) (by simp)
    have : a ≠ k := by omega
    simp only [NatMap.getD, this, if_false]
    exact ih fun x hx => h x (by simp [hx])

/-- A register reads what was put into it, and every other one keeps its value. -/
theorem NatMap.getD_put {m : NatMap} {d : Nat → Nat} (h : NatMap.wf d m) (a x v : Nat) :
    (m.put a v (d a)).getD x (d x) = if x = a then v else m.getD x (d x) := by
  induction m with
  | nil =>
    unfold NatMap.put
    by_cases hb : v = d a
    · by_cases hx : x = a <;> simp [hb, hx, NatMap.getD]
    · by_cases hx : x = a <;> simp [hb, hx, NatMap.getD]
  | cons y m ih =>
    obtain ⟨k, w⟩ := y
    obtain ⟨hw, hab, hm⟩ := h
    unfold NatMap.put
    split
    · rename_i hlt
      split
      · rename_i hb
        by_cases hx : x = a
        · subst hx
          have : x ≠ k := by omega
          simp only [NatMap.getD, this, if_false, if_true]
          rw [NatMap.getD_above hab (by omega), hb]
        · simp [hx]
      · by_cases hx : x = a <;> simp [NatMap.getD, hx]
    · split
      · rename_i hak
        subst hak
        split
        · rename_i hb
          by_cases hx : x = a
          · subst hx
            rw [NatMap.getD_above hab (Nat.le_refl _)]
            simp [hb]
          · simp [NatMap.getD, hx]
        · by_cases hx : x = a <;> simp [NatMap.getD, hx]
      · rename_i hne
        by_cases hxk : x = k
        · subst hxk
          have : x ≠ a := fun e => hne e.symm
          simp [NatMap.getD, this]
        · simp only [NatMap.getD, hxk, if_false, ih hm]

theorem NatMap.put_wf {m : NatMap} {d : Nat → Nat} (h : NatMap.wf d m) (a v : Nat) : NatMap.wf d (m.put a v (d a)) := by
  have key : ∀ (m : NatMap) (n : Nat), (∀ x ∈ m, n < x.1) → n < a → ∀ x ∈ m.put a v (d a), n < x.1 := by
    intro m n
    induction m with
    | nil => intro _ ha; unfold NatMap.put; split <;> simp_all
    | cons y m ih =>
      obtain ⟨k, w⟩ := y
      intro h ha
      have hm : ∀ x ∈ m, n < x.1 := fun x hx => h x (by simp [hx])
      have hk : n < k := h (k, w) (by simp)
      unfold NatMap.put
      split
      · split
        · exact h
        · intro x hx
          rcases List.mem_cons.1 hx with rfl | hx
          · exact ha
          · exact h x hx
      · split
        · split
          · exact hm
          · intro x hx
            rcases List.mem_cons.1 hx with rfl | hx
            · exact ha
            · exact hm x hx
        · intro x hx
          rcases List.mem_cons.1 hx with rfl | hx
          · exact hk
          · exact ih hm ha x hx
  induction m with
  | nil =>
    unfold NatMap.put
    split
    · trivial
    · exact ⟨‹_›, by simp, trivial⟩
  | cons y m ih =>
    obtain ⟨k, w⟩ := y
    obtain ⟨hw, hab, hm⟩ := h
    unfold NatMap.put
    split
    · split
      · exact ⟨hw, hab, hm⟩
      · refine ⟨‹_›, ?_, hw, hab, hm⟩
        intro x hx
        rcases List.mem_cons.1 hx with rfl | hx
        · assumption
        · exact Nat.lt_trans ‹a < k› (hab x hx)
    · split
      · split
        · exact hm
        · subst_vars
          exact ⟨‹_›, hab, hm⟩
      · exact ⟨hw, key m k hab (by omega), ih hm⟩

/-! ### Ranges of places -/

/-- A place is in what a cut leaves exactly where it was in and the cut does not take it. -/
theorem inRanges_cutRange (l : List (Nat × Nat)) (lo hi a : Nat) :
    inRanges (cutRange l lo hi) a = (inRanges l a && !(decide (lo ≤ a) && decide (a < hi))) := by
  induction l with
  | nil => rfl
  | cons r l ih =>
    have hc : cutRange (r :: l) lo hi = ((if r.1 < min lo r.2 then [(r.1, min lo r.2)] else [])
      ++ (if max hi r.1 < r.2 then [(max hi r.1, r.2)] else [])) ++ cutRange l lo hi := rfl
    have ha : ∀ x y, inRanges (x ++ y) a = (inRanges x a || inRanges y a) := fun x y => List.any_append
    have hr : inRanges (r :: l) a = (decide (r.1 ≤ a) && decide (a < r.2) || inRanges l a) := rfl
    rw [hc, ha, ih, hr, ha, Bool.and_or_distrib_right]
    congr 1
    rw [Bool.eq_iff_iff]
    split <;> split <;> simp [inRanges] <;> omega

/-- A place is in ranges with one added exactly where it was in or the added one holds it. -/
theorem inRanges_addRange (l : List (Nat × Nat)) (lo hi a : Nat) :
    inRanges (addRange l lo hi) a = (inRanges l a || (decide (lo ≤ a) && decide (a < hi))) := by
  induction l generalizing lo hi with
  | nil =>
    by_cases h : lo < hi
    · simp [addRange, inRanges, h]
    · rw [Bool.eq_iff_iff]; simp [addRange, inRanges, h]; omega
  | cons r l ih =>
    have hr : ∀ (x : Nat × Nat) y, inRanges (x :: y) a = (decide (x.1 ≤ a) && decide (a < x.2) || inRanges y a) := fun _ _ => rfl
    rw [hr, addRange]
    split
    · rw [hr, hr, Bool.or_comm]
    · split
      · rw [hr, ih, Bool.or_assoc]
      · rw [ih, Bool.eq_iff_iff]
        simp only [Bool.or_eq_true, Bool.and_eq_true, decide_eq_true_eq]
        by_cases h : inRanges l a = true
        · simp [h]
        · simp [h]; omega

end Sys2Proof.Machine
end

