-- ==== Sys2Proof/Laws/Crypto.lean ====
section
/-! SUPPORT. The key blobs of R100: what is sealed opens again. -/

namespace Sys2Proof.Machine

@[simp] theorem fitBytes_length (l : List Byte) (n : Nat) : (fitBytes l n).length = n := by simp [fitBytes]
@[simp] theorem beBytes_length (v n : Nat) : (beBytes v n).length = n := by simp [beBytes, leBytes_length]
@[simp] theorem gcmStream_length (key iv : List Byte) (n : Nat) : (gcmStream key iv n).length = n := by
  simp [gcmStream, List.map_const']; omega
@[simp] theorem gcmTag_length (key iv aad ct : List Byte) : (gcmTag key iv aad ct).length = 16 := by simp [gcmTag]
@[simp] theorem xorBytes_length (a b : List Byte) : (xorBytes a b).length = min a.length b.length := by simp [xorBytes]
theorem xorBytes_twice (a b : List Byte) (h : b.length = a.length) : xorBytes (xorBytes a b) b = a := by
  refine List.ext_getElem (by simp [h]) fun i h1 h2 => ?_
  simp [xorBytes, BitVec.xor_assoc]

theorem gcmOpen_gcmSeal (key iv aad text : List Byte) :
    gcmOpen key iv aad (gcmSeal key iv aad text).1 (gcmSeal key iv aad text).2 = some text := by
  simp [gcmOpen, gcmSeal, xorBytes_twice]

/-- A blob opens to the key it was made of. -/
theorem openBlob_blobOf (key iv : List Byte) (dom : Nat) : openBlob (blobOf key iv dom) = some (fitBytes key 64) := by
  have h := gcmOpen_gcmSeal wrappingKey (fitBytes iv 12) [BitVec.ofNat 8 dom, 0, 0, 0] (fitBytes key 64)
  have hc : (gcmSeal wrappingKey (fitBytes iv 12) [BitVec.ofNat 8 dom, 0, 0, 0] (fitBytes key 64)).1.length = 64 := by simp [gcmSeal]
  have ht : (gcmSeal wrappingKey (fitBytes iv 12) [BitVec.ofNat 8 dom, 0, 0, 0] (fitBytes key 64)).2.length = 16 := by simp [gcmSeal]
  have hi := fitBytes_length iv 12
  simp only [openBlob, blobOf]
  generalize gcmSeal wrappingKey (fitBytes iv 12) [BitVec.ofNat 8 dom, 0, 0, 0] (fitBytes key 64) = x at *
  generalize fitBytes iv 12 = y at *
  rw [← h]
  congr 1 <;> simp [List.take_append, List.drop_append, hc, ht, hi, List.take_of_length_le, List.drop_of_length_le]

/-- A blob has 96 bytes. -/
@[simp] theorem blobOf_length (key iv : List Byte) (dom : Nat) : (blobOf key iv dom).length = 96 := by simp [blobOf, gcmSeal]

end Sys2Proof.Machine
end

