-- ==== Sys2Proof/Laws/Lanes.lean ====
section
/-! SUPPORT. Lanes: what packing, put and the flags of lane results hold lane by lane (R320 to R322). -/

namespace Sys2Proof.Machine

theorem lane_packLanes (n : Nat) (l : List Nat) (i : Nat) :
    lane (packLanes n l) n i = (l[i]?).getD 0 % 2 ^ n := by
  induction l generalizing i with
  | nil => simp [packLanes, lane, bits]
  | cons r rs ih =>
    cases i with
    | zero =>
      simp [packLanes, lane, bits]
    | succ i =>
      have h := ih i
      simp only [lane, bits, packLanes] at h ⊢
      rw [Nat.mul_succ, Nat.pow_add, Nat.mul_comm (2 ^ (n * i)), ← Nat.div_div_eq_div_mul,
        Nat.add_mul_div_left _ _ (Nat.two_pow_pos n), Nat.div_eq_of_lt (Nat.mod_lt _ (Nat.two_pow_pos n)), Nat.zero_add, h]
      simp

theorem packLanes_lt (n : Nat) (l : List Nat) : packLanes n l < 2 ^ (n * l.length) := by
  induction l with
  | nil => simp [packLanes]
  | cons r rs ih =>
    simp only [packLanes, List.length_cons, Nat.mul_succ, Nat.pow_add, Nat.mul_comm (2 ^ (n * rs.length))]
    have h1 := Nat.mod_lt r (Nat.two_pow_pos n)
    have h2 : 2 ^ n * packLanes n rs + 2 ^ n ≤ 2 ^ n * 2 ^ (n * rs.length) := by
      rw [← Nat.mul_succ]; exact Nat.mul_le_mul_left _ ih
    omega

theorem lane_lt (x n i : Nat) : lane x n i < 2 ^ n := Nat.mod_lt _ (Nat.two_pow_pos n)

/-- Lane i of a put of results. -/
theorem lane_putAll (m : Nat) (on : Nat → Bool) (zero : Bool) (old : Nat) (rs : List LaneRes) (i : Nat)
    (h : i < rs.length) :
    lane (putAll m on zero old rs) m i =
      if on i then (rs[i].1 % 2 ^ m).toNat else if zero then 0 else lane old m i := by
  have hp : ∀ y : Int, (y % 2 ^ m).toNat % 2 ^ m = (y % 2 ^ m).toNat := fun y => by
    apply Nat.mod_eq_of_lt
    have hpos : (0 : Int) < 2 ^ m := Int.pow_pos (by decide)
    have h1 := Int.emod_lt_of_pos y hpos
    have h2 := Int.emod_nonneg y (Int.ne_of_gt hpos)
    have hc : ((2 ^ m : Nat) : Int) = 2 ^ m := by simp
    omega
  rw [putAll, lane_packLanes]
  simp only [List.getElem?_map, List.getElem?_zipIdx, List.getElem?_eq_getElem h, Option.map_some, Option.getD_some,
    Nat.zero_add]
  split
  · exact hp _
  · split
    · simp
    · exact Nat.mod_eq_of_lt (lane_lt _ _ _)

theorem putAll_lt (m : Nat) (on : Nat → Bool) (zero : Bool) (old : Nat) (rs : List LaneRes) :
    putAll m on zero old rs < 2 ^ (m * rs.length) := by
  have h := packLanes_lt m ((List.zipIdx rs).map fun x => if on x.2 then pat x.1.1 m else if zero then 0 else lane old m x.2)
  simpa [putAll] using h

theorem flagsOf_foldl (on : Nat → Bool) (g : Nat → LaneRes) (n : Nat) (f : BitVec 5) :
    ((List.range n).map g).zipIdx.foldl (fun f x => if on x.2 then f ||| x.1.2 else f) f
      = f ||| flagsOf on (fun i => (g i).2) n := by
  induction n with
  | zero => simp [flagsOf]
  | succ n ih =>
    rw [List.range_succ, List.map_append, List.zipIdx_append, List.foldl_append, ih]
    simp only [List.map_cons, List.map_nil, List.length_map, List.length_range, List.zipIdx_cons, List.zipIdx_nil,
      List.foldl_cons, List.foldl_nil, Nat.zero_add, flagsOf]
    split <;> simp [BitVec.or_assoc]

/-- The flags of results made lane by lane. -/
theorem laneFlags_map (on : Nat → Bool) (g : Nat → LaneRes) (n : Nat) :
    laneFlags on ((List.range n).map g) = flagsOf on (fun i => (g i).2) n := by
  simp [laneFlags, flagsOf_foldl]

/-- Put of results made lane by lane. -/
theorem lane_putAll_map (m : Nat) (on : Nat → Bool) (zero : Bool) (old : Nat) (g : Nat → LaneRes) (l i : Nat) (h : i < l) :
    lane (putAll m on zero old ((List.range l).map g)) m i =
      if on i then ((g i).1 % 2 ^ m).toNat else if zero then 0 else lane old m i := by
  have := lane_putAll m on zero old ((List.range l).map g) i (by simpa using h)
  simpa using this

end Sys2Proof.Machine
end

