-- ==== Sys2Proof/Laws/Ops.lean ====
section
/-! SUPPORT. What the shared operations do: the trap checks around an operation, reading a source, taking an entry,
putting a result in flight. -/

namespace Sys2Proof.Machine

/-! ### The trap checks of an operation (R202) -/

theorem clear_parts {s : State} {i : Instr} (h : s.clear i = true) :
    s.illegal i = false ∧ s.gatedOp i = false ∧ s.rd.xlate = none ∧ s.failedOp i = none ∧ s.poisOp i = (0, 0, 0) := by
  simp only [State.clear, Bool.and_eq_true, Bool.not_eq_true', Option.isNone_iff_eq_none, beq_iff_eq] at h
  exact ⟨h.1.1.1.1, h.1.1.1.2, h.1.1.2, h.1.2, h.2⟩

/-- An operation that raises no trap has its effect. -/
theorem op_clear {s : State} {i : Instr} (h : s.clear i = true) (k : State → State) : s.op i k = k s := by
  obtain ⟨h1, h2, h3, h4, h5⟩ := clear_parts h
  simp [State.op, h1, h2, h3, h4, h5]

theorem op_illegal {s : State} {i : Instr} (h : s.illegal i = true) (k : State → State) :
    s.op i k = s.raise causeIllegal 0 0 := by simp [State.op, h]

theorem op_gated {s : State} {i : Instr} (h : s.illegal i = false) (h' : s.gatedOp i = true) (k : State → State) :
    s.op i k = s.raise causeGated 0 0 := by simp [State.op, h, h']

theorem op_xlate {s : State} {i : Instr} (h : s.illegal i = false) (h' : s.gatedOp i = false) {v p : Word}
    (hx : s.rd.xlate = some (v, p)) (k : State → State) :
    s.op i k = (s.setCur fun c => { c with xlate := none }).raise causeXlate v p := by simp [State.op, h, h', hx]

theorem op_failed {s : State} {i : Instr} (h : s.illegal i = false) (h' : s.gatedOp i = false) (hx : s.rd.xlate = none)
    {b : Binding} (hf : s.failedOp i = some b) (k : State → State) :
    s.op i k = s.raise causeXlate b.failVal b.failProg := by simp [State.op, h, h', hx, hf]

theorem op_poison {s : State} {i : Instr} (h : s.illegal i = false) (h' : s.gatedOp i = false) (hx : s.rd.xlate = none)
    (hf : s.failedOp i = none) {ps pv : BitVec 32} {pq : BitVec 8} (hp : s.poisOp i = (ps, pv, pq))
    (hn : (ps, pv, pq) ≠ (0, 0, 0)) (k : State → State) :
    s.op i k = s.raise causePoison (ps.setWidth 64) (pv.setWidth 64 ||| (pq.setWidth 64 <<< 32)) := by
  have : (ps != 0 || pv != 0 || pq != 0) = true := by
    simp only [Bool.or_eq_true, bne_iff_ne, ne_eq]
    simp only [ne_eq, Prod.mk.injEq] at hn
    by_cases h1 : ps = 0#32
    · by_cases h2 : pv = 0#32
      · by_cases h3 : pq = 0#8
        · exact absurd ⟨h1, h2, h3⟩ hn
        · exact .inr h3
      · exact .inl (.inr h2)
    · exact .inl (.inl h1)
  simp only [State.op, h, h', hx, hf, hp, this, if_true, Bool.false_eq_true, if_false]

/-! ### Taking an entry (R192) -/

@[simp] theorem State.takeEntry_issueCur (s : State) (q : QNo) (r : List SEntry) :
    (s.takeEntry q r).issueCur = s.issueCur := by
  simp only [State.takeEntry]; split <;> rfl
@[simp] theorem State.takeEntry_freeCtr (s : State) (q : QNo) (r : List SEntry) :
    (s.takeEntry q r).freeCtr = s.freeCtr := by
  simp only [State.takeEntry]; split <;> rfl
@[simp] theorem State.takeEntry_slotNow (s : State) (q : QNo) (r : List SEntry) :
    (s.takeEntry q r).slotNow = s.slotNow := by
  simp only [State.takeEntry]; split <;> rfl
@[simp] theorem State.takeEntry_cycle (s : State) (q : QNo) (r : List SEntry) :
    (s.takeEntry q r).cycle = s.cycle := by
  simp only [State.takeEntry]; split <;> rfl
@[simp] theorem State.takeEntry_mem (s : State) (q : QNo) (r : List SEntry) :
    (s.takeEntry q r).mem = s.mem := by
  simp only [State.takeEntry]; split <;> rfl

/-- Taking an entry leaves the context but for its stream. -/
theorem State.takeEntry_cur (s : State) (q : QNo) (r : List SEntry) :
    ∃ b, (s.takeEntry q r).cur = { s.cur with q := s.cur.q.set q b } := by
  simp only [State.takeEntry]; split <;> exact ⟨_, rfl⟩

/-- Two states whose operands read alike. -/
theorem State.rd_takeEntry (s : State) (q : QNo) (r : List SEntry) :
    ∃ v, (s.takeEntry q r).rd = { s.rd with q := v } := by
  obtain ⟨b, hb⟩ := s.takeEntry_cur q r
  cases h : s.issueCur with
  | none => exact ⟨s.cur.q.set q b, by simp only [State.rd, State.takeEntry_issueCur, h, hb, Option.getD_none]⟩
  | some c => exact ⟨c.q, by simp only [State.rd, State.takeEntry_issueCur, h, Option.getD_some]⟩

@[simp] theorem State.takeEntry_readS (s : State) (q : QNo) (r : List SEntry) (n : Nat) :
    (s.takeEntry q r).readS n = s.readS n := by
  obtain ⟨v, h⟩ := s.rd_takeEntry q r
  simp [State.readS, State.free, State.key, h, Ctx.sBusy]
@[simp] theorem State.takeEntry_readV (s : State) (q : QNo) (r : List SEntry) (n : Nat) :
    (s.takeEntry q r).readV n = s.readV n := by
  obtain ⟨v, h⟩ := s.rd_takeEntry q r
  simp [State.readV, State.free, State.key, h, Ctx.vBusy]
@[simp] theorem State.takeEntry_readM (s : State) (q : QNo) (r : List SEntry) (n : Nat) :
    (s.takeEntry q r).readM n = s.readM n := by
  obtain ⟨v, h⟩ := s.rd_takeEntry q r
  simp [State.readM, State.free, State.key, h, Ctx.mBusy]
@[simp] theorem State.takeEntry_csr (s : State) (q : QNo) (r : List SEntry) :
    (s.takeEntry q r).cur.csr = s.cur.csr := by
  obtain ⟨b, hb⟩ := s.takeEntry_cur q r
  simp [hb]

/-! ### Sources (R192, R193) -/

/-- A source that is there is read, and popped where it is a stream. -/
theorem src_source {s s' : State} {str me : Str} {w : VW} {n : VNo} {x : Nat} (h : s.source str me w n = some (x, s'))
    (k : State → Nat → State) : s.src str me w n k = k s' x := by
  simp only [State.source] at h
  simp only [State.src]
  by_cases he : str = me
  · simp only [if_pos he] at h ⊢
    split at h
    · rename_i hk
      obtain ⟨hk, hw⟩ := hk
      split at h
      · rename_i e rest hes
        cases h
        have : ((s.cur.q[qOf n.val].kind != .read && s.cur.q[qOf n.val].kind != .gather) || s.cur.q[qOf n.val].w != w)
            = false := by
          rw [hw]
          rcases hk with hk | hk <;> rw [hk] <;> cases w <;> rfl
        simp only [State.pop, this, hes, Bool.false_eq_true, if_false]
      · cases h
    · cases h
  · simp only [if_neg he] at h ⊢
    cases h
    rfl

/-- A source leaves every register and mask as it was. -/
theorem source_frame {s s' : State} {str me : Str} {w : VW} {n : VNo} {x : Nat} (h : s.source str me w n = some (x, s')) :
    (∀ m, s'.readV m = s.readV m) ∧ (∀ m, s'.readM m = s.readM m) ∧ (∀ m, s'.readS m = s.readS m) ∧
      s'.cur.csr = s.cur.csr ∧ s'.mem = s.mem ∧ s'.cycle = s.cycle := by
  simp only [State.source] at h
  split at h
  · split at h
    · split at h
      · cases h; simp
      · cases h
    · cases h
  · cases h; simp

end Sys2Proof.Machine
end

