-- ==== Sys2Proof/Tests/Slice0.lean ====
section
/-! SUPPORT. Tests of the model on worked examples of the spec, and a state for the hypotheses of each statement. -/

open Sys2Proof Sys2Proof.Machine

namespace Sys2Proof.Tests

set_option Elab.async false

/-! ### States -/

/-- A running context at the first bundle of its code, with every feature active. -/
def w : State := State.reset.withFetchWord 32 0
/-- The same with scalar and culvert registers set. -/
def w.at (l m : List (Nat × Word)) : State := w.setCur fun c =>
  { c with s := l.foldl (fun v x => v.setIfInBounds x.1 x.2) c.s, k := m.foldl (fun v x => v.setIfInBounds x.1 x.2) c.k }
/-- The same with one vector register set. -/
def w.vec (n : Nat) (x : Nat) : State := w.setCur fun c => { c with v := c.v.setIfInBounds n (BitVec.ofNat 1024 x) }
/-- A context with its core's bookkeeping changed. -/
def w.ctx (f : Ctx → Ctx) : State := w.setCur f
/-- The results put in flight by an operation. -/
def outs (s : State) (i : Instr) : List RegWrite := (s.run i).cur.writes
/-- The flags put in flight by an operation. -/
def flagsOut (s : State) (i : Instr) : List (BitVec 5) := (s.run i).cur.flags.map FlagLand.flags
/-- The pending or taken trap of an operation. -/
def trapOf (s : State) (i : Instr) : Option Nat := (s.run i).raised.map Trap.cause

/-! ### Well-formedness: a term that each check refuses (R264 to R275) -/

theorem wf_refuses : ∀ i ∈ [
    (.br ⟨true, 0, 1⟩ ⟨false, 0, 0⟩ ⟨false, 0, 0⟩ ⟨false, 0, 0⟩ : Instr),
    .br ⟨false, 0, 0⟩ ⟨true, 0, 1⟩ ⟨false, 0, 0⟩ ⟨false, 0, 0⟩, .br ⟨false, 0, 0⟩ ⟨false, 0, 0⟩ ⟨true, 0, 1⟩ ⟨false, 0, 0⟩,
    .br ⟨false, 0, 0⟩ ⟨false, 0, 0⟩ ⟨false, 0, 0⟩ ⟨true, 0, 1⟩, .loopn 1 7, .loops 2 1 0, .loopb 3 0, .semw 3 8,
    .ext 1 2 63 1 false, .ld2 3 1 0, .st2 3 1 0, .vadd ⟨false, .w256, .i8, 1, 8, 3, 0, .a⟩,
    .vadd ⟨true, .w256, .i8, 1, 2, 3, 0, .d⟩, .vadd ⟨false, .w256, .i8, 9, 2, 3, 0, .d⟩,
    .vadd ⟨false, .w256, .i8, 1, 2, 9, 0, .b⟩, .vmac ⟨false, .w256, .i8, 1, 2, 3, 0, .d⟩,
    .vmulw ⟨false, .w256, .i32, 2, 2, 3, 0, .none⟩, .vmulw ⟨false, .w256, .i16, 3, 2, 3, 0, .none⟩,
    .vmacw ⟨false, .w256, .i16, 2, 2, 3, 0, .d⟩, .vshl ⟨false, .w256, .i4, 1, 2, 3, 0, .none⟩,
    .vshra ⟨false, .w256, .n8, 1, 2, 3, 0, .none⟩, .vpack4 ⟨false, .w256, .i16, 1, 2, 3, 0, .none⟩,
    .vneg ⟨false, .w256, .n8, 1, 2, 0, .none⟩, .vwiden ⟨false, .w256, .n32, 2, 2, 0, .none⟩,
    .vwiden ⟨false, .w256, .i8, 3, 2, 0, .none⟩, .vredadd ⟨false, .w256, .i4, 1, 2, 0, .none⟩,
    .vredadd ⟨false, .w256, .i8, 1, 2, 0, .b⟩, .vexp2 ⟨false, .w256, .i16, 1, 2, 0, .none⟩,
    .vsgnmap ⟨false, .w256, .n8, 1, 2, 0, .none⟩, .vsgnmap ⟨false, .w256, .i8, 1, 2, 1, .none⟩,
    .vshrsRne ⟨false, .w256, .i4, 1, 2, 0, 0, .none⟩, .vnarrowRtz ⟨false, .w256, .n8, 1, 2, 0, 0, .none⟩,
    .vbcast ⟨false, .w256, .i32, 1, 2, 8, 0, .none⟩, .vunpack4 ⟨false, .w256, .i4, 1, 2, 2, 0, .none⟩,
    .vunpack4 ⟨false, .w256, .i8, 1, 2, 0, 0, .none⟩, .vbsenc ⟨false, .w256, .i16, 1, 2, 0, 0, .none⟩,
    .vbsdec ⟨false, .w256, .i16, 1, 2, 0, 0, .none⟩, .vsgnapply ⟨false, .w256, .i8, 1, 2, 2, 0, .none⟩,
    .vcmp ⟨.w256, .i4, .eq, 1, 2, 3, 0, .none⟩, .vcmp ⟨.w256, .i8, .eq, 1, 2, 3, 0, .d⟩, .vmpop ⟨false, .w256, .i4, 1, 2, 0⟩,
    .vscan ⟨false, .w256, .i8, 1, 2, false, 3, 0, .none⟩, .vlds ⟨false, .w256, .i4, 1, 2, 0, 0⟩,
    .vsts ⟨.w256, .i4, 0, 1, 2, 0⟩, .vscatter ⟨.w256, .i4, 0, 1, 2, 0⟩, .vmovx ⟨.w256, .i32, 1, 2, 8⟩, .mspecf 0 13 0,
    .mspecf 0 0 2048, .mrdacc 0 1 1, .mwait false false false, .mfill .i32 .ones false false,
    .coffl 0 1 2 3 .i8 .bs4 false false, .crest 0 1 2 3 .i32 .bs4 false false, .fst 0 1 16 false .b8, .fatom 0 1 2 3 false 10,
    .lqpop 0 1 0 2], i.wf = false := by decide +kernel

theorem wf_accepts : ∀ i ∈ [(.loopn 1 6 : Instr), .loopb 63 4194303, .ext 1 2 63 0 true, .ld2 2 1 0,
    .vmulw ⟨true, .w1024, .i4, 30, 7, 31, 7, .a⟩, .vadd ⟨false, .w256, .i8, 7, 2, 3, 0, .d⟩, .mspecf 7 0 2047,
    .mwait true false false, .fst 0 1 31 true .b8, .fatom 0 1 2 3 true 9, .semw 7 16], i.wf = true := by decide +kernel

/-! ### The S slot -/

/-- Hypotheses of the scalar statements, at register 0 as a destination too. -/
theorem wit_scalar : ∀ i ∈ [(.add 0 2 3 : Instr), .add 1 2 3, .sub 1 2 3, .mul 1 2 3, .mulh 1 2 3, .mulhn 1 2 3, .div 1 2 3,
    .divn 1 2 3, .rem 1 2 3, .remn 1 2 3, .addi 1 2 0x4000, .and 1 2 3, .or 1 2 3, .xor 1 2 3, .andi 1 2 0x7FFF, .ori 1 2 5,
    .xori 1 2 5, .min 1 2 3, .max 1 2 3, .minn 1 2 3, .maxn 1 2 3, .lil 1 5, .lih 1 5, .shl 1 2 3, .shr 1 2 3, .shra 1 2 3,
    .shlImm 1 2 63, .shrImm 1 2 0, .shraImm 1 2 5, .clz 1 2, .ctz 1 2, .popc 1 2, .ext 1 2 63 0 true, .ext 1 2 0 63 false,
    .pcmp 1 2 3 .lt, .pcmp 0 2 3 .geu, .plog 3 1 2 8, .sel 1 2 3 4, .movxV 1 5 15, .movxK 1 15, .csrr 1 0xFFF, .csrw 2 12,
    .csrw 2 0, .fence .ctx, .fence .job, .fenceQ, .rand 5], w.clear i = true := by decide +kernel

theorem test_add_wraps : outs (w.at [(2, 2 ^ 63 - 1), (3, 1)] []) (.add 1 2 3) = [⟨1, .s 1 (2 ^ 63) false⟩] ∧
    flagsOut (w.at [(2, 2 ^ 63 - 1), (3, 1)] []) (.add 1 2 3) = [flagWrap] := by decide +kernel
theorem test_sub : outs (w.at [(2, 5), (3, 7)] []) (.sub 1 2 3) = [⟨1, .s 1 (-2) false⟩] := by decide +kernel
theorem test_mul_mulh : outs (w.at [(2, -3), (3, 5)] []) (.mul 1 2 3) = [⟨3, .s 1 (-15) false⟩] ∧
    outs (w.at [(2, -3), (3, 5)] []) (.mulh 1 2 3) = [⟨3, .s 1 (-1) false⟩] ∧
    outs (w.at [(2, -1), (3, 5)] []) (.mulhn 1 2 3) = [⟨3, .s 1 4 false⟩] := by decide +kernel
/-- R309: −7 by 2 gives −3 and −1; DIVN of the same pattern. -/
theorem test_div_rem : outs (w.at [(2, -7), (3, 2)] []) (.div 1 2 3) = [⟨20, .s 1 (-3) false⟩] ∧
    outs (w.at [(2, -7), (3, 2)] []) (.rem 1 2 3) = [⟨20, .s 1 (-1) false⟩] ∧
    outs (w.at [(2, -7), (3, 2)] []) (.divn 1 2 3) = [⟨20, .s 1 0x7FFFFFFFFFFFFFFC false⟩] ∧
    outs (w.at [(2, 7)] []) (.remn 1 2 3) = [⟨20, .s 1 7 false⟩] ∧ flagsOut (w.at [(2, 7)] []) (.remn 1 2 3) = [flagDivz] :=
  by decide +kernel
theorem test_div_wraps : outs (w.at [(2, 2 ^ 63), (3, -1)] []) (.div 1 2 3) = [⟨20, .s 1 (2 ^ 63) false⟩] ∧
    flagsOut (w.at [(2, 2 ^ 63), (3, -1)] []) (.div 1 2 3) = [flagWrap] ∧
    flagsOut (w.at [(2, 2 ^ 63), (3, -1)] []) (.rem 1 2 3) = [] := by decide +kernel
theorem test_logic : outs (w.at [(2, 12), (3, 10)] []) (.and 1 2 3) = [⟨1, .s 1 8 false⟩] ∧
    outs (w.at [(2, 12), (3, 10)] []) (.or 1 2 3) = [⟨1, .s 1 14 false⟩] ∧
    outs (w.at [(2, 12), (3, 10)] []) (.xor 1 2 3) = [⟨1, .s 1 6 false⟩] ∧
    outs (w.at [(2, -1)] []) (.andi 1 2 0x4001) = [⟨1, .s 1 0xFFFFFFFFFFFFC001 false⟩] ∧
    outs w (.ori 1 2 0x7FFF) = [⟨1, .s 1 0x7FFF false⟩] ∧ outs w (.xori 1 2 0x4000) = [⟨1, .s 1 0x4000 false⟩] ∧
    outs w (.addi 1 0 0x7FFF) = [⟨1, .s 1 (-1) false⟩] := by decide +kernel
theorem test_shifts : outs (w.at [(2, -8), (3, 65)] []) (.shl 1 2 3) = [⟨1, .s 1 (-16) false⟩] ∧
    outs (w.at [(2, -8), (3, 65)] []) (.shra 1 2 3) = [⟨1, .s 1 (-4) false⟩] ∧
    outs (w.at [(2, -8), (3, 63)] []) (.shr 1 2 3) = [⟨1, .s 1 1 false⟩] ∧
    outs (w.at [(2, -8)] []) (.shlImm 1 2 63) = [⟨1, .s 1 0 false⟩] ∧
    outs (w.at [(2, -8)] []) (.shrImm 1 2 60) = [⟨1, .s 1 15 false⟩] ∧
    outs (w.at [(2, -8)] []) (.shraImm 1 2 3) = [⟨1, .s 1 (-1) false⟩] := by decide +kernel
theorem test_minmax : outs (w.at [(2, -1), (3, 1)] []) (.min 1 2 3) = [⟨1, .s 1 (-1) false⟩] ∧
    outs (w.at [(2, -1), (3, 1)] []) (.max 1 2 3) = [⟨1, .s 1 1 false⟩] ∧
    outs (w.at [(2, -1), (3, 1)] []) (.minn 1 2 3) = [⟨1, .s 1 1 false⟩] ∧
    outs (w.at [(2, -1), (3, 1)] []) (.maxn 1 2 3) = [⟨1, .s 1 (-1) false⟩] := by decide +kernel
theorem test_counts : outs w (.clz 1 2) = [⟨1, .s 1 64 false⟩] ∧ outs (w.at [(2, 0x0F00)] []) (.clz 1 2) = [⟨1, .s 1 52 false⟩] ∧
    outs w (.ctz 1 2) = [⟨1, .s 1 64 false⟩] ∧ outs (w.at [(2, 0x0F00)] []) (.ctz 1 2) = [⟨1, .s 1 8 false⟩] ∧
    outs (w.at [(2, 0x0F00)] []) (.popc 1 2) = [⟨1, .s 1 4 false⟩] := by decide +kernel
theorem test_ext : outs (w.at [(2, 0x0F00)] []) (.ext 1 2 8 3 true) = [⟨1, .s 1 (-1) false⟩] ∧
    outs (w.at [(2, 0x0F00)] []) (.ext 1 2 8 3 false) = [⟨1, .s 1 15 false⟩] ∧
    trapOf w (.ext 1 2 63 1 false) = some causeIllegal := by decide +kernel
/-- R311: the three bundles that build 0x0123456789ABCDEF, two of them. -/
theorem test_constants : outs w (.lil 7 0x12345) = [⟨1, .s 7 0x12345 false⟩] ∧ outs w (.lil 7 0xFFFFF) = [⟨1, .s 7 (-1) false⟩] ∧
    outs (w.at [(7, 0x12345)] []) (.lih 7 0x6789A) = [⟨1, .s 7 0x123456789A false⟩] ∧
    outs (w.at [(7, 0x123456789A)] []) (.lih 7 0xBCDEF) = [⟨1, .s 7 0x123456789ABCDEF false⟩] := by decide +kernel
theorem test_predicates : outs (w.at [(2, -1), (3, 1)] []) (.pcmp 1 2 3 .lt) = [⟨1, .p 1 true⟩] ∧
    outs (w.at [(2, -1), (3, 1)] []) (.pcmp 1 2 3 .ltu) = [⟨1, .p 1 false⟩] ∧ outs w (.plog 3 1 0 3) = [⟨1, .p 3 true⟩] ∧
    outs w (.plog 3 1 0 8) = [⟨1, .p 3 false⟩] ∧ outs (w.at [(2, 7), (3, 9)] []) (.sel 1 2 3 0) = [⟨1, .s 1 7 false⟩] ∧
    outs (w.at [(2, 7), (3, 9)] []) (.sel 1 2 3 4) = [⟨1, .s 1 9 false⟩] ∧ outs w (.pcmp 0 2 3 .eq) = [] ∧
    outs w (.add 0 2 3) = [] := by decide +kernel
/-- R233, R318: the first draw of the seed printed there. -/
theorem test_rand : outs (w.ctx fun c => c.setCsr csrSeed 0x9E3779B97F4A7C15) (.rand 5) = [⟨3, .s 5 0xE220A8397B1DCDAF false⟩] ∧
    (w.run (.rand 5)).cur.csrs csrHashCtr = 1 := by decide +kernel
theorem test_moves : outs (w.vec 5 (7 * 2 ^ 128)) (.movxV 3 5 2) = [⟨3, .s 3 7 false⟩] ∧
    outs (w.at [] [(4, 9)]) (.movxK 3 4) = [⟨3, .s 3 9 false⟩] ∧ outs w (.csrr 3 0xFFF) = [⟨1, .s 3 0 false⟩] ∧
    outs w (.csrr 3 0x43) = [⟨1, .s 3 1000 false⟩] ∧ (((w.at [(4, -1)] []).run (.csrw 4 0)).cur.csrs 0) = 0xFFFF ∧
    trapOf w (.csrw 4 0x40) = some causeIllegal := by decide +kernel
theorem test_fences : (w.run (.fence .pkg)).cur.newFence = [.pkg] ∧
    (((w.setCur fun c => { c with q := c.q.set 1 { Binding.unbound with kind := .read, entries := [⟨5, false, 0, 0, []⟩] } }).run
      .fenceQ).cur.q[1]).entries = [] := by decide +kernel

/-- Loads and stores of the own share, at its last byte and at the bounds of alignment. -/
theorem wit_scalar_memory : w.clear (.ld 1 2 .i8 16) = true ∧ w.reaches 16 1 true = true ∧ w.clear (.ld2 2 3 0) = true ∧
    w.reaches 0 16 true = true ∧ w.clear (.st 1 2 .b8 8) = true ∧ w.reaches 8 8 false = true ∧ w.clear (.st2 2 3 0) = true ∧
    w.reaches 0 16 false = true ∧ isFar 8 = false ∧ w.landedNow = [] ∧ w.reaches (2 ^ 22 - 1) 1 true = true ∧
    w.reaches (2 ^ 22 - 1) 2 true = false ∧ w.reaches (2 ^ 22) 1 true = true ∧ w.reaches (-1) 1 true = false ∧ w.reaches (2 ^ 32) 1 true = false := by decide +kernel
theorem wit_canonical : w.Canonical := by unfold State.Canonical; decide
/-- A polder mate's share, with P = 1. -/
theorem wit_peer_stores : isFar (2 ^ 24) = true ∧ (w.at [(2, 2 ^ 24)] []).clear (.st 1 2 .b8 0) = true ∧
    w.reaches (2 ^ 24) 8 false = true ∧ (w.at [(2, 2 ^ 24)] []).clear (.st2 2 2 0) = true ∧
    w.reaches (2 ^ 24) 16 false = true := by decide +kernel
theorem wit_address_traps : w.reaches (-1) 1 true = false ∧ w.reaches (-1) 8 false = false ∧ w.clear (.ld 1 2 .i8 0xFFF) = true ∧
    w.clear (.st 1 2 .b8 0xFFF) = true ∧ w.clear (.ld2 2 3 0xFFF) = true ∧ w.clear (.st2 2 3 0xFFF) = true ∧
    w.reaches (-1) 16 true = false ∧ w.reaches (-1) 16 false = false ∧
    (w.at [] [(1, 2 ^ 56)]).opAddr 1 true = none ∧ (w.at [] [(1, 2 ^ 56)]).opAddr 1 false = none ∧
    (w.at [] [(1, 2 ^ 56)]).clear (.ccopy 1 2 3 4 false false true) = true ∧
    (w.at [] [(1, 2 ^ 56)]).clear (.publ 1 4 false) = true ∧ (w.at [] [(1, 2 ^ 56)]).clear (.ccopya 1 true 2) = true ∧
    (w.at [] [(1, 8)]).opAddr 1 true = some ⟨.loc, 8⟩ ∧ (w.at [] [(1, 2 ^ 26)]).opAddr 1 true = some ⟨.loc, 2 ^ 26⟩ ∧
    w.rangeOk ⟨.loc, 2 ^ 26⟩ 16 false = false ∧ (w.at [] [(1, 16)]).objAddr 1 true false = some ⟨.loc, 16⟩ ∧
    (w.setCur fun c => { c with eng := List.replicate 16 ⟨0, false, 0, .csig 0 0, none, .waiting, 0, [], [], 0, [], 0, 255, [], 0, [], 0, 0, true, false, false, 0, 0⟩
      }).hasEntry = false := by decide +kernel
theorem test_load_store : outs (w.poke (w.cur.place 16) [0x80, 1]) (.ld 1 2 .i8 16) = [⟨4, .s 1 (-128) false⟩] ∧
    outs (w.poke (w.cur.place 16) [0x80, 1]) (.ld 1 2 .n16 16) = [⟨4, .s 1 0x180 false⟩] ∧
    ((w.at [(1, 0x1234)] []).run (.st 1 2 .b2 8)).mem.read (w.cur.place 9) = 0x12 ∧
    (outs (w.poke (w.cur.place 16) [5, 0, 0, 0, 0, 0, 0, 0, 6]) (.ld2 2 3 16)).length = 2 ∧
    ((w.at [(3, 6)] []).run (.st2 2 4 0)).mem.read (w.cur.place 8) = 6 := by decide +kernel
theorem test_peer_store : (((w.at [(1, 7), (2, 2 ^ 24)] []).run (.st 1 2 .b1 0)).peers.map fun p => (p.due, p.cells.length)) =
    [(8, 1)] ∧ trapOf (w.at [(2, -1)] []) (.ld 1 2 .i8 0) = some causeAddress := by decide +kernel

/-! ### The V slots -/

def two : VTwo := ⟨false, .w512, .i16, 3, 4, 5, 1, .none⟩
def one : VOne := ⟨false, .w512, .i16, 4, 5, 0, .none⟩
def imm : VImm := ⟨false, .w512, .i16, 3, 5, 1, 0, .none⟩
/-- Stream q1 bound for reads of 512 bits, with one entry. -/
def wq : State := w.setCur fun c => { c with q := c.q.set 1 { Binding.unbound with
  kind := .read, w := .w512, entries := [⟨7, false, 0, 0, []⟩] } }
/-- Lanes of 16 bits of the low result put in flight. -/
def lane16 (s : State) (i : Instr) (k : Nat) : Option Nat :=
  match outs s i with
  | ⟨_, .v _ x _⟩ :: _ => some (lane x.toNat 16 k)
  | _ => none
/-- Two registers of lanes. -/
def vv (x y : Nat) : State := (w.vec 4 x).setCur fun c => { c with v := c.v.set 5 (BitVec.ofNat 1024 y), m := c.m.set 1 (-1) }

theorem wit_vector_two : ∀ f ∈ [Instr.vadd, .vsub, .vadds, .vsubs, .vmin, .vmax, .vmul, .vmulh, .vmac, .vand, .vor, .vxor, .vshl,
    .vshr, .vshra, .vperm, .vshrrRne, .vshrrRtz, .vshrrRsto, .vsel], w.clear (f two) = true := by decide +kernel
theorem wit_vector_source (s : State) (n : VNo) : s.source .none .a .w512 n = some ((s.readV n.val).toNat, s) := rfl
theorem wit_vector_stream : (wq.source .a .a .w512 1).isSome = true ∧ (wq.source .a .b .w512 1).isSome = true ∧
    wq.clear (.vadd ⟨false, .w512, .i16, 3, 1, 5, 1, .a⟩) = true ∧ (wq.source .d .a .w512 1).isSome = true := by decide +kernel
theorem wit_vector_imm : ∀ f ∈ [Instr.vshrsRne, .vshrsRtz, .vshrsRsto, .vnarrowRne, .vnarrowRtz, .vnarrowRsto, .vbcast, .vslide,
    .vsgnapply], w.clear (f imm) = true := by decide +kernel
theorem wit_vector_one : ∀ i ∈ [Instr.vneg one, .vabs one, .vclz one, .vwiden one, .vredadd one, .vredmax one, .vredmin one,
    .vcensus one, .vsgnmap one, .vexp2 { one with t := .i32 }, .vlog2 { one with t := .i32 }, .vrsqrt { one with t := .i32 },
    .vrecip { one with t := .i32 }, .vunpack4 { imm with t := .i4 }, .vmulw { two with d := 2 }, .vmacw { two with d := 2 },
    .vscan ⟨false, .w1024, .i32, 10, 11, true, 4, 0, .none⟩, .vpack4 { two with t := .i8 }, .vbsenc imm, .vbsdec imm,
    .vcmp ⟨.w512, .i16, .lt, 3, 4, 5, 0, .none⟩, .vmlog ⟨.w512, .andn, 3, 1, 2⟩, .vmpop ⟨false, .w512, .i8, 3, 1, 0⟩,
    .vmovx ⟨.w256, .i32, 7, 3, 7⟩, .vrfgate 12], w.clear i = true := by decide +kernel

theorem test_vadd_saturates : lane16 (vv 0x7FFF 1) (.vadds two) 0 = some 0x7FFF ∧ lane16 (vv 0x7FFF 1) (.vadd two) 0 = some 0x8000 ∧
    flagsOut (vv 0x7FFF 1) (.vadds two) = [flagSat] ∧ flagsOut (vv 0x7FFF 1) (.vadd two) = [flagWrap] ∧
    lane16 w (.vadd two) 0 = none := by decide +kernel
theorem test_vsub : lane16 (vv 0x8000 1) (.vsubs two) 0 = some 0x8000 ∧ lane16 (vv 3 5) (.vsub two) 0 = some 0xFFFE := by
  decide +kernel
theorem test_vmul : lane16 (vv 0xFFFD 5) (.vmul two) 0 = some 0xFFF1 ∧ lane16 (vv 0xFFFD 5) (.vmulh two) 0 = some 0xFFFF ∧
    lane16 (vv 3 5) (.vmac two) 0 = some 15 := by decide +kernel
theorem test_vminmax : lane16 (vv 0xFFFF 1) (.vmin two) 0 = some 0xFFFF ∧ lane16 (vv 0xFFFF 1) (.vmax two) 0 = some 1 ∧
    lane16 (vv 0xFFFF 1) (.vmax { two with t := .n16 }) 0 = some 0xFFFF := by decide +kernel
theorem test_vlogic : lane16 (vv 12 10) (.vand two) 0 = some 8 ∧ lane16 (vv 12 10) (.vor two) 0 = some 14 ∧
    lane16 (vv 12 10) (.vxor two) 0 = some 6 := by decide +kernel
theorem test_vshifts : lane16 (vv 0xFFF6 2) (.vshra two) 0 = some 0xFFFD ∧ flagsOut (vv 0xFFF6 2) (.vshra two) = [flagLoss] ∧
    lane16 (vv 3 15) (.vshl two) 0 = some 0x8000 ∧ flagsOut (vv 3 15) (.vshl two) = [flagWrap] ∧
    lane16 (vv 0xFFF6 2) (.vshr { two with t := .n16 }) 0 = some 0x3FFD := by decide +kernel
/-- Rounding of 5/2 and of −5/2. -/
theorem test_rounding : lane16 (vv 5 1) (.vshrrRne two) 0 = some 2 ∧ lane16 (vv 7 1) (.vshrrRne two) 0 = some 4 ∧
    lane16 (vv 0xFFFB 1) (.vshrrRtz two) 0 = some 0xFFFE ∧ lane16 (vv 0 5) (.vshrsRne imm) 0 = some 2 ∧
    lane16 (vv 0 0xFFFB) (.vshrsRtz imm) 0 = some 0xFFFE := by decide +kernel
theorem test_vselect : lane16 (vv 1 2) (.vsel two) 0 = some 1 ∧ lane16 (vv 1 2) (.vsel { two with m := 2 }) 0 = some 2 ∧
    lane16 (vv (7 * 2 ^ 16) 1) (.vperm two) 0 = some 7 ∧ lane16 (vv 0 (9 * 2 ^ 16)) (.vbcast imm) 3 = some 9 ∧
    lane16 (vv 0 (9 * 2 ^ 16)) (.vslide imm) 0 = some 9 ∧ lane16 (vv 0 0xFFFB) (.vneg one) 0 = some 5 ∧
    lane16 (vv 0 0x8000) (.vabs one) 0 = some 0x7FFF ∧ lane16 (vv 0 0x0F00) (.vclz { one with t := .n16 }) 0 = some 4 :=
  by decide +kernel
theorem test_vpairs : (outs (vv 0xFFFD 5) (.vmulw { two with d := 2 })).map RegWrite.due = [5, 5] ∧
    (outs (vv 0xFFFD 5) (.vwiden one)).map RegWrite.due = [2, 2] := by decide +kernel

/-- The units of a contiguous access at address 0, and of gathers and scatters. -/
theorem wit_vector_memory : w.clear (.vld ⟨false, .w512, .i16, 3, 4, 0, 0⟩) = true ∧ w.clear (.vlds ⟨false, .w512, .i16, 3, 4, 0, 0⟩) = true ∧
    w.clear (.vst ⟨.w512, .i16, 0, 4, 5, 0⟩) = true ∧ w.clear (.vsts ⟨.w512, .i16, 0, 4, 5, 0⟩) = true ∧
    w.clear (.vscatter ⟨.w512, .i32, 0, 4, 5, 0⟩) = true ∧ w.clear (.vgather ⟨false, .w512, .i32, 3, 4, 0, .none⟩) = true ∧
    vecBase 0 0 .w512 = 0 ∧ w.unitsOk (unitsOf (fun _ => true) 32 16 fun i => 0 + (i * 2 : Nat)) true = true ∧
    w.unitsOk (unitsOf (fun _ => true) 32 16 fun i => 0 + (i * 2 : Nat)) false = true ∧
    w.unitsOk (unitsOf (fun i => i == 0) 16 32 fun _ => 0) true = true ∧
    w.unitsOk (unitsOf (fun i => i == 0) 16 32 fun _ => 2 ^ 24) false = true ∧ isFar (2 ^ 24) = true := by decide +kernel
theorem test_vld : lane16 (w.poke (w.cur.place 0) [1, 2, 3, 4]) (.vld ⟨false, .w512, .i16, 3, 4, 0, 0⟩) 1 = some 0x0403 ∧
    (((vv 0 0x0201).run (.vst ⟨.w512, .i16, 0, 4, 5, 0⟩)).mem.read (w.cur.place 1)) = 2 := by decide +kernel
/-- R226: a descriptor of type i16 at 64, with the census bit of the address register. -/
def wd : State := (w.vec 4 (64 * 2 ^ 64 + 2 ^ 96)).poke (w.cur.place 64) [1, 0, 200]
theorem wit_census : bit1 (64 * 2 ^ 64 + 2 ^ 96) 96 = true ∧ wd.reaches 64 64 true = true ∧
    bits (leNat (wd.mem.readList (wd.cur.place 64) 64)) 0 4 = typeCode .i16 ∧ tdBad (leNat (wd.mem.readList (wd.cur.place 64) 64)) = false ∧
    wd.clear (.vst ⟨.w512, .i16, 0, 4, 5, 0⟩) = true ∧ wd.clear (.vsts ⟨.w512, .i16, 0, 4, 5, 0⟩) = true := by decide +kernel

/-! ### The B slot -/

/-- The first bundle of the code region. -/
def pc0 : Nat := 4194304 - 65536
/-- A branch target register and the PC moved two bundles on. -/
def wb : State := w.setCur fun c => { c with bt := c.bt.set 2 (BitVec.ofNat 22 (pc0 + 96)), pc := BitVec.ofNat 64 (pc0 + 64), p := 8 }
def noTest : BTest := ⟨true, 0, 0⟩
theorem wit_branches : wb.clear (.br ⟨false, 3, 2⟩ noTest noTest noTest) = true ∧ wb.readP 3 = true ∧
    wb.cur.inCode (pc0 + 96) = true ∧ wb.cur.inCode 0 = false ∧ wb.cur.inCode pc0 = true ∧ wb.cur.inCode 4194304 = false ∧
    wb.clear (.br noTest noTest noTest noTest) = true ∧ wb.clear (.jmp (-2)) = true ∧ wb.clear (.jmp (-3)) = true ∧
    wb.clear (.setbt 2 5) = true := by decide +kernel
theorem test_branches : (wb.run (.br ⟨false, 3, 2⟩ noTest noTest noTest)).cur.npc = some (BitVec.ofNat 64 (pc0 + 96)) ∧
    (wb.run (.br ⟨true, 3, 2⟩ noTest noTest noTest)).cur.npc = none ∧
    (wb.run (.jmp (-2))).cur.npc = some (BitVec.ofNat 64 pc0) ∧ trapOf wb (.jmp (-3)) = some causeAddress ∧
    (wb.run (.setbt 2 5)).cur.bt[2] = BitVec.ofNat 22 (pc0 + 64 + 160) := by decide +kernel

/-- A return stack of n entries with d spilled ones, in a task with room for one. -/
def ws (n d : Nat) : State := wb.setCur fun c =>
  { c.setCsr csrSpillDepth (BitVec.ofNat 64 d) with
    rstack := List.replicate n (BitVec.ofNat 64 (pc0 + 32 + 2 ^ 63)), launch := { c.launch with spill := 1 } }
theorem wit_calls : (ws 7 0).clear (.call 0) = true ∧ (ws 7 0).clear (.calli 2) = true ∧ (ws 7 0).cur.rstack.length < 8 ∧
    (ws 8 0).cur.rstack.length = 8 ∧ (0 < (ws 8 0).cur.launch.spill ∧ ((ws 8 0).cur.csrs csrSpillDepth).toNat = 0) ∧
    (ws 8 1).clear (.call 0) = true ∧ ((ws 8 1).cur.csrs csrSpillDepth).toNat = 1 ∧ (ws 1 0).clear .ret = true ∧
    (ws 8 1).clear .ret = true ∧ (ws 0 0).clear .ret = true ∧ (ws 1 0).cur.inCode (pc0 + 32) = true := by decide +kernel
theorem test_calls : ((ws 7 0).run (.call 1)).cur.rstack.length = 8 ∧ trapOf (ws 8 1) (.call 0) = some causeStack ∧ trapOf (ws 0 0) .ret = some causeStack ∧
    ((ws 8 0).run (.calli 2)).cur.csrs csrSpillDepth = 1 ∧ ((ws 8 1).run .ret).cur.rstack.length = 8 ∧
    ((ws 1 0).run .ret).cur.npc = some (BitVec.ofNat 64 (pc0 + 32)) := by decide +kernel

/-- A block loop of one bundle with the PC at its body's last bundle, and a LOOPN of two dimensions. -/
def wl (k : Nat) : Ctx := { wb.cur with block := some ⟨BitVec.ofNat 64 (pc0 + 32), 1, .passes k⟩ }
def wn : Ctx := { wb.cur with
  nest := some ⟨BitVec.ofNat 64 (pc0 + 64), 2, 1⟩, it := wb.cur.it.set 2 { Iter.zero with cm1 := 1, stride := 4, live := true } }
theorem wit_loops : w.clear (.loopn 1 2) = true ∧ w.clear (.loopb 3 1000) = true ∧ wq.clear (.loops 2 1 6) = true ∧
    wq.cur.q[1].kind = .read ∧ w.clear (.loops 2 1 6) = true ∧ w.cur.q[1].kind = .unbound ∧
    (advanceNest wn.it 1 2).2 = true ∧ wn.pc = BitVec.ofNat 64 (pc0 + 64) ∧ (wl 2).nest = none ∧
    (wl 2).pc = BitVec.ofNat 64 (pc0 + 32) + BitVec.ofNat 64 (32 * 1) ∧ wb.cur.block = none := by decide +kernel
theorem test_loops : wn.sequence.pc = BitVec.ofNat 64 (pc0 + 64) ∧ (wn.sequence.it[2]).value = 4 ∧
    (wl 2).sequence.pc = BitVec.ofNat 64 (pc0 + 64) ∧ (wl 1).sequence.pc = BitVec.ofNat 64 (pc0 + 96) ∧
    (wl 1).sequence.block = none ∧ (((w.at [(26, 5 + 3 * 2 ^ 16 + 2 ^ 46)] []).run (.loopn 0 2)).cur.it[2]).value = 15 ∧
    trapOf w (.loops 2 1 6) = some causeStream ∧ outs wq (.loops 2 1 6) = [⟨1, .p 6 false⟩] := by decide +kernel

/-- The context beside a second one on its core, of a higher effective priority. -/
def wa (victim : Option Nat) (d1 d2 : Nat) : State :=
  { w with cur := { w.cur with launch := { w.cur.launch with declared := d1 } }
           ctxs := [{ w.cur with id := ⟨0, 1⟩, victim := victim, launch := { w.cur.launch with prio := 5, declared := d2 } }]
           cores := [{ CoreSt.idle 0 with sliceEnd := 100 }] }
theorem wit_arbitration : ((wa (some 3) 0 0).runnable 0).any (fun c => c.victim.isSome) = true ∧
    ((wa none 100 101).runnable 0).all (fun c => c.victim.isNone) = true ∧ ((wa none 100 101).runnable 0).length = 2 ∧
    (wa none 101 101).cycle + 101 > ((wa none 101 101).core 0).sliceEnd ∧ (wa none 0 0).runnable 1 = [] := by decide +kernel
theorem test_arbitration : (((wa (some 3) 0 0).arbitrate 0).core 0).run = some 1 ∧ (((wa none 0 0).arbitrate 0).core 0).run = some 1 ∧
    (((wa none 100 101).arbitrate 0).core 0).run = some 0 ∧ (((wa none 101 101).arbitrate 0).core 0).run = some 1 ∧
    (((wa none 0 0).arbitrate 1).core 1).run = none := by decide +kernel

/-- In a trap handler that returns to the second bundle, with a lease left over. -/
def wt : State := w.setCur fun c =>
  ((c.setCsr csrTrapState 3).setCsr csrTrapPc (BitVec.ofNat 64 (pc0 + 32))).setCsr csrLeaseLeft 2
theorem wit_yield : w.clear (.yrun 1000) = true ∧ w.clear .tend = true ∧ w.clear (.trap 7) = true ∧ w.cur.inTrap = false ∧
    wt.clear .rft = true ∧ wt.cur.inCode (wt.cur.csrs csrTrapPc).toNat = true := by decide +kernel
theorem test_yield : (w.run (.yrun 1000)).cur.launch.declared = 1000 ∧ (w.run .tend).cur.phase = .ended ∧
    trapOf w (.trap 7) = some causeTrap ∧ trapOf w .rft = some causeIllegal ∧
    (wt.run .rft).cur.npc = some (BitVec.ofNat 64 (pc0 + 32)) ∧ (wt.run .rft).cur.lease = .requested ∧
    (wt.run .rft).cur.inTrap = false := by decide +kernel

/-- Two members of a gang, one of them at the barrier of pipe 0. -/
def wg (there : Bool) : State :=
  { w with ctxs := [{ w.cur with id := ⟨1, 0⟩, barrier := if there then some (0, 0) else none }]
           pols := [{ PolderSt.idle 0 with areas := [(0, List.replicate 4 ⟨0, 0, 1, 0, false, 0, 0⟩)] }] }
theorem wit_waits : w.clear (.semw 3 0x2000) = true ∧ w.localOk w.cur 0x2000 16 true = true ∧
    poisonedAt w.loadMem.2 (w.cur.place 0x2000) 8 = false ∧ (wg true).clear (.barw 0) = true ∧ (wg true).cur.barrier = none ∧
    (wg true).cur.id ∈ (wg true).cur.launch.members ∧ ((wg true).ctx ⟨1, 0⟩).barrier = some (0, 0) ∧
    ((wg false).ctx ⟨1, 0⟩).barrier = none ∧ (wg true).peers = [] ∧
    (((wg true).pol 0).areas.find? fun a => a.1 == (wg true).cur.launch.gangArea).isSome = true := by decide +kernel
theorem test_waits : (w.run (.semw 3 0x2000)).cur.stalled = false ∧
    ((w.setCur fun c => { c with it := c.it.set 3 { Iter.zero with value := 1 } }).run (.semw 3 0x2000)).cur.stalled = true ∧
    (((wg true).run (.barw 0)).ctx ⟨1, 0⟩).barrier = some (0, 1) ∧ ((wg true).run (.barw 0)).cur.stalled = false ∧
    ((wg false).run (.barw 0)).cur.stalled = true := by decide +kernel

/-! ### The M slot -/

def wm (l : Lease) (left : Nat) : State := w.setCur fun c => { c.setCsr csrLeaseLeft (BitVec.ofNat 64 left) with lease := l }
/-- A specifier of one row of 32 elements at local address 0x1000. -/
def spec (enc layout : Nat) : BitVec 256 :=
  BitVec.ofNat 256 (1 + 2 * enc + 32 * layout + 0x1000 * 2 ^ 32 + 64 * 2 ^ 96 + 2 ^ 144 + 32 * 2 ^ 152)
def wo (enc layout : Nat) : State := w.setCur fun c => { c with os := c.os.set 1 (spec enc layout) }
theorem wit_matrix_leases : w.clear .mtcinv = true ∧ w.clear (.mlease 255) = true ∧ w.cur.lease = .none ∧
    (wm .held 5).clear (.mlease 0) = true ∧ (wm .held 5).clear .mfree = true ∧ w.clear .mfree = true := by decide +kernel
theorem test_leases : (w.run (.mlease 15)).cur.csrs csrLeaseLeft = 16 ∧ ((w.run (.mlease 15)).pol 0).leaseQ = [(⟨0, 0⟩, 16)] ∧
    trapOf (wm .held 5) (.mlease 0) = some causeLease ∧ ((wm .held 5).run .mfree).cur.lease = .none := by decide +kernel
theorem wit_matrix_specifiers : w.clear (.mspec 1 12) = true ∧ (∀ f ∈ [(0 : Fin 16), 1, 2, 3, 4, 5, 6, 7, 8, 9, 10, 11, 12],
    (wo 0 0).clear (.mspecf 1 f 0x55) = true) ∧ (wo 0 0).cur.os[1].getLsbD 0 = true ∧ w.cur.os[1].getLsbD 0 = false ∧
    w.clear (.mrprog 3 true) = true := by decide +kernel
theorem test_specifiers : ((w.vec 12 (5 + 2 ^ 256)).run (.mspec 1 12)).cur.os[1] = 5 ∧
    (((wo 0 0).run (.mspecf 1 2 0x3FFFF)).cur.os[1]).extractLsb' 32 32 = 0xFFF ∧ (w.run (.mrprog 3 true)).cur.os[3] = 0 :=
  by decide +kernel
theorem wit_matrix_loads : (wo 0 0).clear (.mlda 1 true none) = true ∧ (wo 0 0).clear (.mldb 1 false (some 3)) = true ∧
    loadBad (spec 0 0) true = false ∧ (wo 0 0).localOk (wo 0 0).cur 0x1000 32 true = true ∧
    w.clear (.mfill .i8 .lower false false) = true ∧
    (wo 0 0).localOk (wo 0 0).cur (2 ^ 26) 32 true = false := by decide +kernel
theorem test_loads : (((wo 0 0).run (.mlda 1 true none)).pipeOf 0 false).q.length = 1 ∧
    ((w.run (.mfill .i8 .lower false true)).pipeOf 0 true).q.length = 1 := by decide +kernel
/-- The types of the latest loads into a0, a1, b0 and b1. -/
def wty (l : Lease) (left : Nat) (a b : Elem) : State :=
  (wm l left).setCur fun c => { c with bufT := ⟨#[some a, some a, some b, some b], rfl⟩ }
theorem wit_matrix_array : (wty .held 4 .i8 .i8).clear (.mmac true false 1) = true ∧ (wty .held 4 .i8 .i8).cur.mq = [] ∧
    pairOk ((wty .held 4 .i8 .i8).cur.bufType 0) ((wty .held 4 .i8 .i8).cur.bufType 3) = true ∧
    pairOk ((wty .held 4 .i16 .i4).cur.bufType 0) ((wty .held 4 .i16 .i4).cur.bufType 3) = false ∧
    (wty .none 0 .i8 .i8).cur.lease = .none ∧ (wty .requested 1 .i8 .i8).clear (.mmac true false 1) = true ∧
    (wty .held 4 .i8 .i8).clear (.mmacq false false) = true ∧ (wty .held 3 .i8 .i8).clear (.mmacq false false) = true ∧
    (wty .requested 4 .i8 .i8).clear (.mmacq false false) = true := by decide +kernel
theorem test_array : trapOf (wty .held 4 .i16 .i4) (.mmac true false 1) = some causeIllegal ∧
    trapOf (wty .none 4 .i8 .i8) (.mmac true false 1) = some causeLease ∧
    ((wty .requested 4 .i8 .i8).run (.mmac true false 1)).cur.stalled = true ∧
    ((wty .held 1 .i8 .i8).run (.mmac true false 1)).cur.lease = .none ∧
    (((wty .held 5 .i8 .i8).run (.mmacq false false)).cur.mq.map fun m => m.tile) = [0, 1, 2, 3] ∧
    trapOf (wty .held 3 .i8 .i8) (.mmacq false false) = some causeLease := by decide +kernel
theorem wit_matrix_tiles : w.tileFree 1 = true ∧ w.clear (.mzero 1) = true ∧ w.clear (.mscale .rne (-2) 1) = true ∧
    w.clear (.mscale .rsto 3 1) = true ∧ (wo 0 0).tileFree 2 = true ∧ (wo 0 0).clear (.mshrd 1 .rsto 9 2) = true ∧
    storeBad (spec 0 0) true = false ∧ storeBad (spec 0 1) true = false ∧ spDv (spec 0 0) = false ∧
    (wo 2 0).clear (.mstacc 1 2) = true ∧ (wo 2 0).clear (.mldacc 1 2) = true ∧ storeBad (spec 2 0) false = false ∧
    (wo 2 0).localOk (wo 2 0).cur (storeRowAt (spec 2 0) 0).a 128 true = true ∧
    (wo 0 1).localOk (wo 0 1).cur (storeRowAt (spec 0 1) 31).a 1 true = true := by decide +kernel
/-- Tile 1 with 7 at (0, 0). -/
def w7 : State := (wo 2 0).setCur fun c => { c with acc := c.acc.set 1 { Tile.zero with
  el := Tile.zero.el.set 0 (Tile.zero.el[0].set 0 7), steps := 9 } }
theorem test_tiles : (w7.run (.mzero 1)).elem 1 0 0 = 0 ∧ ((w7.run (.mstacc 1 1)).core 0).store.length = 1 ∧
    ((w7.run (.mldacc 1 1)).core 0).store.length = 1 ∧ (((wo 0 0).run (.mshrd 1 .rne 0 1)).core 0).store.length = 1 := by
  decide +kernel
theorem wit_matrix_snapshots : (wo 2 0).clear (.mrdacc 1 3 1) = true ∧ recordBad (spec 2 0) 8 = false ∧
    (wo 2 0).localOk (wo 2 0).cur (spAt (spec 2 0) 0).a 8 true = true ∧ (wo 2 0).cur.tileBusy 1 = false ∧
    (wo 2 0).clear (.mstat 1) = true ∧ recordBad (spec 2 0) 32 = false ∧
    (wo 2 0).localOk (wo 2 0).cur (spAt (spec 2 0) 0).a 32 true = true ∧ w.clear (.mwait true false true) = true ∧
    (wm .requested 1).clear (.mwait true false true) = true := by decide +kernel
theorem test_snapshots : (outs w7 (.mrdacc 1 3 1)).map RegWrite.due = [8, 8] ∧ (outs w7 (.mstat 1)).length = 1 ∧
    ((wm .requested 1).run (.mwait true false true)).cur.stalled = true ∧ (w.run (.mwait true false true)).cur.fences.length = 1 :=
  by decide +kernel

/-! ### The C slots -/

/-- k1 and k4 name places of the share, k2 a virtual address, k3 a length. -/
def wk (len : Word) : State := w.at [] [(1, 0x1000), (2, 0x2000), (3, len), (4, 0x100)]
/-- k1 names an open and k5 a closed place of the boezem. -/
def wz (len : Word) : State := ((w.at [] [(1, 2 ^ 55), (2, 0x2000), (3, len), (4, 0x100), (5, 2 ^ 55 + 2 ^ 23)]).setReg 0x3600 (2 ^ 16))
/-- A loaded descriptor register 5 with a read pattern of 64 bytes at 0x2000 and a write pattern at 0x1000 of the share. -/
def desc : Nat := (0x2000 + 64 * 2 ^ 72 + 2 ^ 96 + 2 ^ 112 + 2 ^ 128) + (0x1000 + 64 * 2 ^ 72 + 2 ^ 96 + 2 ^ 112 + 2 ^ 128 + 2 ^ 67) * 2 ^ 512
def wdr (d : DescReg) : State := (wk 64).setCur fun c => { c with dr := c.dr.set 5 d }
theorem wit_culvert : (wk 0).hasEntry = true ∧ (wk 0).objAddr 4 true false = some ⟨.loc, 0x100⟩ ∧
    (wk 0).opAddr 1 true = some ⟨.loc, 0x1000⟩ ∧ (wk 0).opAddr 2 false = some ⟨.virt, 0x2000⟩ ∧
    (wk 0).clear (.ccopy 1 2 3 4 true false true) = true ∧ (wk (2 ^ 40)).clear (.ccopy 1 2 3 4 true false true) = true ∧
    (wk 64).rangeOk ⟨.loc, 0x1000⟩ 64 false = true ∧ (wz 64).opAddr 5 true = some ⟨.boez, 2 ^ 23⟩ ∧
    (wz 64).closed (wz 64).cur ⟨.boez, 2 ^ 23⟩ 64 = true ∧ (wz 64).closed (wz 64).cur ⟨.boez, 0⟩ 64 = false ∧
    (wz 64).clear (.ccopy 5 2 3 4 true false true) = true ∧ (wdr .empty).clear (.ccopya 4 true 5) = true ∧
    (wdr (.failed 1)).clear (.ccopya 4 true 5) = true ∧ (wdr (.reading 0)).clear (.ccopya 4 true 5) = true ∧
    (wdr (.loaded (BitVec.ofNat 1024 desc))).clear (.ccopya 4 true 5) = true ∧ (wk 64).clear (.publ 2 4 true) = true ∧
    (wk 64).clear (.coffl 1 2 3 4 .i8 .full true true) = true ∧ (wk 0).clear (.coffl 1 2 3 4 .i8 .full true true) = true ∧
    (wk (2 ^ 49)).clear (.crest 1 2 3 4 .i8 .sb1 true true) = true ∧ (wk 64).clear (.crest 1 2 3 4 .i8 .sb1 true true) = true ∧
    (wk 64).rangeOk ⟨.loc, 0x1000⟩ (elemBytes .i8 64) true = true ∧ (wz 64).clear (.coffl 5 2 3 4 .i8 .full true true) = true := by
  decide +kernel
/-- The engine operations started. -/
def started (s : State) (i : Instr) : List EngKind := (s.run i).cur.eng.map EngOp.kind
theorem test_copies : started (wk 64) (.ccopy 1 2 3 4 true false true) = [.copy ⟨.loc, 0x1000⟩ ⟨.virt, 0x2000⟩ 64] ∧
    ((wk (2 ^ 40)).run (.ccopy 1 2 3 4 true false true)).cur.eng.map EngOp.status = [stMalformed] ∧
    ((wz 64).run (.ccopy 5 2 3 4 true false true)).cur.eng.map EngOp.status = [stProt] ∧
    started (wdr (.reading 7)) (.ccopya 4 true 5) = [.copyA (some 7) none] ∧ started (wk 64) (.publ 2 4 true) = [.publ 0x2000] :=
  by decide +kernel
theorem test_offloads : started (wk 64) (.coffl 1 2 3 4 .i8 .full true true) =
      [.coffl ⟨.virt, 0x2000⟩ ⟨.loc, 0x1000⟩ 64 0 .i8 .full] ∧
    started (wk (64 + 255 * 2 ^ 40 + 2 ^ 48)) (.crest 1 2 3 4 .i8 .sb1 true true) =
      [.crest ⟨.loc, 0x1000⟩ ⟨.virt, 0x2000⟩ 64 (-1) .i8 .sb1 true] := by decide +kernel
theorem wit_objects : (wk 0).clear (.csig 1 2 3 true) = true ∧ (wk 0).objAddr 1 true false = some ⟨.loc, 0x1000⟩ ∧
    (wk 0).objAddr 1 true true = some ⟨.loc, 0x1000⟩ ∧ poisonedAt (wk 0).loadMem.2 ((wk 0).cur.place 0x1000) 16 = false ∧
    (wk 0).clear (.ccnt 1 7 true) = true ∧ (wk 0).clear (.cstat 1 7 true) = true ∧ (wk 0).clear (.cwait 1 2 true) = true ∧
    (wk 0).cur.waived = none ∧ (wz 0).objAddr 1 true true = some ⟨.boez, 0⟩ := by decide +kernel
theorem test_objects : started (wk 5) (.csig 1 2 3 true) = [.csig 0x2000 5] ∧
    outs ((wk 0).poke ((wk 0).cur.place 0x1000) [3, 0, 0, 0, 0, 0, 0, 0, 9]) (.ccnt 1 7 true) = [⟨6, .k 7 3⟩] ∧
    outs ((wk 0).poke ((wk 0).cur.place 0x1000) [3, 0, 0, 0, 0, 0, 0, 0, 9]) (.cstat 1 7 true) = [⟨6, .k 7 9⟩] ∧
    ((wk 0).run (.cwait 1 3 true)).cur.stalled = false ∧ ((wk 1).run (.cwait 1 3 true)).cur.stalled = true := by decide +kernel
/-- Stream q5 bound as a kind. -/
def wbd (k : BindKind) : State := (wk 64).setCur fun c => { c with q := c.q.set 5 { Binding.unbound with kind := k } }
theorem wit_streams : (wk 64).clear (.cdesc 1 true 5) = true ∧ (wk 64).rangeOk ⟨.loc, 0x1000⟩ 128 true = true ∧
    (wk 64).closed (wk 64).cur ⟨.loc, 0x1000⟩ 128 = false ∧
    (wdr (.loaded (BitVec.ofNat 1024 desc))).clear (.cbind 4 true .w512 false 5) = true ∧
    (wdr (.loaded (BitVec.ofNat 1024 desc))).clear (.cbind 4 true .w512 true 5) = true ∧
    (wk 64).patCheck (wk 64).cur (bits desc 0 512) false = none ∧ (wk 64).patCheck (wk 64).cur (bits desc 512 512) true = none ∧
    patPipe (bits desc 0 512) = false ∧ patPipe (bits desc 512 512) = false ∧ (wk 64).cur.q[5].kind = .unbound ∧
    (w.at [] [(1, 0x1000), (2, 32), (4, 0x100)]).clear (.cgather 1 2 4 true true 5) = true ∧
    (w.at [] [(1, 0x1000), (2, 32), (4, 0x100)]).clear (.cscatter 1 2 4 true true 5) = true ∧ w.clear (.cunbind 5) = true ∧
    (wbd .write).clear (.cunbind 5) = true ∧ (wbd .write).cur.q[5].updated = false ∧
    (∀ k ∈ [BindKind.unbound, .read, .gather, .write, .scatter], (wbd k).clear (.ceos 5) = true) ∧
    (wbd .gather).clear (.cidx 1 5) = true ∧ (wbd .gather).cur.q[5].idxEnd = false := by decide +kernel
theorem test_streams : ((wk 64).run (.cdesc 1 true 5)).cur.dr[5] = .reading 0 ∧
    (((wdr (.loaded (BitVec.ofNat 1024 desc))).run (.cbind 4 true .w512 true 5)).cur.q[5]).kind = .write ∧
    (((w.at [] [(1, 0x1000), (2, 32), (4, 0x100)]).run (.cgather 1 2 4 true true 5)).cur.q[5]).kind = .gather ∧
    (((wbd .write).run (.cunbind 5)).cur.q[5]).kind = .unbound ∧ trapOf (wbd .read) (.ceos 5) = some causeStream ∧
    (((wbd .gather).run (.cidx 1 5)).cur.q[5]).idx = [0x1000] := by decide +kernel

/-- A job of two packages, this one rank 0: rank 0 is fabric address 0 and rank 1 address 1. -/
def wj (l : List (Nat × Word)) : State :=
  let s := ((w.at [] l).setReg 0x1000 (2 ^ 22 + 7 * 2 ^ 32 + 2 ^ 48)).setReg 0x1008 0x1000
  ({ s with lineKeys := [(0x40, .host)] } : State).tierWrite .host 0x1000 [0, 0, 1, 0]
def rnk (r l : Nat) : Word := BitVec.ofNat 64 (r + l * 2 ^ 16 + 5 * 2 ^ 32)
def sentTo (s : State) (i : Instr) : List (Nat × Nat × Nat) :=
  (s.run i).cur.eng.map fun e => match e.kind with
    | .pkt p _ => (p.cls, p.op, p.dst)
    | _ => (99, 0, 0)
theorem wit_remote : (∀ i ∈ [(.fst 1 2 3 true .b8 : Instr), .fst 1 2 3 false .b4, .fatom 1 2 3 4 true 2, .fcas 1 2 3 4 false,
      .fsig 1 2 3, .fmsg 1 2 3 true 0, .fwait 1 4], (wj [(1, 0x40), (2, rnk 1 0), (3, 0x100)]).clear i = true) ∧
    ((wj [(2, rnk 1 0)]).target (rnk 1 0) false false).2.toOption = some 1 ∧
    ((wj [(2, rnk 2 0)]).target (rnk 2 0) false false).2.toOption = none ∧
    ((wj []).target (rnk 1 9) true false).2.toOption = some 1 ∧ (wj [(2, rnk 1 9)]).clear (.fld 1 2 5 false .d64) = true ∧
    (wj [(3, 0x100)]).opAddr 3 true = some ⟨.loc, 0x100⟩ ∧ (wj []).rangeOk ⟨.loc, 0x100⟩ 8 true = true ∧
    (wj []).closed (wj []).cur ⟨.loc, 0x100⟩ 8 = false ∧ (wj []).cur.late = [] ∧ (wj []).cur.remote = [] := by decide +kernel
/-- One atomic of tag 5 answered OK, one of tag 6 outstanding, and a late reply of tag 7. -/
def wr : State := (wj [(1, 5), (2, 6), (3, 7)]).setCur fun c =>
  { c with remote := [⟨0, 5, true, false, some 0, some (9, 77), 4, 0, 0, false⟩, ⟨1, 6, false, false, none, none, 4, 0, 0, false⟩] }
theorem test_remote : sentTo (wj [(1, 0x40), (2, rnk 1 0), (3, 9)]) (.fst 1 2 3 false .b8) = [(1, 0, 1)] ∧
    sentTo (wj [(1, 0x40), (2, rnk 1 0), (3, 9)]) (.fatom 1 2 3 4 true 2) = [(2, 18, 1)] ∧
    sentTo (wj [(1, 0x40), (2, rnk 1 0), (3, 9)]) (.fcas 1 2 3 4 false) = [(2, 10, 1)] ∧
    sentTo (wj [(1, 0x40), (2, rnk 1 0), (3, 9)]) (.fsig 1 2 3) = [(9, 0, 1)] ∧
    sentTo (wj [(1, 0x40), (2, rnk 1 9)]) (.fld 1 2 5 false .d64) = [(0, 3, 1)] := by decide +kernel
theorem test_fwait : (wr.run (.fwait 2 4)).cur.stalled = true ∧
    outs wr (.fwait 1 4) = [⟨4, .k 9 77⟩, ⟨4, .k 4 256⟩] ∧ outs wr (.fwait 3 4) = [⟨4, .k 4 0⟩] ∧
    (((wj [(2, rnk 2 0)]).run (.fsig 1 2 3)).cur.remote.map Remote.status) = [some 7] := by decide +kernel
theorem wit_fwait : wr.clear (.fwait 1 4) = true ∧ (wr.cur.remote.filter fun r => r.tag == 5).length = 1 ∧ wr.cur.writes = [] := by
  decide +kernel

/-- An entry of the send table that is posted from descriptor 0x40. -/
def sendOf (st : SendState) : SlSend := ⟨⟨0, 0⟩, 0, 0, some 0x40, 3, 0, none, [], false, [], none, st, 1, 0, 0, none⟩
theorem wit_sluice : (∀ i ∈ [(.epopen 1 2 4 : Instr), .epstep 1 2 3 4 5, .epclose 1 2 5, .lqack 1 2 5 6, .lqpop 1 4 2 6,
      .rwpost 1 2 3 5, .frts 1, .fcancel 1, .fdrain], (wj [(1, 0x40), (3, rnk 1 0)]).clear i = true) ∧
    (wj [(1, 0x40)]).reaches 0x40 32 true = true ∧ ((wj []).target (rnk 1 0) false true).2.toOption = some 1 ∧
    (wj [(1, 0x41)]).clear (.lqpop 1 4 2 6) = true ∧ (wj []).slu.sends = [] ∧ (wj [(1, 0x41)]).clear (.frts 1) = true ∧
    ({ wj [(1, 0x40)] with slu := { SluiceSt.empty with sends := List.replicate 8 (sendOf .posted) } } : State).clear (.frts 1) =
      true := by decide +kernel
theorem test_sluice_ops : ((wj [(1, 0x40)]).run (.frts 1)).slu.sends.map SlSend.st = [.reading] ∧
    trapOf (wj [(1, 0x41)]) (.frts 1) = some causeAddress ∧
    trapOf { wj [(1, 0x40)] with slu := { SluiceSt.empty with sends := List.replicate 8 (sendOf .posted) } } (.frts 1) =
      some causeRlimit ∧
    (({ wj [(1, 0x40)] with slu := { SluiceSt.empty with sends := [sendOf .posted] } } : State).run (.fcancel 1)).slu.sends.map
      SlSend.st ≠ [.posted] ∧ ((wj []).run .fdrain).cur.newDrain = true ∧
    ((wj [(1, 0x40)]).run (.lqpop 1 4 2 6)).cur.ep.length = 1 ∧ trapOf (wj [(1, 0x41)]) (.lqpop 1 4 2 6) = some causeAddress ∧
    sentTo (wj [(1, 5), (3, rnk 1 0)]) (.rwpost 1 2 3 5) = [(7, 1, 1)] := by decide +kernel

/-! ### Traps, issue and the machine as a whole -/

def wrv (l : List (Nat × Word)) : State :=
  { w with reeveRun := true, reeveK := l.foldl (fun v x => v.setIfInBounds x.1 x.2) w.reeveK
           keys := [⟨5, .mat 9, 0, .loaded⟩, ⟨6, .mat 8, 0, .loaded⟩] }
theorem test_privileged : trapOf w (.keyop 1 2) = some causeIllegal ∧ trapOf w (.tlbinv 1 2) = some causeIllegal ∧
    ((wrv [(1, 5 + 2 ^ 14)]).run (.keyop 1 2)).slotKey 5 = none ∧
    ((wrv [(1, 5 + 2 ^ 14)]).run (.keyop 1 2)).slotKey 6 = some (.mat 8) ∧
    ((wrv []).run (.tlbinv 1 2)).xlt.inval.length = 1 := by decide +kernel

/-- A gated bank, an aborted fault, a failed stream and a poisoned source. -/
def wtr (gate : Bool) (x : Option (Word × Word)) (failed : Bool) (pois : BitVec 32) : State := wq.setCur fun c =>
  { (if gate then c.setCsr csrVgate 1 else c) with
    xlate := x, spois := pois, q := c.q.set 1 { c.q[1] with failed := failed, failVal := 5, failProg := 6 } }
def usesAll : Instr := .vadd ⟨false, .w512, .i16, 1, 4, 5, 1, .a⟩
theorem wit_traps : judged usesAll = true ∧ (wtr true none false 0).illegal usesAll = false ∧
    (wtr true none false 0).gatedOp usesAll = true ∧ (wtr false (some (3, 4)) false 0).gatedOp (.add 1 2 3) = false ∧
    (wtr false (some (3, 4)) false 0).rd.xlate = some (3, 4) ∧ ((wtr false none true 0).failedOp (.ceos 1)).isSome = true ∧
    (wtr false none false 4).poisOp (.add 1 2 3) = (4, 0, 0) ∧ w.illegal (.loops 2 1 0) = true := by decide +kernel
theorem test_trap_order : trapOf (wtr true (some (3, 4)) true 4) usesAll = some causeGated ∧
    trapOf (wtr false (some (3, 4)) false 4) (.add 1 2 3) = some causeXlate ∧
    trapOf (wtr false none true 4) (.ceos 1) = some causeXlate ∧ trapOf (wtr false none false 4) (.add 1 2 3) = some causePoison ∧
    ((wtr false none false 4).run (.add 1 2 3)).raised.map Trap.val = some 4 ∧
    trapOf (wtr true (some (3, 4)) true 4) (.loops 2 1 0) = some causeIllegal := by decide +kernel

/-- A task with a handler; one with a result in flight; one with a refill left. -/
def wh (pending : Bool) (refills : Nat) : State := w.setCur fun c =>
  { c.setCsr csrTrapVec (BitVec.ofNat 64 (pc0 + 64)) with
    refills := refills, writes := if pending then [⟨5, .s 1 0 false⟩] else [], launch := { c.launch with gang := 0 } }
theorem wit_trap_entry : (wh true 0).exposed (wh true 0).cur = true ∧ (wh false 0).exposed (wh false 0).cur = false ∧
    (wh false 0).cur.late = [] ∧ (wh false 0).cur.inTrap = false ∧ (wh false 0).cur.csrs csrTrapVec ≠ 0 ∧
    0 < (wh false 1).cur.refills ∧ (wh false 0).cur.victim = none ∧ (wh false 0).ctxs = [] ∧ (wh false 0).cur.launch.gang = 0 := by
  decide +kernel
theorem test_trap_entry : ((wh false 0).raise causeStack 7 8).cur.pc = BitVec.ofNat 64 (pc0 + 64) ∧
    ((wh false 0).raise causeStack 7 8).cur.csrs csrTrapVal = 7 ∧ ((wh false 0).raise causeStack 7 8).cur.inTrap = true ∧
    ((wh true 0).raise causeStack 7 8).cur.trap.isSome = true ∧ ((wh false 1).raise causeBudget 0 0).cur.refills = 0 ∧
    (((wh false 0).raise causeGap 0 0).ctx ⟨0, 0⟩).phase = .idle := by decide +kernel

/-- A state in which the next step issues LIL; the bundle decodes to it. -/
def ws1 : State := State.reset.withFetchWord 32 0x40712345
theorem wit_step : ws1.alive = true ∧ ws1.inputs = [] ∧ ws1.dueNow = none ∧ ws1.moves = [] ∧ ws1.nextCore = some 0 ∧
    (ws1.core 0).run = some 0 ∧ ws1.cur.phase = .ready ∧ ws1.cur.trap = none ∧ ws1.cur.late = [] ∧ ws1.atStop ws1.cur = false ∧
    ws1.issueCur = none ∧ ws1.cur.inCode ws1.cur.pc.toNat = true ∧
    (bundleOf (ws1.mem.readList (ws1.cur.place ws1.cur.pc.toNat) 32)).any (fun b => b.s == .lil 7 0x12345 &&
      bundleOk (ws1.mem.readList (ws1.cur.place ws1.cur.pc.toNat) 32) b && (ws1.trapCounts b).isNone && ws1.guardOn b 0) = true :=
  by decide +kernel
/-- The state after a step. -/
def next (s : State) : State := after (step s) s
theorem test_step : (next ws1).cur.writes = [⟨1, .s 7 0x12345 false⟩] ∧ (next ws1).cur.pc = BitVec.ofNat 64 (pc0 + 32) ∧
    (next ws1).cur.budget = 999 := by decide +kernel
/-- A PCMP of COND 111 as the S slot: the step raises ILLEGAL, and without a handler the task is killed. -/
def ws2 : State := State.reset.withBundle (bundleWith 0 0 0x48000380)
theorem test_step_illegal : ws2.illegalSlot (ws2.mem.readList (fetchCtx.place pc0) 32) = some 0 := by decide +kernel
/-- A BARW that another member has not reached stalls its bundle. -/
theorem test_step_stall : (next (State.reset.withBundle (bundleWith 0 6 0xF0000000))).cur.stalled = true ∧
    (next (State.reset.withBundle (bundleWith 0 6 0xF0000000))).cur.pc = BitVec.ofNat 64 pc0 := by decide +kernel

/-- What the decoder reads, and why it refuses. -/
def read (k : SlotKind) (x : Nat) : Option Instr := (decodeSlot k x).toOption
def refused (k : SlotKind) (x : Nat) : Option Reject := match decodeSlot k x with
  | .error r => some r
  | .ok _ => none
/-- Words of the spec's worked examples (R266, R291 to R319, R324, R355 to R408), one of each family and format. -/
theorem test_decode : read .s 0x40712345 = some (.lil 7 0x12345) ∧ read .s 0x48229900 = some (.pcmp 2 5 6 .lt) ∧
    read .s 0x50248010 = some (.ld 2 9 .i8 16) ∧ read .s 0x60305002 = some (.movxV 3 5 2) ∧
    read .b 0x188D3002 = some (.br ⟨false, 3, 2⟩ ⟨true, 5, 0⟩ ⟨true, 0, 0⟩ ⟨true, 0, 0⟩) ∧
    read .b 0x2FFFFFFD = some (.jmp (-3)) ∧ read .v 0x0C9190A4 = some (.vadds ⟨false, .w512, .i16, 3, 4, 5, 1, .none⟩) ∧
    read .v 0xC1060820 = some (.vld ⟨false, .w1024, .i8, 12, 2, 1, 0⟩) ∧ read .m 0x10000009 = some (.mmac true false 1) ∧
    read .c 0x04246801 = some (.ccopy 1 2 3 4 false false true) ∧ read .c 0x2B001200 = some (.fwait 8 9) := by
  decide +kernel
theorem test_decode_refuses : read .s 0x40712345 ≠ some (.lil 7 0x12346) ∧ refused .b 0x00000001 = some .nopBits ∧
    refused .s 0x48000380 = some .reservedField ∧ refused .s 0xFE000000 = some .reservedOpcode := by decide +kernel
theorem wit_round_trip : (Instr.add 1 2 3).wf = true ∧ slotKind (.add 1 2 3) = some .s ∧ encode (.add 1 2 3) = some 0x02110C00 ∧
    (Instr.vadds two).wf = true ∧ slotKind (.vadds two) = some .v ∧ (encode (.vadds two)).isSome = true := by decide +kernel

/-! ### Device steps: resets, the host port and registers -/

theorem wit_resets : w.hostUp = true ∧ State.reset.hostUp = false := by decide +kernel
/-- The package with R29's configuration, the host's key, one address space whose first 512 MiB map to tier 1 from 0, a job of
two packages, and a graph of one COPY node at 0x2000. -/
def wv : State :=
  let s := { w with
    cfg := Flash.example.record, keys := [⟨1, .host, 0, .loaded⟩]
    lineKeys := [0x40, 0x80, 0x81, 0x100, 0x101, 0x102, 0x103, 0x800, 0xC00, 0x1000].map fun l => (l, .host) }
  let s := [(0x0700, 0x20000), (0x0708, 2 ^ 16), (0x1000, 2 ^ 22 + 7 * 2 ^ 32 + 2 ^ 48), (0x1008, 0x1000)].foldl
    (fun s x => s.setReg x.1 x.2) s
  [(0x1000, 2 ^ 16), (0x2000, 0x47524148 + 2 ^ 32 + 2 ^ 64 + 128 * 2 ^ 96), (0x2040, 1 + 0x4000 * 2 ^ 64 + 0x4080 * 2 ^ 128 + 64 * 2 ^ 192),
    (0x20000, 1 + 2 ^ 16 + 0x30000 * 2 ^ 64), (0x30000, 3 + 0x40000), (0x40000, 0x21D)].foldl
    (fun s x => { s with mem := s.mem.writeList x.1 (leBytes x.2 32) }) s
theorem wit_translation : (wv.walk 0 0x4000).toOption.map Leaf.size = some (2 ^ 29) ∧
    (wv.xlate tlbIo 0 0x4000 .write).2.toOption.map Phys.pa = some 0x4000 ∧
    (wv.xlate tlbIo 0 (2 ^ 29) .read).2.toOption = none ∧ wv.graphError 0x2000 0 = none ∧
    (wv.targetXlate 0x4000 .read).2.toOption.map Phys.pa = some 0x4000 := by decide +kernel

theorem wit_power : wv.tripped = false ∧ wv.hot = false ∧ wv.cfgF 368 16 < 2601 ∧ 650 < wv.clock ∧
    2469 * 100 < wv.cfgF 368 16 * 95 ∧ wv.coolSince = none ∧
    ({ wv with coolSince := some 0, ftime := 1000000 } : State).coolSince = some 0 ∧ wv.paOk (64 * 5) = true ∧
    (wv.setRegF 0 23 1 1).paOk 0x100000000000 = true ∧ (wv.setRegF 0 19 4 15).regF 0 20 1 = 1 := by decide +kernel
theorem test_power : (wv.run (.powerSample 2601)).clock = 1275 ∧ (wv.run (.thermalThrottle 3)).effClock = 650 ∧
    (({ wv with coolSince := some 0, ftime := 1000000, clock := 700 } : State).run (.powerSample 2469)).clock = 725 ∧
    (wv.run .thermalTrip).alive = false ∧ poisonedAt (wv.run (.scrub 5 true)).poison 383 1 = true ∧
    ((wv.setRegF 0 19 4 15).run (.tier2LinkDown 1)).regF 0 19 4 = 13 := by decide +kernel
/-- A dump already held. -/
def wdump : State := wv.setReg 0x0500 1
theorem wit_fatal : wv.fatal = none ∧ bit1 (wv.reg 0) 16 = true ∧ wdump.regF 0x0500 0 1 = 1 ∧ wv.regF 0x0500 0 1 = 0 := by
  decide +kernel
theorem test_fatal : (wdump.run .stateUe).fatal = some 4 ∧ (wdump.run .stateUe).regF 0x0400 7 1 = 1 ∧
    (wdump.run .stateUe).reg 0x2060 = 1 ∧ (wdump.run (.reeveTrap 1)).fatal = some 3 := by decide +kernel
/-- A line the host wrote. -/
def whost : State := { wv with mem := wv.mem.write 0x4000 7 }
theorem wit_host_memory : whost.exposedT1 = true ∧ whost.inCarved 0x4000 = false ∧ whost.hostKey 0x4000 = some .host ∧
    w.hostKey 0x4000 = none ∧ whost.inDump 0x4000 = false ∧ whost.inDump 0x10000000000 = true ∧
    whost.inCarved 0x10000000000 = false := by decide +kernel
theorem test_host_memory : (whost.run (.hostMemRead 0x100)).hostRd = some (7, false) ∧
    (({ whost with keys := [] } : State).run (.hostMemRead 0x100)).hostRd = some (0, true) ∧
    ((whost.run (.hostMemWrite 0x100 (9 + 8 * 256) 1)).mem.read 0x4000) = 9 ∧
    ((whost.run (.hostMemWrite 0x100 (9 + 8 * 256) 1)).mem.read 0x4001) = 0 := by decide +kernel

/-- A host command at host address 0x400 with its opcode and arguments. -/
def cmd (s : State) (op : Nat) (args : List Nat) : State :=
  { s with hcmd := some (0x400, BitVec.ofNat 512 (op + ((List.zipIdx args).map fun x => x.1 * 2 ^ (64 + 64 * x.2)).sum)) }
/-- STATUS and DETAIL of the block written back. -/
def answer (s : State) (i : Instr) : Nat × Nat := let n := (s.run i).hostNat 0x400 64; (bits n 8 8, bits n 32 32)
def wg1 : State := { wv with graphs := [⟨1, 0x2000, 0, []⟩] }
def inst1 : Inst := ⟨0, 1, 0, 1, 0, 0, 0, 0, 0, 0, [], 0, 0xFFF, 0⟩
theorem wit_commands : bits (1 : Nat) 0 8 = 1 ∧ wv.graphError 0x2000 0 = none ∧ wv.graphError 0x1000 0 = some (1, 0xFFF) ∧
    (∀ g ∈ wv.graphs, g.handle ≠ 1) ∧ (∃ g ∈ wg1.graphs, g.handle = 1) ∧ (∀ i ∈ wg1.insts, i.handle ≠ 1) ∧
    (∃ i ∈ ({ wg1 with insts := [inst1] } : State).insts, i.handle = 1) := by decide +kernel
theorem test_commands : answer (cmd (wv.setReg 0x0110 1) 1 []) .negotiate = (csOk, 1) ∧
    answer (cmd (wv.setReg 0x0110 16) 1 []) .negotiate = (csFeature, 0) ∧ answer (cmd wv 2 [0x2000, 0]) .registerGraph = (csOk, 1) ∧
    answer (cmd wg1 2 [0x2000, 0]) .registerGraph = (csOk, 2) ∧ answer (cmd wv 2 [0x1000, 0]) .registerGraph = (csInvalid, 1 + 0xFFF * 256) ∧
    answer (cmd wv 3 [1]) .releaseGraph = (csHandle, 0) ∧ answer (cmd wg1 3 [1]) .releaseGraph = (csOk, 0) ∧
    answer (cmd { wg1 with insts := [inst1] } 3 [1]) .releaseGraph = (csBusy, 0) := by decide +kernel
theorem test_housekeeping : answer (cmd wdump 9 []) .dumpClear = (csOk, 0) ∧ ((cmd wdump 9 []).run .dumpClear).reg 0x0500 = 0 ∧
    answer (cmd wv 11 []) .thermalAck = (csOk, 0) := by decide +kernel
/-- One key slot is loaded. -/
def wkey : State := { wv with keys := [⟨1, .host, 0, .loaded⟩, ⟨5, .mat 9, 0, .loaded⟩] }
theorem wit_keys : wkey.feat 9 = true ∧ apart 0x1000 96 0x400 64 ∧ (∃ k ∈ wkey.keys, k.slot = 5) ∧ (∀ k ∈ wkey.keys, k.slot ≠ 6) ∧
    ((((cmd wkey 5 [0x800, 0x1000]).hostRead 0x800 152)[68]?).getD 0).toNat ≤ 7 ∧ apart 0x1000 512 0x400 64 ∧ wkey.feat 0 = true ∧
    wkey.feat 21 = true ∧ (((cmd wkey 6 [6, 0x1000]).hostRead 0x1000 96).drop 12).take 4 = [0, 0, 0, 0] := by
  unfold apart; decide +kernel
theorem test_keys : answer (cmd wkey 7 [6]) .keyDestroy = (csOk, 0) ∧ ((cmd wkey 7 [5]).run .keyDestroy).slotKey 5 = none ∧
    ((cmd wkey 7 [5]).run .keyDestroy).hcmd.isSome = true ∧
    answer ((cmd wkey 7 [5]).run .keyDestroy) (.keySlotZeroise 5) = (csOk, 0) := by decide +kernel

/-- SUBMIT enabled with its array at host address 0x8000; line 0 holds SEQ n for a handle. -/
def wsub (n handle : Nat) : State :=
  (wg1.setReg 0x0300 (1 + 0x8000)).hostWrite 0x8000 (leBytes (n + handle * 2 ^ 32 + 0x6000 * 2 ^ 64 + 0x7000 * 2 ^ 128) 64)
theorem wit_submit : (1 : Word).getLsbD 0 = true ∧ State.reset.regF 0x0300 0 1 = 0 ∧ (∀ j < 256, bits (State.reset.hostNat (64 * j) 64) 0 32 = 0) ∧
    (wsub 1 1).observing = true ∧ bits ((wsub 1 1).hostNat 0x8000 64) 0 32 = 1 ∧ (wsub 0 1).lineLast.getD 0 0 = 0 ∧
    bits ((wsub 1 1).hostNat 0x8000 64) 48 16 = 0 ∧ bits ((wsub 1 1).hostNat 0x8000 64) 256 256 = 0 ∧
    ((wsub 1 1).graphOf 1).isSome = true ∧ (wsub 1 2).graphOf 2 = none ∧ (wsub 1 1).insts = [] ∧
    ∀ j ∈ (wsub 1 1).sources ⟨1, 0x2000, 0, []⟩, nodeKind ((wsub 1 1).nodeEntry ⟨1, 0x2000, 0, []⟩ j) = 1 := by decide +kernel
theorem test_submit : ((wsub 1 1).run (.submitLineObservation 0)).insts.map (fun i => (i.num, i.seq, i.nodes.map NodeSt.st)) =
      [(0, 1, [.ready])] ∧ ((wsub 1 2).run (.submitLineObservation 0)).insts = [] ∧
    bits (((wsub 1 2).run (.submitLineObservation 0)).hostNat 0x7000 64) 56 8 = 3 ∧
    ((wsub 5 1).run (.submitLineObservation 0)).reg 0x2048 = 1 ∧ ((wsub 0 1).run (.submitLineObservation 0)).irq = [] := by decide +kernel

/-- A held fault with a tag; a running invalidation. -/
def held (tag : Nat) (h : Holder) : HeldFault := ⟨tag, h, 1, 1, false, 0, 0, 0, 0, 0x5000, 0, 0, 0, false, false, false, 0⟩
def wxlt (h : List HeldFault) : State := { wv with
  xlt := { XltSt.empty with held := h, inval := [⟨0, false, false, false, 0, 1⟩], tlb := [⟨24, 0, false, 0, 4096, 1⟩, ⟨24, 1, false, 0, 4096, 1⟩] } }
theorem wit_registers : (w.setReg 0x0710 (2 ^ 63)).regF 0x0710 63 1 = 1 ∧ w.regF 0x0710 63 1 = 0 ∧ (BitVec.ofNat 64 (2 ^ 63)).getLsbD 63 = true ∧
    (wxlt []).xlt.inval.length = 1 ∧ w.fault 3 = none ∧ ((wxlt [held 3 (.stream ⟨0, 0⟩ 2)]).fault 3).isSome = true ∧
    isCounter 0x2100 = true ∧ isCounter 0x2130 = true ∧ isCounter 0x2138 = false ∧ w.reg 0x1418 = 0 ∧
    (w.setReg 0x1400 1).regF 0x1400 0 1 = 1 ∧ w.regF 0x1400 0 1 = 0 ∧ (w.lq 3).flush = false ∧
    (({ w with lqs := [⟨3, [], [], [], 1, false, true⟩] } : State).lq 3).flush = true ∧ State.reset.hostUp = false ∧
    w.hostUp = true ∧ bit1 (w.reg 0) 16 = true := by decide +kernel
theorem test_registers : ((wxlt []).run .invalidationComplete).xlt.tlb = [⟨24, 1, false, 0, 4096, 1⟩] ∧
    ((w.run (.xltInvGo (2 ^ 63 + 5))).xlt.inval.map Inval.asid) = [5] ∧ (w.run (.xltResumeRetry 3)).reg 0x2090 = 1 ∧
    (((wxlt [held 3 (.stream ⟨0, 0⟩ 2)]).run (.xltResumeAbort 3)).cur.q[2]).failed = true ∧
    ((wxlt [held 3 (.stream ⟨0, 0⟩ 2)]).run (.xltResumeRetry 3)).xlt.held = [] ∧ (w.run (.fabJobWrite 7)).slu.msgCtr = 1 ∧
    ((w.setReg 0x2100 9).run (.counterClear 0x2100)).reg 0x2100 = 0 ∧ (w.run (.hostRewardPost 5)).reg 0x1548 = 1 ∧
    (((w.setReg 0x1400 1).setReg 0x1418 9).run (.hostRewardPost 5)).orphans.length = 1 := by decide +kernel
theorem test_register_writes : (w.run (.registerWrite 0x0810 255)).reg 0x0810 = 4096 ∧ (w.run (.registerWrite 0x0810 256)).reg 0x0810 = 256 ∧
    ((w.setReg 0x0400 0x83).run (.registerWrite 0x0400 0x81)).reg 0x0400 = 0x82 ∧ (w.run (.registerWrite 0x0100 5)).reg 0x0100 = 0xFFFFFF ∧
    (w.run (.registerWrite 0x0808 65537)).reg 0x0808 = 0 ∧ (w.run (.registerWrite 0x0808 65536)).reg 0x0808 = 65536 := by decide +kernel

/-! ### Device steps: packets and links -/

/-- A packet of the job from fabric address 1, with its class, operation and data. -/
def pk (cls op : Nat) (data : List Byte) : Packet :=
  ⟨cls, op, 0, 1, 7, 0, 5, ⟨0, 0⟩, 0, 0, 0, 0, 0, 0, false, false, 0, 0, data, true, true, none, none⟩
/-- The same at virtual address 0x4000. -/
def pva (cls op : Nat) (data : List Byte) : Packet := { pk cls op data with va := 0x4000 }
def bytes8 : List Byte := [1, 2, 3, 4, 5, 6, 7, 8]
/-- A collective of package 0 and 1 that waits for its chunk 1. -/
def coll1 : Coll := ⟨0, 0, BitVec.ofNat 512 (2 ^ 4 + 2 ^ 16 + 2 * 2 ^ 64 + 9 * 2 ^ 384), [0, 1], 0, [⟨0, 0, false, bytes8⟩], [], 0, 0, 0, false, false⟩
theorem wit_packets : wv.fatal = none ∧ wv.tripped = false ∧ (pva 1 0 bytes8).crcOk = true ∧ (pva 1 0 bytes8).mbzOk = true ∧
    (pva 1 0 bytes8).job = wv.job ∧ (∀ c ∈ wv.fab.cache, ¬ (c.src = 1 ∧ c.reqid = 5)) ∧ wv.fab.hwm.getD 1 0 < 5 ∧
    wv.fab.cache.length < 4096 ∧ (wv.targetXlate 0x4000 .read).2.toOption.isSome = true ∧
    ((wv.targetXlate 0x4000 .write).2.toOption.any fun ph => inTier1 ph.pa && !ph.pz && wv.targetOk (pva 1 0 bytes8) ph false false 8 == 0
      && wv.targetOk (pva 0 0 bytes8) ph false true 8 == 0 && wv.targetOk (pva 2 17 []) ph true true 8 == 0
      && wv.targetOk (pva 2 1 []) ph true true 4 == 0) = true ∧
    w.regF 0x1000 15 1 = 0 ∧ (2 : Nat) ≠ wv.self ∧ podOf 2 = podOf wv.self ∧ wv.feat 2 = true ∧ podOf 512 ≠ podOf wv.self := by
  decide +kernel
def responded (t : State) : List (Nat × Nat × Word) := t.fab.waiting.map fun p => (p.cls, p.status, p.opa)
theorem test_packets : responded (wv.run (.reqWr (pva 1 0 bytes8))) = [(3, 0, 0)] ∧
    (wv.run (.reqWr (pva 1 0 bytes8))).mem.read 0x4001 = 2 ∧
    responded ((wv.run (.reqWr (pva 1 0 bytes8))).run (.reqWr { pva 1 0 [] with reqid := 5 })) = [(3, 0, 0), (3, 0, 0)] ∧
    responded (whost.run (.reqRd (pva 0 0 bytes8))) = [(3, 0, 7)] ∧
    responded (whost.run (.reqAt { pva 2 17 [] with opa := 3 })) = [(3, 0, 7)] ∧
    (whost.run (.reqAt { pva 2 17 [] with opa := 3 })).mem.read 0x4000 = 10 ∧
    (whost.run (.sig { pva 9 0 [] with opa := 5 })).mem.read 0x4000 = 12 := by decide +kernel
theorem test_packets_refused : (wv.run (.msg { pva 4 0 bytes8 with crcOk := false })).reg 0x1110 = 1 ∧
    responded (wv.run (.reqWr { pva 1 0 bytes8 with job := 8 })) = [(3, 9, 0)] ∧
    (wv.run (.torusHop { pk 1 0 [] with dst := 2 })).reg 0x1120 = 1 ∧ (wv.run (.torusHop { pk 1 0 [] with dst := 0 })).inputs.length = 1 := by decide +kernel
/-- Requests in progress: an atomic of sequence number 7 by the context, and the collective. -/
def wout : State := { wv.setCur (fun c => { c with remote := [⟨7, 5, true, false, none, some (9, 0), 4, 0, 0, false⟩] }) with
  fab := { FabSt.empty with out := [⟨5, { pva 2 0 [] with dst := 1, src := 0 }, 100, 0, .remote ⟨0, 0⟩ 7⟩] }, colls := [coll1] }
theorem wit_responses : (wout.fab.out.find? fun r => r.key == 5).isSome = true ∧
    (wout.colls.find? fun c => c.seq == 9).isSome = true ∧ (coll1.ranks.findIdx? fun a => a == 1) = some 1 ∧
    collForm coll1.desc.toNat = 16 + 2 ^ 8 + 2 * 2 ^ 24 ∧ collInput coll1.desc.toNat = 8 ∧
    (∀ x ∈ coll1.inputs, ¬ (x.member = 1 ∧ x.off = 0)) ∧ (∃ x ∈ coll1.inputs, x.member = 0 ∧ x.off = 0) := by decide +kernel
/-- A chunk of sequence number 9, with its offset and the form it carries. -/
def chunk (op off form : Nat) (data : List Byte) : Packet := { pk 8 op data with opa := 9, va := off, opb := BitVec.ofNat 64 form }
theorem test_chunks :
    ((wout.run (.collChunk (chunk 1 0 (16 + 2 ^ 8 + 2 * 2 ^ 24) bytes8))).colls.map fun c => c.part 1) = [bytes8.map fun b => (b, false)] ∧
    ((wout.run (.collChunk (chunk 1 0 (16 + 2 ^ 8 + 2 ^ 24) bytes8))).colls.map fun c => (c.finished, c.status)) = [(true, 4)] ∧
    ((wv.run (.collChunk (chunk 1 0 7 bytes8))).fab.early.length, (wv.run (.collChunk (chunk 1 0 7 bytes8))).fab.waiting.map Packet.op) = (1, [2]) ∧
    (({ wv with fab := { FabSt.empty with out := [⟨chunkKey 9 1 64, pk 8 1 [], 100, 0, .coll 0 0⟩] } } : State).run
      (.collChunk (chunk 2 64 7 []))).fab.out.length = 0 := by decide +kernel
theorem test_responses : ((wout.run (.resp { pk 3 0 [] with status := 0 })).cur.remote.map Remote.status) = [some 0] ∧
    (wout.run (.resp { pk 3 0 [] with status := 0 })).fab.out.length = 0 ∧
    responded ((wv.setReg 0x1400 1).run (.rwpostArrival { pk 7 1 bytes8 with opa := 3 })) = [(3, 9, 0)] ∧
    ((wv.setReg 0x1400 1).run (.rwpostArrival { pk 7 1 [1, 0, 0, 0, 0, 0, 0, 0] with opa := 3 })).orphans.length = 1 := by
  decide +kernel

/-- The sluice enabled; a request of message 3 from address 1, and a send of message 3. -/
def wsl : State := wv.setReg 0x1200 (8 + 16 * 2 ^ 8 + 32 * 2 ^ 16 + 3 * 2 ^ 26 + 2 ^ 32)
def req (st : ReqState) : SlReq :=
  ⟨1, 3, 0, 0x4000, 0, 65536, 0, 7, st, [(32768, 65536)], [⟨9, 0, 8192, 200, []⟩], some ⟨7, 0, 4096, 50, []⟩, [], false, false, 60⟩
def wreq (st : ReqState) : State := { wsl with slu := { SluiceSt.empty with reqs := [req st] } }
def wsend (st : SendState) : State := { wsl with slu := { SluiceSt.empty with sends := [sendOf st] } }
def closed1 : State := { wsl with slu := { SluiceSt.empty with closed := [⟨1, 3, pk 5 9 [], 0⟩] } }
def sp (op : Nat) (data : List Byte) : Packet := { pk 5 op data with opa := 3 }
theorem wit_sluice_packets : wsl.slEnabled = true ∧ wsl.fatal = none ∧ (sp 1 (List.replicate 32 0)).data.length = 32 ∧
    dataWord (sp 1 (List.replicate 32 0)) 3 = 0 ∧ (closed1.slu.closed.find? fun c => c.src == 1 && c.msgid == 3).isSome = true ∧
    wsl.reqOf 1 3 = none ∧ ((wreq .paused).reqOf 1 3).isSome = true ∧ ((wreq .waiting).reqOf 1 3).isSome = true ∧
    wsl.slu.reqs.length < 4096 ∧ ((wsend .posted).sendOf 3).isSome = true ∧ ((wsend .returning).sendOf 3).isSome = true ∧
    ((wsend .cancelling).sendOf 3).isSome = true ∧ wsl.sendOf 3 = none ∧ pieceOf 0 8192 1 = (4096, 4096) ∧ pieceCount 8192 = 2 ∧
    rangeSize (addRange [] 4096 8192) < 65536 ∧ (wsl.targetXlate 0x5000 .write).2.toOption.map Phys.pa = some 0x5000 ∧
    (wreq .waiting).eligible (req .waiting) = true ∧ (wreq .paused).eligible (req .paused) = false ∧ podOf 1 = podOf wsl.self ∧
    ((req .waiting).tokens.filter fun x => x.expiry ≤ 0) = [] ∧
    ((req .waiting).spill.toList.filter fun x => x.expiry ≤ 50).length = 1 ∧
    { wsend .queued with ftime := 1000000 }.regF 0x1210 32 32 * 1000 ≤ 1000000 := by decide +kernel
def ctl (t : State) : List (Nat × Nat × Word) := t.fab.waiting.map fun p => (p.op, p.dst, p.opa)
theorem test_rts : ctl (wsl.run (.rts { sp 1 (List.replicate 32 0) with opb := 65536, va := 0x4000 })) = [(2, 1, 3)] ∧
    (wsl.run (.rts { sp 1 (List.replicate 32 0) with opb := 65536, va := 0x4000 })).slu.reqs.length = 1 ∧
    ctl (closed1.run (.rts (sp 1 (List.replicate 32 0)))) = [(9, 0, 0)] ∧
    ((wreq .waiting).run (.rts { sp 1 (List.replicate 32 0) with opb := 65536, va := 0x4000 })).slu.reqs.map SlReq.orphanAt =
      [10000000] := by decide +kernel
theorem test_sender : ((wsend .posted).run (.accept (sp 2 []))).slu.sends.map SlSend.st = [.queued] ∧
    ((wsend .returning).run (.accept { sp 2 [] with opa := 3 + 2 ^ 51 })).slu.sends.length = 0 ∧
    ((wsend .posted).run (.token { sp 4 (leBytes 100 8) with opb := 9, opa := 3 + 4095 * 2 ^ 48 })).slu.sends.map (fun e => e.tokens) =
      [[⟨9, 0, 4096, 100, []⟩]] ∧ ctl (wsl.run (.token (sp 4 (leBytes 100 8)))) = [(8, 1, 3)] ∧
    ((wsend .queued).run (.ack { sp 5 [] with opa := 3 + 4095 * 2 ^ 48 })).slu.sends.map SlSend.acked = [[(0, 4096)]] ∧
    ((wsend .queued).run (.done (sp 9 []))).slu.sends.length = 0 ∧ ((wsend .posted).run (.purge (sp 10 []))).slu.sends.length = 0 := by
  decide +kernel
theorem test_receiver : ctl ((wreq .waiting).run (.returnPkt (sp 7 []))) = [(2, 1, 0x8000000000003)] ∧
    ((wreq .waiting).run (.returnPkt (sp 7 []))).slu.reqs.map SlReq.st = [.paused] ∧
    ctl ((wreq .waiting).run (.cancel (sp 8 (List.replicate 8 0)))) = [(9, 1, 3)] ∧
    ((wreq .waiting).run (.renew (sp 6 []))).slu.reqs.map SlReq.orphanAt = [10000000] ∧ ctl (wsl.run (.renew (sp 6 []))) = [(10, 1, 3)] ∧
    ((wreq .waiting).run .grantDecision).slu.ticketCtr = 2 ∧ (({ wreq .waiting with ftime := 50 } : State).run (.tokenExpiry 1 3)).slu.reqs.map
      (fun e => e.ungranted) = [[(0, 4096), (32768, 65536)]] ∧
    ctl (({ wreq .waiting with ftime := 60 } : State).run (.orphanTimeout 1 3)) = [(10, 1, 3)] ∧
    ctl (({ wsend .queued with ftime := 1000000 } : State).run (.renewInterval 3)) = [(6, 1, 3)] := by decide +kernel
theorem test_pieces : ((wreq .waiting).run (.pull { pk 6 2 (List.replicate 4096 5) with va := 0x5000, opa := 3, opb := 8 })).reg 0x1320 = 1 ∧
    ((wreq .waiting).run (.pull { pk 6 2 (List.replicate 8 5) with va := 0x5000, opa := 3, opb := 9 })).reg 0x1138 = 1 := by decide +kernel

/-- A request past its deadline; the rotor active on plane 0 at the start of its slot. -/
def wlate (n : Nat) : State := { wout with ftime := 100, fab := { wout.fab with out := wout.fab.out.map fun r => { r with retries := n } } }
def wrot : State :=
  let s := (((wv.setReg 0x1000 (2 ^ 16 + 2 ^ 22 + 2 ^ 31 + 7 * 2 ^ 32 + 2 ^ 48))).setReg 0x1010 (200000 + 3 * 2 ^ 32))
  { s with ftime := 131072, fab := { FabSt.empty with planesUp := 1, pairsUp := -1 } }
theorem wit_links : ((wlate 0).fab.out.find? fun r => r.key == 5 && r.deadline ≤ (wlate 0).ftime).isSome = true ∧
    0 < (wlate 0).regF 0x1010 32 4 ∧ (wlate 3).regF 0x1010 32 4 ≤ 3 ∧ (∀ r ∈ wout.fab.out, wout.ftime < r.deadline) ∧
    wrot.rotorOn = true ∧ wrot.fab.planesUp.getLsbD 0 = true ∧ partner (slotAt 131072 0 % 63) (podOf wrot.self) = 1 ∧ wrot.pods = 1 ∧
    ({ wrot with ftime := 1000000 } : State).fab.lastBeacon + 1000000 ≤ 1000000 ∧ wrot.regF 0x1000 15 1 = 0 ∧
    wrot.regF 0x1000 31 1 = 1 ∧ wrot.fab.pairsUp.getLsbD 24 = true ∧ wv.fab.pairsUp.getLsbD 24 = false ∧ wrot.feat 2 = true := by
  decide +kernel
theorem test_links : ((wlate 0).run (.e2eTimeout 5)).fab.out.map Request.retries = [1] ∧
    ((wlate 3).run (.e2eTimeout 5)).cur.remote.map Remote.status = [some 11] ∧ (wlate 3 |>.run (.e2eTimeout 5)).reg 0x1120 = 1 ∧
    (wrot.run (.beacon ⟨some 0, 512, 50, 4, 1⟩)).fab.credits = [(0, 4)] ∧ (wrot.run (.beacon ⟨some 0, 1024, 50, 4, 1⟩)).fab.credits = [] ∧
    (wrot.run (.rotorSlotStart 0)).txBeacons.length = 1 ∧ (({ wrot with ftime := 1000000 } : State).run .beaconLoss).rotorOn = false ∧
    (wrot.run .torusBeacon).txBeacons.length = 2 ∧ (wrot.run (.lossOfLight 24)).fab.planesUp = 0 := by decide +kernel
/-- An FLD at its bound whose data came, and one whose data did not; a full save record. -/
def wfld (st : Option Nat) : State := w.setCur fun c => { c with late := [⟨1, 5, false, 4, .d64, some 0, false, st, 77, false⟩] }
def wsave : State := { w with saves := [⟨2, 0, 0, 0, 6, 0, true, false, [], [], 0, fetchLaunch, none⟩] }
theorem wit_bounds : ((wfld (some 0)).ctx ⟨0, 0⟩).bounds.length = 1 ∧ ((wfld none).ctx ⟨0, 0⟩).bounds.length = 1 ∧
    (wsave.saves.find? fun v => v.num == 2 && v.full).isSome = true ∧ (∀ v ∈ wsave.saves, v.num = 3 → v.full = false) ∧
    w.nodeActs 0 0 = none := by decide +kernel
/-- The collective of instance 0 with both inputs and its node ready. -/
def wcoll : State := { wg1 with
  insts := [{ inst1 with nodes := [⟨0, .ready, 0, [], false, -1, []⟩] }], colls := [{ coll1 with inputs := [⟨0, 0, false, bytes8⟩, ⟨1, 0, false, bytes8⟩] }] }
theorem wit_coll : (wcoll.nodeActs 0 0).isSome = true ∧ (wcoll.colls.find? fun k => k.inst == 0 && k.node == 0).isSome = true ∧
    ((wcoll.colls.all fun k => (List.range 2).all fun j => (k.part j).length == collInput k.desc.toNat) = true) ∧ collFold (16 * 2) [2, 3] = (5, false) ∧ collFold 17 [2, -3] = (-3, false) ∧
    collFold 18 [2, -3] = (2, false) := by decide +kernel

/-! ### Device steps: the join, scheduling and the events of a core -/

/-- The join enabled with slots of 2 KiB; one entry in a state, with its deadline, scan mark and queue 0. -/
def wjn (st : JState) (due : Option Nat) (scanned : Bool) : State :=
  { ((wv.setReg 0x1400 (1 + 11 * 2 ^ 5)).setReg 0x1408 (2 ^ 32)) with
    ftime := 1000, join := [⟨4, 77, st, some 0, 0, due, 5, scanned, false⟩] }
/-- The same after a header of one step, key 77, and that step with reward 3 and value 0. -/
def wep (st : JState) (due : Option Nat) (scanned : Bool) : State :=
  let s := wjn st due scanned
  (({ s with lineKeys := s.lineKeys ++ [(s.slotPlace 0 / 64, .reeve), (s.slotPlace 0 / 64 + 1, .reeve)] } : State).setHeader 0
    (77 + 2 ^ 128)).setStep 0 0 (3 * 2 ^ 160 + 2 ^ 88 + 2 ^ 89)
theorem wit_join : (wjn .closed (some 1000) false).jEntry 3 = none ∧ ((wep .closed (some 1000) false).jEntry 4).isSome = true ∧
    inTier1 ((wep .closed (some 1000) false).slotPlace 0 + 63) = true ∧ hMode ((wep .closed (some 1000) false).header 0) = 0 ∧
    (wep .closed (some 1000) false).regF (lqReg 0) 1 1 = 0 ∧ ((wep .closed (some 1000) false).setReg (lqReg 0) 2).regF (lqReg 0) 1 1 = 1 ∧
    hMode ((wep .closed none false).setHeader 0 (2 ^ 105) |>.header 0) = 2 ∧ hSteps ((wep .complete none false).header 0) = 1 ∧
    inTier1 ((wep .complete none false).stepPlace 0 1) = true ∧ (wjn .opn (some 9) false).ftime = 1000 ∧ (wjn .opn none false).lqHead 0 = none ∧
    ((wjn .complete none true).lqHead 0).isSome = true ∧ ((wjn .complete none false).lqHead 0).isSome = true ∧
    (wjn .complete none true).regF (lqReg 0) 0 1 = 0 ∧ (w.lq 0).pend = [] ∧
    ({ w with lqs := [⟨0, [(5, 1)], [], [], 1, false, false⟩] } : State).lq 0 = ⟨0, [(5, 1)], [], [], 1, false, false⟩ := by decide +kernel
theorem test_join_timers : ((wjn .opn (some 9) false).run (.openLimit 4)).join.map JEntry.st = [.done] ∧
    ((wjn .opn (some 9) false).run (.openLimit 4)).reg 0x1568 = 1 ∧ ((wjn .done (some 9) false).run (.lingerExpiry 4)).join = [] ∧
    ((wjn .done (some 9) false).run (.lingerExpiry 4)).reuse.getD 4 0 = 1 ∧
    ((wep .closed (some 1000) false).run (.joinTimeout 4)).join.map JEntry.st = [.complete] ∧
    bit1 (((wep .closed (some 1000) false).run (.joinTimeout 4)).header 0) 256 = true ∧
    (({ wjn .opn none false with orphans := [⟨1, 2, 3, 0, 0, 9⟩] } : State).run .orphanWindowExpiry).reg 0x1530 = 1 := by decide +kernel
theorem test_join_scan : bits (((wep .complete none false).run (.backwardScan 4)).stepRec 0 0) 192 64 = 3 + 3 * 2 ^ 32 ∧
    ((wep .complete none false).run (.backwardScan 4)).join.map JEntry.scanned = [true] ∧
    (({ w with lqs := [⟨0, [(5, 1)], [], [], 7, false, false⟩] } : State).run (.descriptorReady 0)).lqs.map LQueue.seq = [8] ∧
    ((wjn .complete none true).run (.release 0)).reg 0x1578 = 1 := by decide +kernel

/-- A held fault of address space 0 with a ring of 64 records at 0x5000 of host memory. -/
def wring (waits delivered : Bool) : State :=
  let s := wxlt [{ held 3 (.stream ⟨0, 0⟩ 2) with waits := waits, delivered := delivered }]
  { s with mem := (s.mem.writeList 0x20000 (leBytes (1 + 2 ^ 16 + 0x30000 * 2 ^ 64 + 0x5000 * 2 ^ 128 + 6 * 2 ^ 192) 64))
           lineKeys := [0x40, 0x80, 0x81, 0x100, 0x101, 0x102, 0x103, 0x140, 0x141, 0x800, 0xC00, 0x1000].map fun l => (l, .host) }
/-- A walker of polders 0 and 1 over 100 coordinates; with a split request. -/
def wwalk (split : Bool) : State := { wg1 with
  graphs := [⟨1, 0x2000, 0, [(0, 0, BitVec.ofNat 2048 (2 ^ 144))]⟩]
  insts := [{ inst1 with nodes := [⟨0, .started, 0, [], false, -1, []⟩] }]
  walkers := [⟨0, 0, 10, 100, 10, 0, 3, 2, false, 0, 0, 0, 0⟩], splitQ := if split then [(0, 1)] else [] }
/-- The context waits for its start, or is loaded, or has ended, or is a victim, with a launch of its own. -/
def wph (p : Phase) (v : Option Nat) : State := w.setCur fun c => { c with phase := p, victim := v, launch := { c.launch with gang := 0 } }
/-- A victim before a drain bundle. -/
def wvic : State := (wph .ready (some 2)).poke (w.cur.place (pc0 + 3)) [128]
theorem wit_faults : w.fault 3 = none ∧ ((wring false false).fault 3).any (fun h => !h.delivered && !(wring false false).fillable h) = true ∧
    ((wring false false).ast 0).any (fun e => bits e 128 64 == 0x5000 && bits e 192 4 == 6 && bits e 256 64 == 0) = true ∧
    (wring false false).tierNat .host 0x5000 8 = 0 ∧ w.opOf ⟨0, 0⟩ 3 = none ∧ w.nodeActs 1 1 = none ∧ w.walker 5 = none ∧
    ((wwalk false).walker 0).isSome = true ∧ (wwalk false).mayEmit ((wwalk false).walkers.headD ⟨0, 0, 0, 0, 0, 0, 0, 0, false, 0, 0, 0, 0⟩) = true ∧
    (wwalk false).splitNext = none ∧ (wwalk true).splitNext = some 1 ∧ headEntry (w.pol 3) = none ∧
    (wph .ready none).cur.phase ≠ .loading ∧ (wph .waiting none).cur.phase = .waiting ∧ (wph .waiting none).isHeld (.overlay ⟨0, 0⟩) = false ∧
    (wph .ready none).retirable (wph .ready none).cur = false ∧ (wph .ended none).retirable (wph .ended none).cur = true ∧
    wvic.mayStop wvic.cur = true ∧ (wph .saving (some 2)).maySave (wph .saving (some 2)).cur = true ∧
    w.resumeNext = none ∧ w.mayPreempt 0 = none ∧ (w.core 0).slicing = false := by decide +kernel
theorem test_faults : ((wring false false).run (.faultDelivery 3)).tierNat .host 0x5000 8 = 1 ∧
    ((wring false false).run (.faultDelivery 3)).xlt.held.map HeldFault.delivered = [true] ∧
    ((wring true false).run (.faultDelivery 3)).reg 0x2080 = 0 ∧ ((wring true false).run (.faultDeliveryRetry 3)).reg 0x2080 = 1 ∧
    ((wwalk false).run (.walkerEmit 0)).walkers.map Walker.cursor = [11] ∧
    (wvic.run (.victimStop ⟨0, 0⟩)).cur.phase = .saving := by decide +kernel

/-! ### Hypotheses on memory behind translation, and on requests in progress -/

/-- The address space with one more entry, of a page table or of the pool, and a fine page at 0x50000. -/
def wcow : State :=
  let s := { wv with lineKeys := wv.lineKeys.take 7 ++ [(0x180, .host)] ++ wv.lineKeys.drop 7 ++ [(0x1400, .host)] }
  [(0x20000, 1 + 2 ^ 16 + 2 ^ 32 + 0x30000 * 2 ^ 64), (0x20020, 0x6000 * 2 ^ 64 + 2 ^ 128), (0x40000, 3 + 0x50000), (0x50000, 0x100235),
    (0x6000, 0x200000)].foldl (fun s x => { s with mem := s.mem.writeList x.1 (leBytes x.2 32) }) s
/-- The page at 0 poisoned as a whole. -/
def wpz : State := { wv with mem := wv.mem.writeList 0x40000 (leBytes 0x29D 8) }
/-- Registers k1, k2 and k5 that name objects in the share, in memory and in a closed segment. -/
def wobj : State := wv.setCur fun c => { c with k := ((c.k.set 1 0x1000).set 2 0x4000).set 5 (2 ^ 55 + 2 ^ 23) }
theorem wit_object_reads : (wz 0).objAddr 5 true true = some ⟨.boez, 2 ^ 23⟩ ∧ (wz 0).closed (wz 0).cur ⟨.boez, 2 ^ 23⟩ 16 = true ∧
    (wz 0).clear (.ccnt 5 7 true) = true ∧ (wz 0).clear (.cwait 5 2 true) = true ∧
    (wk 0).closed (wk 0).cur ⟨.loc, 0x1000⟩ 16 = false ∧
    poisonedAt ({ wk 0 with poison := [(wk 0).cur.place 0x1000 / 8] } : State).loadMem.2 ((wk 0).cur.place 0x1000) 8 = true ∧
    wobj.objAddr 2 false true = some ⟨.virt, 0x4000⟩ ∧ wobj.clear (.ccnt 2 7 false) = true ∧ wobj.clear (.cwait 2 3 false) = true ∧
    wobj.isHeld (.stall wobj.cur.id) = false ∧ ({ wobj with poison := [0x800] } : State).isHeld (.stall wobj.cur.id) = false ∧
    ((wobj.xlate (tlbOf 0) wobj.cur.launch.asid 0x4000 .read).2.toOption.any fun ph => wobj.unread ph == none &&
      ({ wobj with poison := [0x800] } : State).unread ph == some 0x2018) = true := by decide +kernel
theorem wit_poisoned_page : ((wpz.targetXlate 0x4000 .write).2.toOption.any fun ph => ph.pz && inTier1 ph.pa &&
      wpz.targetOk (pva 1 0 bytes8) ph false false 8 == 0) = true ∧
    ((wpz.run (.reqWr (pva 1 0 bytes8))).fab.waiting.map Packet.status) = [1] := by decide +kernel
theorem wit_cow : (wcow.ast 0).any (fun e => bits e 416 32 != bits e 384 32 && bits e 320 64 + 8 * bits e 416 32 == 0x6000 &&
      bits e 32 14 == 1 && bits e 16 14 == 1) = true ∧
    (wcow.walk 0 0x4000).toOption.any (fun l => l.size == 65536 && l.pte.getLsbD 5 && leafKeyId l.pte.toNat == 1 && l.at_ == 0x50000
      && bits l.pte.toNat 12 40 * 4096 == 0x100000) = true ∧ wcow.tierNat .host 0x6000 8 = 0x200000 ∧
    wcow.slotKey 1 = some .host ∧ inTier1 0x6007 = true ∧ lineBad wcow.poison 0x6000 8 = false ∧ inTier1 (0x200000 + 65535) = true ∧
    apart 0x200000 65536 0x100000 65536 ∧ apart 0x200000 65536 0x50000 128 ∧ apart 0x100000 65536 0x20000 64 ∧
    wcow.astPlace 0 = 0x20000 := by unfold apart; decide +kernel
/-- The collective of instance 0 before it has sent its input, and when both inputs are here and its own has been sent. -/
def wfold (sent : Nat) : State := { wcoll with
  colls := [{ coll1 with sent := sent, inputs := [⟨0, 0, false, bytes8⟩, ⟨1, 0, false, bytes8⟩] }] }
theorem wit_collective : ((wfold 0).collOf 0 0).isSome = true ∧ ((wfold 0).nodeActs 0 0).isSome = true ∧
    (wfold 0).colls.all (fun x => coll1.seq ≤ x.seq) = true ∧ bits coll1.desc.toNat 128 64 % 4096 + 8 ≤ 4096 ∧
    (((wfold 0).startNode 0 0).vGet tlbIo 0 0 8).2.toOption.any (fun x => x.1.all fun b => !b.2) = true ∧
    (collOutput coll1.desc.toNat 0 ((List.range 2).map ((wfold 8).collOf 0 0 |>.getD coll1).part)).1.length = 8 ∧
    (((wfold 8).startNode 0 0).vPut tlbIo 0 0 (bytes8.map fun b => (b, false))).2.isOk = true ∧
    (((wfold 8).startNode 0 0).objVirt tlbIo 0 0 1 0).2.isNone = true := by decide +kernel
/-- A control packet past its deadline with no retry left; a full request table; an observed line. -/
def wctl (n : Nat) : State := { wsend .posted with
  ftime := 100, fab := { FabSt.empty with out := [⟨sluiceKey 3 .rts, sp 1 [], 100, n, .host⟩] } }
def wfull : State := { wsl with slu := { SluiceSt.empty with reqs := List.replicate 4096 { req .waiting with src := 2 } } }
theorem wit_requests : ((wctl 3).fab.out.find? fun r => r.key == sluiceKey 3 .rts && r.deadline ≤ (wctl 3).ftime).isSome = true ∧
    (wctl 3).regF 0x1010 32 4 ≤ 3 ∧ ((wctl 3).sendOf 3).any (fun e => e.st == .posted) = true ∧ wfull.reqOf 1 3 = none ∧
    wfull.slu.reqs.length = 4096 ∧ (wreq .waiting).slu.lastGrant ≤ (wreq .waiting).ftime ∧
    ({ wreq .waiting with slu := { (wreq .waiting).slu with lastGrant := 4 } } : State).ftime < 4 ∧
    (wsub 1 1).lineMay 0 = true ∧ ({ wsub 1 1 with obsLast := some ((wsub 1 1).ftime, 255) } : State).lineMay 0 = false ∧
    ((wep .complete none false).jEntry 4).any (wep .complete none false).scanNext = true ∧
    (wrot.torusLink (pk 1 0 [])).isNone = true ∧ (wrot.torusLink { pk 1 0 [] with dst := 1 }).isSome = true := by decide +kernel
theorem test_requests : ((wctl 3).run (.e2eTimeout (sluiceKey 3 .rts))).slu.sends.length = 0 ∧
    ((wctl 0).run (.e2eTimeout (sluiceKey 3 .rts))).slu.sends.map SlSend.lastSent = [100] ∧
    ctl (wfull.run (.rts { sp 1 (List.replicate 32 0) with opb := 65536, va := 0x4000 })) = [(3, 1, 3)] ∧
    (({ wsub 1 1 with obsLast := some ((wsub 1 1).ftime, 255) } : State).run (.submitLineObservation 0)).insts = [] ∧
    (({ wreq .waiting with slu := { (wreq .waiting).slu with lastGrant := 4 } } : State).run .grantDecision).fab.waiting = [] := by
  decide +kernel

/-- A scalar result due, flags due, a peer store due, a request for the lease, and a pending trap. -/
def wland (x : Dest) : State := w.setCur fun c => { c with writes := [⟨0, x⟩, ⟨9, .s 6 6 false⟩] }
def wpeer : State := { w with peers := [⟨0, ⟨0, 1⟩, 0, [(5, 1), (6, 2)], some (2, [6]), true⟩, ⟨9, ⟨0, 1⟩, 0, [(5, 3)], none, false⟩] }
def wlease : State := { w with pols := [{ PolderSt.idle 0 with leaseQ := [(⟨0, 0⟩, 0)] }] }
theorem wit_core : ((wland (.s 5 7 true)).cur.writes.filter fun x => x.due ≤ (wland (.s 5 7 true)).cycle) = [⟨0, .s 5 7 true⟩] ∧
    (wland (.s 5 7 true)).cur.ep = [] ∧ (w.tileClash w.cur 0 0) = false ∧ (w.cur.csrs csrVgate).getLsbD 0 = false ∧ (w.cur.wake[0]) ≤ w.cycle ∧
    w.cur.trap = none ∧ (wh true 0 |>.raise causeStack 7 8).cur.trap.isSome = true ∧
    (wpeer.peers.filter fun k => k.due ≤ wpeer.cycle).length = 1 ∧ (∀ k ∈ w.peers, w.cycle < k.due) ∧ wlease.mayGrant 0 = true ∧
    w.mayGrant 0 = false ∧ w.nextStep 0 = none ∧ (∀ a ∈ (w.pol 0).arr, w.cycle < a.due) ∧ w.loadReady 0 false = none ∧
    w.storeReady 0 = none ∧ (w.streamReady w.cur 3) = false ∧ w.cur.cdescOp 3 = none ∧ (w.core 0).run.isSome = true := by decide +kernel
theorem test_core : ((wland (.s 5 7 true)).run (.resultLand ⟨0, 0⟩)).cur.s[5] = 7 ∧
    ((wland (.s 5 7 true)).run (.resultLand ⟨0, 0⟩)).cur.spois = 32 ∧ ((wland (.s 5 7 true)).run (.resultLand ⟨0, 0⟩)).cur.writes.length = 1 ∧
    ((wland (.p 3 true)).run (.resultLand ⟨0, 0⟩)).cur.p.getLsbD 3 = true ∧ ((wland (.mem 64 [9])).run (.resultLand ⟨0, 0⟩)).mem.read 64 = 9 ∧
    (wpeer.run .peerStoreLand).mem.read 6 = 2 ∧ (wpeer.run .peerStoreLand).peers.length = 1 ∧
    (wlease.run (.leaseGrant 0)).cur.lease = .held := by decide +kernel

/-! ### Further forms of the statements -/

/-- Every reply, write and late entry in use, in a job of two packages. -/
def wlim : State := (wj [(1, 0x40), (2, rnk 1 0), (3, 0x100)]).setCur fun c => { c with
  remote := List.replicate 16 ⟨0, 5, true, false, none, none, 4, 0, 0, false⟩ ++ List.replicate 64 ⟨0, 5, false, false, none, none, 4, 0, 0, false⟩
  late := List.replicate 16 ⟨1, 5, false, 4, .d64, some 0, false, none, 77, false⟩ }
theorem wit_limits : (∀ i ∈ [(.fatom 1 2 3 4 true 2 : Instr), .fcas 1 2 3 4 false, .rwpost 1 2 3 4, .fst 1 2 3 true .b8, .fsig 1 2 3,
      .fmsg 1 2 3 true 0, .fld 1 2 5 false .d64], wlim.clear i = true) ∧ wlim.opAddr 3 true = some ⟨.loc, 0x100⟩ ∧
    wlim.rangeOk ⟨.loc, 0x100⟩ 8 true = true ∧ wlim.closed wlim.cur ⟨.loc, 0x100⟩ 8 = false ∧ wlim.cur.late.length = 16 ∧
    (wlim.cur.remote.filter fun e => e.reply).length = 16 ∧ (wlim.cur.remote.filter fun e => !e.reply).length = 64 := by decide +kernel
/-- Two adjacent multicast windows of one page each. -/
def wmc : State := (w.setReg 0x3000 (2 ^ 48 + 2 ^ 20)).setReg 0x3008 (2 ^ 48 + 2 ^ 20 + 1)
/-- Vector accesses below address 0, out of the share, through two windows, and to two lines of one bank. -/
theorem wit_vector_refused : vecBase 0 (-1) .w512 = -64 ∧ w.clear (.vld ⟨false, .w512, .i16, 3, 4, -1, 0⟩) = true ∧
    w.clear (.vst ⟨.w512, .i16, -1, 4, 5, 0⟩) = true ∧ w.reaches (2 ^ 26) 4 true = false ∧
    (w.reaches 0 4 true = true ∧ w.reaches 4096 4 true = true ∧ sameBank (2 ^ 48) (2 ^ 48 + 64) = true ∧
      w.unitLines [(0, 4), (4096, 4)] (0, 4) = [2 ^ 48] ∧ w.unitLines [(0, 4), (4096, 4)] (4096, 4) = [2 ^ 48 + 64]) ∧
    wmc.reaches (2 ^ 25 + 4092) 4 false = true ∧ wmc.reaches (2 ^ 25 + 4096) 4 false = true ∧
    mcastSpan [((2 ^ 25 + 4092 : Int), 4), (2 ^ 25 + 4096, 4)] = some (4092, 4100) ∧
    wmc.mcw (polOf wmc.cur.id.core) wmc.cur.launch.asid 4092 8 = none := by decide +kernel
/-- Address registers that name a descriptor at 80, at a place out of the share, and one of another type. -/
def wbd1 (d : Nat) : State := (w.vec 4 (d * 2 ^ 64 + 2 ^ 96)).poke (w.cur.place 64) [2]
theorem wit_descriptors_refused : (∀ d ∈ [80, 2 ^ 26, 64], (wbd1 d).clear (.vst ⟨.w512, .i16, 0, 4, 5, 0⟩) = true ∧
      (wbd1 d).clear (.vsts ⟨.w512, .i16, 0, 4, 5, 0⟩) = true) ∧ 80 % 64 ≠ 0 ∧ (wbd1 (2 ^ 26)).reaches (2 ^ 26) 64 true = false ∧
    (wbd1 64).reaches 64 64 true = true ∧ leNat ((wbd1 64).view (wbd1 64).loadMem.1 ((wbd1 64).at_ 64) 64) % 16 ≠ typeCode .i16 ∧
    (wbd1 64).unitsOk (unitsOf (fun _ => true) 32 16 fun i => 0 + (i * 2 : Nat)) false = true ∧ tdBad 17 = true := by decide +kernel

/-- VAND with stream q1 in a source or stream q3 as its destination; the streams of a context. -/
def vandOf (str : Str) : Instr := .vand ⟨false, .w512, .i16, 3, 1, 5, 0, str⟩
def wpop (b : Binding) (fin : Option LoopEnd) : State := w.setCur fun c => { c with q := c.q.set 1 b, block := fin.map fun f => ⟨0, 1, f⟩ }
def wpush (b : Binding) : State := w.setCur fun c => { c with q := c.q.set 3 b }
def rd1 : Binding := { Binding.unbound with kind := .read, w := .w512, pat := BitVec.ofNat 512 desc }
def wr1 : Binding := { rd1 with kind := .write }
def wpipe : Binding := { wr1 with pat := BitVec.ofNat 512 (2 ^ 70) }
theorem wit_stream_traps : (∀ b ∈ [Binding.unbound, wr1, { rd1 with w := .w256 }, rd1, { rd1 with token := true }],
      (wpop b none).clear (vandOf .a) = true) ∧ (wpop rd1 none).atToken (wpop rd1 none).cur rd1 = false ∧
    (∀ f ∈ [none, some (LoopEnd.stream 1 2)], (wpop { rd1 with token := true } f).atToken (wpop rd1 f).cur { rd1 with token := true } = true ∧
      (wpop { rd1 with token := true } f).clear (vandOf .a) = true) ∧
    (∀ b ∈ [Binding.unbound, rd1, { wr1 with w := .w256 }, { wr1 with ended := true }, { wr1 with fetched := 1 }, wpipe,
      { wr1 with kind := .scatter, entries := List.replicate 8 ⟨7, false, 0, 0, []⟩ }], (wpush b).clear (vandOf .d) = true) ∧
    wr1.count = 1 ∧ wr1.pipe = false ∧ wpipe.pipe = true ∧ ((wpush wpipe).pipeReg (wpush wpipe).cur 0).free = 0 ∧
    ((wpush wpipe).cur.pipeDef 0).per wpipe.eBytes = 1 := by decide +kernel
theorem test_stream_traps : trapOf (wpop wr1 none) (vandOf .a) = some causeStream ∧
    ((wpop rd1 none).run (vandOf .a)).cur.stalled = true ∧ trapOf (wpop { rd1 with token := true } none) (vandOf .a) = some causeStream ∧
    ((wpop { rd1 with token := true } (some (.stream 1 2))).run (vandOf .a)).cur.finalBundle = some 2 ∧
    trapOf (wpush { wr1 with fetched := 1 }) (vandOf .d) = some causeStream ∧ ((wpush wpipe).run (vandOf .d)).cur.stalled = true := by
  decide +kernel

/-- A bundle in which another slot has already moved on: the operands of the rest are those at issue. -/
def wiss : State := { w.ctx fun c => c.setCsr csrVgate 1 with issueCur := some w.cur }
theorem wit_in_bundle : wiss.clear (.vrfgate 12) = true ∧ wiss.issueCur = some w.cur ∧ wiss.cur ≠ w.cur ∧ wiss.rd = w.cur := by
  decide +kernel
theorem wit_described_stores : wd.landedNow = [] ∧ (64 % 64 = 0 ∧ bit1 (64 * 2 ^ 64 + 2 ^ 96) 96 = true) ∧
    wd.unitsOk (unitsOf (laneOn (wd.readM 0) 16) (512 / 16) 16 fun i => 0 + (i * 2 : Nat)) false = true ∧
    (wd.tasks.flatMap wd.pendingAt) = [] ∧ wd.cur.place 66 = wd.at_ 64 + 2 ∧
    (wd.run (.vst ⟨.w512, .i16, 0, 4, 5, 0⟩)).mem.read (wd.cur.place 66) = 15 := by decide +kernel
/-- Targets out of the code region, and an empty return stack over one spilled entry. -/
def wout1 : State := wb.setCur fun c => { c with bt := c.bt.set 2 0, rstack := [64] }
theorem wit_calls_out : wout1.clear (.calli 2) = true ∧ wout1.cur.inCode (wout1.cur.bt[2]).toNat = false ∧ wout1.clear .ret = true ∧
    wout1.cur.inCode 64 = false ∧ (ws 0 1).clear .ret = true ∧ (ws 0 1).cur.rstack = [] ∧
    ((ws 0 1).cur.csrs csrSpillDepth).toNat = 1 ∧ (ws 8 1).clear (.calli 2) = true := by decide +kernel
theorem test_calls_out : trapOf wout1 (.calli 2) = some causeAddress ∧ trapOf wout1 .ret = some causeAddress ∧
    (({ (ws 0 1) with mem := ((ws 0 1).mem.writeList ((ws 0 1).cur.place (4096 * (ws 0 1).cur.launch.sram)) (leBytes (pc0 + 32) 8)) } : State).run
      .ret).cur.npc = some (BitVec.ofNat 64 (pc0 + 32)) := by decide +kernel
/-- A LOOPN at the last index of its one dimension, inside a block loop or away from its bundle. -/
def wnd : Ctx := { wn with nest := some ⟨BitVec.ofNat 64 (pc0 + 64), 2, 1⟩, it := wb.cur.it.set 2 { Iter.zero with live := true } }
theorem wit_nest_ends : wnd.nest = some ⟨wnd.pc, 2, 1⟩ ∧ (advanceNest wnd.it 1 2).2 = false ∧
    (∀ l, ({ wl 2 with nest := some ⟨0, 2, 1⟩ } : Ctx).nest = some l → (wl 2).pc ≠ l.pc) := by
  refine ⟨by decide +kernel, by decide +kernel, fun l h => ?_⟩
  cases h; decide +kernel
theorem test_nest_ends : wnd.sequence.pc = BitVec.ofNat 64 (pc0 + 96) ∧ (wnd.sequence.it[2]).live = false ∧
    (({ wl 2 with nest := some ⟨0, 2, 1⟩ } : Ctx).sequence).pc = BitVec.ofNat 64 (pc0 + 64) ∧
    (wn.itEnded 2).live = false := by decide +kernel
/-- The last member of the gang at the barrier, beside peer stores of an earlier and of the same cycle. -/
def wgp (issued : Nat) : State := { wg true with cycle := 5, peers := [⟨13, ⟨0, 0⟩, issued, [(5, 1)], none, false⟩] }
theorem wit_barrier_peers : (∀ n ∈ [4, 5], (wgp n).clear (.barw 0) = true ∧ (wgp n).cur.barrier = none ∧ (wgp n).cur.id ∈ (wgp n).cur.launch.members) ∧
    ⟨0, 0⟩ ∈ (wgp 4).cur.launch.members := by decide +kernel
theorem test_barrier_peers : ((wgp 4).run (.barw 0)).cur.stalled = true ∧ ((wgp 5).run (.barw 0)).cur.stalled = false := by decide +kernel
/-- A blob of an empty key at 0x1000, for KEYOP LOAD into slot 5 and for KEY_LOAD. -/
def wblob : State := { wrv [(1, 5), (2, 0x1000)] with
  lineKeys := [(0x40, .host), (0x41, .host)], mem := w.mem.writeList 0x1000 (blobOf [] [] 3) }
theorem wblob_read : wblob.tierRead .host 0x1000 96 = blobOf [] [] 3 := by
  have h : ∀ i, i < 96 → wblob.lineKey ((0x1000 + i) / 64) = .host := by decide +kernel
  have hu : wblob.undef.isEmpty = true := rfl
  refine List.ext_getElem (by simp [State.tierRead, hu]) fun i h1 h2 => ?_
  simp only [blobOf_length] at h2
  simp only [State.tierRead, hu, ↓reduceIte, List.getElem_map, List.getElem_range, State.tierByte, h i h2]
  have hw : w.mem.wf = true := by decide +kernel
  rw [show wblob.mem = w.mem.writeList 0x1000 (blobOf [] [] 3) from rfl, Memory.read_writeList hw]
  simp [h2]
theorem wit_keyop_load : wblob.reeveRun = true ∧ (wblob.reeveK[1]).toNat = 5 ∧ (wblob.reeveK[2]).toNat = 0x1000 ∧ 0x1000 % 32 = 0 ∧
    inTier1 (0x1000 + 95) = true ∧ wblob.linePoison 0x1000 96 = false ∧
    openBlob (wblob.tierRead .host 0x1000 96) = some (List.replicate 64 0) ∧ 0x1010 % 32 ≠ 0 := by
  refine ⟨rfl, by decide +kernel, by decide +kernel, rfl, by decide +kernel, by decide +kernel, ?_, by decide⟩
  rw [wblob_read, openBlob_blobOf]; rfl
theorem wit_key_load : let s := cmd (wkey.hostWrite 0x1000 (blobOf [] [] 0)) 6 [6, 0x1000]
    openBlob (s.hostRead 0x1000 96) = some (List.replicate 64 0) ∧ ((s.hostRead 0x1000 96).drop 12).take 4 = [0, 0, 0, 0] := by
  have hw : wkey.mem.wf = true := by decide +kernel
  have hr : (wkey.hostWrite 0x1000 (blobOf [] [] 0)).hostRead 0x1000 96 = blobOf [] [] 0 :=
    List.ext_getElem (by simp [State.hostRead, Memory.readList]) fun i h1 h2 => by
      simp only [blobOf_length] at h2
      simp [State.hostRead, State.hostWrite, Memory.readList, Memory.read_writeList hw, h2]
  have hc : ∀ (s : State) op args, (cmd s op args).hostRead = s.hostRead := fun _ _ _ => rfl
  intro s
  simp only [s, hc, hr]
  exact ⟨by rw [openBlob_blobOf]; rfl, by simp [blobOf, gcmSeal, List.take_append]⟩

/-- A load of the context that waits behind a fill; a compressed stream at 0x1000, and one that names a literal out of the share. -/
def wwait : State := ((w.run (.mfill .i8 .lower true false)).run (.mfill .i8 .lower true false))
def wbehind : State := (wwait.setCur fun c => { c with os := c.os.set 1 (spec 0 0), pipeUsed := 0 }).run (.mlda 1 true none)
def wcw (a : Nat) : State := { w with cfg := Flash.example.record }.setCur fun c => { c with os := c.os.set 1 (BitVec.ofNat 256
  (1 + 32 * 3 + a * 2 ^ 32 + 64 * 2 ^ 144 + 64 * 2 ^ 152)) }
theorem wit_queued_load : wbehind.clear (.mrprog 3 false) = true ∧ wbehind.cur.pipeUsed = 0 ∧
    ((wbehind.pipeOf 0 false).q.find? fun l => l.ctx == wbehind.cur.id && l.fill.isNone).isSome = true := by decide +kernel
theorem wit_compressed_loads : (∀ a ∈ [0x1000, 2 ^ 22 - 64, 2 ^ 26], (wcw a).clear (.mldb 1 true none) = true) ∧
    loadBad (wcw 0x1000).cur.os[1] false = false ∧ (wcw 0x1000).specOff (wcw 0x1000).cur.os[1] = false ∧
    (wcw 0x1000).localOk (wcw 0x1000).cur 0x1000 2 true = true ∧ (wcw (2 ^ 26)).localOk (wcw 0).cur (2 ^ 26) 2 true = false := by decide +kernel
theorem test_compressed_loads : (((wcw 0x1000).run (.mldb 1 true none)).pipeOf 0 true).q.length = 1 ∧
    (∀ a ∈ [2 ^ 26, 2 ^ 22 - 64], trapOf (wcw a) (.mldb 1 true none) = some causeAddress) := by decide +kernel
/-- Slot C1 beside a CSIG that C0 of the same bundle has just started on the same object; one beside the same from an earlier bundle. -/
def wsig (now : Nat) : State := { (wk 5).run (.csig 1 2 3 true) with slotNow := 5, cycle := now, raised := none }
theorem wit_behind_c0 : (wsig 0).clear (.ccnt 1 7 true) = true ∧ (wsig 1).clear (.cstat 1 7 true) = true ∧
    (wsig 0).cur.ops.map (fun e => (e.start, e.done)) = [(1, some ⟨.loc, 0x1000⟩)] ∧ (wsig 0).objAddr 1 true true = some ⟨.loc, 0x1000⟩ := by decide +kernel
theorem test_behind_c0 : ((wsig 0).run (.ccnt 1 7 true)).cur.engA.length = 1 ∧ outs (wsig 0) (.ccnt 1 7 true) = [] ∧
    ((wsig 1).run (.ccnt 1 7 true)).cur.engA = [] ∧ outs (wsig 1) (.ccnt 1 7 true) = [⟨7, .k 7 0⟩] := by decide +kernel
/-- Late entries of tag 5: one whose data came after its bound, one poisoned into a vector register, one still within its bound. -/
def wlatef : State := (wj [(1, 5)]).setCur fun c => { c with
  late := [⟨3, 5, false, 4, .d64, none, true, some 0, 77, false⟩, ⟨4, 5, true, 9, .d64, none, true, some 1, 78, false⟩,
    ⟨5, 5, false, 6, .d64, some 9, false, some 0, 79, false⟩]
  remote := [⟨1, 5, true, false, some 0, some (9, 11), 4, 0, 0, false⟩, ⟨2, 5, true, false, some 4, some (10, 0), 4, 0, 0, false⟩,
    ⟨6, 6, false, false, none, none, 4, 0, 0, false⟩] }
theorem wit_fwait_late : wlatef.clear (.fwait 1 4) = true ∧ wlatef.cur.writes = [] ∧
    (∀ r ∈ wlatef.cur.remote, r.tag = 5 → r.status ≠ none) ∧ (∀ e ∈ wlatef.cur.late, e.tag = 5 → e.status ≠ none) := by decide +kernel
theorem test_fwait_late : (wlatef.run (.fwait 1 4)).cur.late.map Late.seq = [5] ∧ (wlatef.run (.fwait 1 4)).cur.remote.map Remote.seq = [6] ∧
    (⟨4, .s 4 77 false⟩ : RegWrite) ∈ outs wlatef (.fwait 1 4) ∧ (⟨4, .k 9 11⟩ : RegWrite) ∈ outs wlatef (.fwait 1 4) ∧
    (⟨4, .k 4 (256 + 4)⟩ : RegWrite) ∈ outs wlatef (.fwait 1 4) := by decide +kernel
/-- A full send table, and one with two entries of the context of which one is posted from 0x40. -/
def wsends (l : List SlSend) : State := { wj [(1, 0x40)] with slu := { SluiceSt.empty with sends := l } }
def two_sends : List SlSend := [sendOf .posted, { sendOf .queued with msgid := 4, descVa := some 0x80 }, { sendOf .queued with msgid := 5, owner := ⟨0, 1⟩ }]
theorem wit_send_table : (wsends (List.replicate 2048 { sendOf .posted with owner := ⟨0, 1⟩ })).clear (.frts 1) = true ∧
    (wsends (List.replicate 2048 { sendOf .posted with owner := ⟨0, 1⟩ })).slu.sends.length = 2048 ∧
    (wsends two_sends).clear (.fcancel 1) = true ∧ ((wsends two_sends).slu.sends.map SlSend.msgid).Nodup := by decide +kernel
theorem test_send_table : trapOf (wsends (List.replicate 2048 { sendOf .posted with owner := ⟨0, 1⟩ })) (.frts 1) = some causeRlimit ∧
    ((wsends two_sends).run (.fcancel 1)).slu.sends.map SlSend.st = [.cancelling, .queued, .queued] ∧
    ((wsends two_sends).run (.fcancel 1)).fab.waiting.map (fun p => (p.op, p.opa)) = [(8, 3)] := by decide +kernel

/-- TRAP and YRUN alone in a bundle at the first bundle of the code, with a handler. -/
def wsole (h x : Nat) : State := (State.reset.withBundle (bundleWith h 6 x)).setCur fun c => c.setCsr csrTrapVec (BitVec.ofNat 64 (pc0 + 64))
theorem wit_sole : (∀ x ∈ [(0, 0xC0000007), (2 ^ 30, 0xA0000005)], (wsole x.1 x.2).alive = true ∧ (wsole x.1 x.2).moves = [] ∧ (wsole x.1 x.2).nextCore = some 0 ∧
      (wsole x.1 x.2).atStop (wsole x.1 x.2).cur = false ∧ (wsole x.1 x.2).illegalSlot ((wsole x.1 x.2).mem.readList (fetchCtx.place pc0) 32) = none) ∧
    ws1.atStop ws1.cur = false := by decide +kernel
theorem test_sole : (next (wsole 0 0xC0000007)).cur.csrs csrTrapPc = BitVec.ofNat 64 (pc0 + 32) ∧
    (next (wsole 0 0xC0000007)).cur.budget = 999 ∧ (next (wsole 0 0xC0000007)).cur.csrs csrTrapVal = 7 ∧ (next (wsole (2 ^ 30) 0xA0000005)).cur.launch.declared = 5 ∧
    (next (wsole (2 ^ 30) 0xA0000005)).cur.pc = BitVec.ofNat 64 (pc0 + 32) := by decide +kernel
theorem wit_served : w.served = true ∧ State.reset.served = false ∧ wv.served = true := by decide +kernel

/-- Time from another package at an offset of 10 ns and of 11 ns, with TIME_SYNC set and clear. -/
def wsync (on : Bool) : State := if on then wrot else { wrot.setReg 0x1000 (2 ^ 16 + 2 ^ 22 + 7 * 2 ^ 32 + 2 ^ 48) with fab := { wrot.fab with resumeAt := some 0 } }
def bcn (dt : Nat) : Beacon := ⟨none, 0, 131072 + dt, 0, 1⟩
theorem test_offset : ((wsync true).run (.beacon (bcn 10))).regF 0x1000 31 1 = 1 ∧ ((wsync true).run (.beacon (bcn 11))).regF 0x1000 31 1 = 0 ∧
    ((wsync true).run (.beacon (bcn 11))).reg 0x1150 = 1 ∧ ((wsync false).run (.beacon (bcn 10))).fab.resumeAt = some 10131072 ∧
    ((wsync false).run (.beacon (bcn 11))).fab.resumeAt = some 0 := by decide +kernel
/-- A packet relayed through this pod, as it came in on plane 0, and one kept for the slot of plane 0 that has begun. -/
def prel : Packet := { pk 1 0 [] with dst := 512, src := 1024, relayed := true, inter := 0, time := 131072, heading := some (6, false) }
def wslot (p : Packet) : State := { wrot with ftime := 131072 + 300, fab := { wrot.fab with waiting := [p], relay := [(2, p)] } }
theorem wit_rotor : podOf prel.dst ≠ podOf wrot.self ∧ prel.inter = podOf wrot.self ∧ slotAt 131072 0 = 32 ∧
    (wslot prel).fits 0 prel = true ∧ (wslot prel).partnerOf 0 = 1 ∧ wrot.fatal = none := by decide +kernel
theorem test_rotor : (wrot.run (.torusHop prel)).fab.relay.map (fun x => (x.1, x.2.slot)) = [(2, some 33)] ∧
    ((wslot prel).rotorSend { prel with slot := some 32 }).tx.map Prod.fst = [6] ∧
    ((wslot { prel with slot := some 32 }).relaySend (2, { prel with slot := some 32 })).tx.map Prod.fst = [6] ∧
    ((wslot { prel with slot := some 33 }).relaySend (2, { prel with slot := some 33 })).tx = [] := by decide +kernel
theorem wit_whole : wv.fabAsid = some 0 ∧ wv.pendingVirt 0 = [] := by decide +kernel
/-- RTS of messages with nothing left to land, new and of a paused request. -/
def rtsEnd : Packet := { sp 1 (leBytes (65536 * 2 ^ 64) 32) with opb := 65536, va := 0x4000 }
theorem test_rts_end : ctl (wsl.run (.rts rtsEnd)) = [(2, 1, 3), (9, 1, 3)] ∧ (wsl.run (.rts rtsEnd)).slu.reqs.length = 0 ∧
    ctl ((wreq .paused).run (.rts rtsEnd)) = [(2, 1, 3), (9, 1, 3)] ∧ ((wreq .paused).run (.rts rtsEnd)).slu.closed.length = 1 := by decide +kernel

/-- Four contexts that fill polder 0 under a head entry of level 5; the first waits for a start wait or runs. -/
def wpre (p : Phase) (n : Nat) : State :=
  let c := fun i => { w.cur with id := ⟨i, 0⟩, launch := { w.cur.launch with gang := 0, members := [⟨i, 0⟩], inst := 0, dispatchTime := if i = 0 then 9 else 0 } }
  let s := { wwalk false with
    cfg := 0, cur := { c 0 with phase := p, launch := { (c 0).launch with waits := [⟨false, 0, 0, 0⟩] } }, ctxs := [c 1, c 2, c 3]
    pols := [{ PolderSt.idle 0 with runQ := [(5, ⟨0, 0, none, 0, 0⟩)] }] }
  s.setReg 0x0808 n
theorem wit_preempt : (wpre .waiting 16).mayPreempt 0 = some (5, ⟨0, 0, none, 0, 0⟩) ∧ (wpre .ready 16).mayPreempt 0 = some (5, ⟨0, 0, none, 0, 0⟩) ∧
    (∀ p ∈ [Phase.waiting, .ready], (wpre p 16).victims 0 5 ⟨0, 0, none, 0, 0⟩ = some [[⟨0, 0⟩]] ∧ (wpre p 16).freeRecords 1 = some [0]) ∧
    ((wpre .waiting 16).ctx ⟨0, 0⟩).notStarted = true ∧ ((wpre .ready 16).ctx ⟨0, 0⟩).notStarted = false ∧
    ((wpre .waiting 16).inst 0).map Inst.status = some 0 ∧
    (({ wpre .ready 1 with saves := [⟨0, 0, 0, 0, 6, 0, true, false, [], [], 0, fetchLaunch, none⟩] } : State).freeRecords 1) = none := by
  decide +kernel
theorem test_preempt : (((wpre .waiting 16).run (.preemptMark 0)).pol 0).runQ.map Prod.fst = [0, 5] ∧
    (((wpre .waiting 16).run (.preemptMark 0)).ctx ⟨0, 0⟩).phase = .idle ∧ ((wpre .waiting 16).run (.preemptMark 0)).saves = [] ∧
    ((wpre .ready 16).run (.preemptMark 0)).saves.map Save.num = [0] ∧
    (((wpre .ready 16).run (.preemptMark 0)).ctx ⟨0, 0⟩).victim = some 0 := by decide +kernel
/-- A context without start waits before and at its start; a victim with a result in flight; a COW fault that has been delivered. -/
def wstart (at_ : Nat) : State := { w with cycle := at_ }.setCur fun c => { c with phase := .waiting, launch := { c.launch with gang := 0 } }
theorem wit_starts : (∀ n ∈ [399, 1000000], (wstart n).cur.phase = .waiting ∧ (wstart n).isHeld (.overlay ⟨0, 0⟩) = false ∧
      (wstart n).cur.launch.waits = []) ∧ ¬ (wstart 399).cur.launch.dispatchTime + 400 + ((wstart 399).cur.launch.recSize + 127) / 128 ≤ 399 ∧
    (wstart 1000000).cur.launch.dispatchTime + 400 + ((wstart 0).cur.launch.recSize + 127) / 128 ≤ 1000000 := by decide +kernel
def wvic2 : State := wvic.setCur fun c => { c with writes := [⟨5, .s 7 1 false⟩] }
theorem test_lost_results : wvic2.mayStop wvic2.cur = true ∧ ((wvic2.run (.victimStop ⟨0, 0⟩)).ctx ⟨0, 0⟩).undef.s.getLsbD 7 = true ∧
    ((wvic.run (.victimStop ⟨0, 0⟩)).ctx ⟨0, 0⟩).undef.s = 0 := by decide +kernel
theorem wit_delivered_cow : ({ wxlt [{ held 3 (.stream ⟨0, 0⟩ 2) with code := 6, delivered := true }] with cycle := 1 } : State).fault 3 =
    some { held 3 (.stream ⟨0, 0⟩ 2) with code := 6, delivered := true } ∧
    (({ wcow with xlt := { XltSt.empty with held := [{ held 3 (.stream ⟨0, 0⟩ 2) with code := 6, va := 0x4000 }] } } : State).fault 3).any
      (fun h => h.code == 6 && !h.delivered) = true := by decide +kernel
/-- A multicast store whose window has changed while it flew. -/
def wloose : State := { w with peers := [⟨0, ⟨0, 1⟩, 0, [(5, 1), (6, 2)], some (2, [6]), true⟩] }
theorem test_loose : inRanges (wloose.run .peerStoreLand).undef 6 = true ∧ inRanges (wloose.run .peerStoreLand).undef 5 = false := by
  decide +kernel
/-- The join with queue 0 enabled, one delivery slot, and a scanned episode at its head, completed before now. -/
def wdlv : State :=
  let s := ((((wep .complete none true).setReg (lqReg 0) (1 + 2 ^ 40)).setReg (lqReg 0 + 0x18) 0x8000).setReg (lqReg 0 + 0x20) 1)
  { s with ftime := s.ftime + 5000 }
theorem wit_delivery : (wdlv.lqHead 0).any (fun x => x.scanned && x.slot == some 0 && wdlv.jEntry x.idx == some x) = true ∧ wdlv.lqSlot 0 = some 0 ∧
    wdlv.regF (lqReg 0) 0 1 = 1 ∧ sext ((wdlv.regF (lqReg 0 + 0x10) 0 32 : Int) - bits (wdlv.header 0) 64 32) 32 ≤ wdlv.regF (lqReg 0) 32 32 ∧
    (let out := wdlv.deliver 0 2 0x8000 ((wdlv.tierRead .reeve (wdlv.slotPlace 0) 96).zip (List.replicate 96 false))
     out.2 = some false ∧ out.1.join = wdlv.join ∧ out.1.lqs = wdlv.lqs ∧ out.1.regs = wdlv.regs ∧ out.1.ftime = wdlv.ftime) := by decide +kernel
theorem test_delivery : ((wdlv.run (.release 0)).lq 0).pend.map Prod.snd = [0] ∧
    (wdlv.run (.release 0)).join.map JEntry.st = [.done] := by decide +kernel

/-- The collective once it has failed. -/
def wfail : State := { wcoll with colls := [{ coll1 with finished := true, status := 4 }] }
theorem wit_collective_ends : ((wfail.collOf 0 0).any fun k => k.finished && wfail.colls.all fun x => decide (k.seq ≤ x.seq)) = true ∧
    (let d := coll1.desc.toNat
     (((wfail.startNode 0 0).vUndef tlbIo 0 (pagesOf (collOutBytes d)) (bits d 192 64) (collOutBytes d)).objVirt tlbIo 0 (bits d 320 64) 1 4).2.isNone = true) := by
  decide +kernel

end Sys2Proof.Tests
end

section
/-! The roundings of R9 and the lane-wise shifts that round with them (R230 to R233, R330 to R332). -/

namespace Sys2Proof.Machine

/-! ### The three roundings (R9) -/

/-- A quotient by 2^n times 2^n is the greatest multiple not above the value. -/
theorem ediv_two_pow_bounds (x : Int) (n : Nat) : x / 2 ^ n * 2 ^ n ≤ x ∧ x < x / 2 ^ n * 2 ^ n + 2 ^ n := by
  have hp : (0 : Int) < 2 ^ n := Int.pow_pos (by decide)
  have hdiv := Int.mul_ediv_add_emod x (2 ^ n)
  have h0 := Int.emod_nonneg x (Int.ne_of_gt hp)
  have hlt := Int.emod_lt_of_pos x hp
  rw [Int.mul_comm] at hdiv
  omega

/-- A value by its quotient and remainder, with the quotient rne_shr takes. -/
theorem rneShr_succ (x : Int) (m : Nat) : ∃ q r : Int, x = q * 2 ^ (m + 1) + r ∧ 0 ≤ r ∧ r < 2 ^ (m + 1) ∧
    rneShr x (m + 1) = if 2 ^ m < r ∨ r = 2 ^ m ∧ q % 2 = 1 then q + 1 else q := by
  obtain ⟨hle, hlt⟩ := ediv_two_pow_bounds x (m + 1)
  exact ⟨x / 2 ^ (m + 1), x - x / 2 ^ (m + 1) * 2 ^ (m + 1), by omega, by omega, by omega, rfl⟩

theorem rneShr_nearest (x : Int) (n : Nat) : 2 * (rneShr x n * 2 ^ n - x).natAbs ≤ 2 ^ n := by
  cases n with
  | zero => simp [rneShr]
  | succ m =>
    obtain ⟨q, r, hx, h0, hr, hq⟩ := rneShr_succ x m
    have hc : ((2 ^ (m + 1) : Nat) : Int) = 2 ^ (m + 1) := Int.natCast_pow ..
    have hs : (2 : Int) ^ (m + 1) = 2 ^ m * 2 := Int.pow_succ ..
    rw [hq]
    split
    · rw [Int.add_mul, Int.one_mul]
      omega
    · omega

theorem rneShr_tie_even (x : Int) (n : Nat) (h : 2 * (rneShr x n * 2 ^ n - x).natAbs = 2 ^ n) :
    rneShr x n % 2 = 0 ∨ n = 0 := by
  cases n with
  | zero => exact .inr rfl
  | succ m =>
    obtain ⟨q, r, hx, h0, hr, hq⟩ := rneShr_succ x m
    have hc : ((2 ^ (m + 1) : Nat) : Int) = 2 ^ (m + 1) := Int.natCast_pow ..
    have hs : (2 : Int) ^ (m + 1) = 2 ^ m * 2 := Int.pow_succ ..
    rw [hq] at h ⊢
    split at h <;> rename_i hup
    · rw [Int.add_mul, Int.one_mul] at h
      rw [if_pos hup]
      omega
    · rw [if_neg hup]
      omega

theorem rtzShr_towards_zero (x : Int) (n : Nat) : (rtzShr x n * 2 ^ n - x).natAbs < 2 ^ n ∧
    (rtzShr x n * 2 ^ n).natAbs ≤ x.natAbs ∧ 0 ≤ rtzShr x n * x := by
  have hp : (0 : Int) ≤ 2 ^ n := Int.le_of_lt (Int.pow_pos (by decide))
  have hc : ((2 ^ n : Nat) : Int) = 2 ^ n := Int.natCast_pow ..
  unfold rtzShr
  split <;> rename_i hx
  · obtain ⟨hle, hlt⟩ := ediv_two_pow_bounds x n
    have h0 : 0 ≤ x / 2 ^ n := Int.ediv_nonneg hx hp
    have hm : 0 ≤ x / 2 ^ n * 2 ^ n := Int.mul_nonneg h0 hp
    exact ⟨by omega, by omega, Int.mul_nonneg h0 hx⟩
  · obtain ⟨hle, hlt⟩ := ediv_two_pow_bounds (-x) n
    have hx' : 0 ≤ -x := by omega
    have h0 : 0 ≤ -x / 2 ^ n := Int.ediv_nonneg hx' hp
    have hm : 0 ≤ -x / 2 ^ n * 2 ^ n := Int.mul_nonneg h0 hp
    rw [Int.neg_mul]
    exact ⟨by omega, by omega, by rw [Int.neg_mul_comm]; exact Int.mul_nonneg h0 hx'⟩

theorem stoShr_adjacent (x : Int) {n g : Nat} (hg : g < 2 ^ n) : (stoShr x n g * 2 ^ n - x).natAbs < 2 ^ n := by
  have hc : ((2 ^ n : Nat) : Int) = 2 ^ n := Int.natCast_pow ..
  unfold stoShr
  split <;> rename_i hn
  · subst hn
    simp
  · obtain ⟨hle, hlt⟩ := ediv_two_pow_bounds (x + g) n
    omega

/-! ### A shift with its clamp (R231) -/

theorem clampT_eq_nearest (t : Elem) (y : Int) : clampT t y = nearest t y := by
  cases t <;> simp only [clampT, nearest, minT, maxT, sat, satn, Elem.signed, Elem.size, if_true, if_false,
    Bool.false_eq_true] <;> omega

theorem nearest_eq_self_iff (t : Elem) (y : Int) : nearest t y = y ↔ fitsType t y = true := by
  have h : minT t ≤ maxT t := by cases t <;> decide
  simp only [nearest, fitsType, Bool.and_eq_true, decide_eq_true_eq]
  split
  · omega
  · split <;> omega

/-- The quotient of x by 2^sh under a rounding, with the random bits g. -/
def roundShr (r : Rnd) (x : Int) (sh g : Nat) : Int :=
  match r with
  | .rne => rneShr x sh
  | .rtz => rtzShr x sh
  | .rsto => stoShr x sh g

theorem shd_eq_shifted (x : Int) (sh : Nat) (r : Rnd) (t : Elem) (g : Nat) :
    shd x sh r t g = shifted t (roundShr r x sh g) x sh := by
  have hsat : ∀ q, flagIf (nearest t q != q) flagSat = if fitsType t q then 0 else flagSat := fun q => by
    by_cases h : fitsType t q = true
    · simp [flagIf, h, (nearest_eq_self_iff t q).2 h]
    · simp [flagIf, h, mt (nearest_eq_self_iff t q).1 h]
  have hloss : flagIf (x % 2 ^ sh != 0) flagLoss = if x % 2 ^ sh = 0 then 0 else flagLoss := by
    by_cases h : x % 2 ^ sh = 0 <;> simp [flagIf, h]
  have key : ∀ q, (clampT t q, flagIf (clampT t q != q) flagSat ||| flagIf (x % 2 ^ sh != 0) flagLoss) = shifted t q x sh :=
    fun q => by
      rw [clampT_eq_nearest, hsat, hloss]
      rfl
  cases r <;> exact key _

/-! ### Lane results (R322, R354) -/

theorem writesLanes_eq_false_iff (z : Bool) (on : Nat → Bool) (n : Nat) :
    writesLanes z on n = false ↔ z = false ∧ ∀ i < n, on i = false := by
  simp [writesLanes]

/-- Put of results made lane by lane, in the terms of the statements. -/
theorem putRes_eq_landLanes (s : State) (lat : Nat) (str : Str) (w : VW) (d : VNo) (z : Bool) (m : Nat) (on : Nat → Bool)
    (f : Nat → LaneRes) (l : Nat) : s.putRes lat str w d z m on ((List.range l).map f) =
      s.landLanes lat str w d z on l (putAll m on (z || str == .d) (s.readV d.val).toNat ((List.range l).map f))
        (flagsOf on (fun i => (f i).2) l) := by
  simp only [State.putRes, State.landLanes, List.length_map, List.length_range, laneFlags_map, Bool.and_eq_true, bne_iff_ne,
    Bool.not_eq_true', writesLanes_eq_false_iff]

/-- Under zeroing the destination is written whatever the mask holds. -/
theorem landLanes_of_zero {s : State} {lat : Nat} {str : Str} {w : VW} {d : VNo} {z : Bool} {on : Nat → Bool} {n x : Nat}
    {f : BitVec 5} (hz : z = true) : s.landLanes lat str w d z on n x f = s.putW lat str w d x f :=
  if_neg fun h => Bool.false_ne_true (h.2.1.symm.trans hz)

/-! ### The draw (R233) -/

@[simp] theorem State.readV_afterDraw (s : State) (draws : Bool) (n : Nat) : (s.afterDraw draws).readV n = s.readV n := by
  cases draws
  · rfl
  · cases h : s.issueCur <;> simp [State.afterDraw, State.readV, State.rd, State.free, State.key, Ctx.vBusy, h]

@[simp] theorem State.readM_afterDraw (s : State) (draws : Bool) (n : Nat) : (s.afterDraw draws).readM n = s.readM n := by
  cases draws
  · rfl
  · cases h : s.issueCur <;> simp [State.afterDraw, State.readM, State.rd, State.free, State.key, Ctx.mBusy, h]

/-- The random bits that lane i of an operation with a rounding rounds with, for a shift by sh. -/
def State.roundBits (s : State) (r : Rnd) (i sh : Nat) : Nat :=
  laneBits (s.cur.csrs csrSeed) (if r = .rsto then s.cur.csrs csrHashCtr else 0) i sh

theorem drawFor_eq (s : State) (r : Rnd) : s.drawFor r = (s.afterDraw (r == .rsto), s.roundBits r) := by
  cases r <;> rfl

theorem roundBits_of_csr {s s' : State} (h : s'.cur.csr = s.cur.csr) (r : Rnd) : s'.roundBits r = s.roundBits r := by
  funext i sh
  simp only [State.roundBits, Ctx.csrs, h]

/-! ### Lane-wise operations from their put -/

/-- An operation of two sources that puts its lane results after its pops and its draw is lane-wise. -/
theorem lanewiseTwo_of_putRes {mk : VTwo → Instr} {lat : Nat} {draws : Bool}
    {g : State → VTwo → Nat → Nat → Nat → Nat → Nat → Int × BitVec 5}
    (h : ∀ (o : VTwo) (s s₁ s₂ : State) (x y : Nat), s.clear (mk o) = true → s.source o.str .a o.w o.a = some (x, s₁) →
      s₁.source o.str .b o.w o.b = some (y, s₂) →
      exec (mk o) s = .next ((s₂.afterDraw draws).putRes lat o.str o.w o.d o.z o.t.size (laneOn (s.readM o.m.val) o.t.size)
        ((List.range (lanes o.w o.t)).map fun i =>
          g s o x i (lane (s.readV o.d.val).toNat o.t.size i) (lane x o.t.size i) (lane y o.t.size i)))) :
    LanewiseTwo mk lat draws g := by
  intro o s s₁ s₂ x y hc ha hb
  refine ⟨_, fun i hi => lane_putAll_map _ _ _ _ _ _ _ hi, ?_⟩
  rw [h o s s₁ s₂ x y hc ha hb, putRes_eq_landLanes, State.readV_afterDraw, (source_frame hb).1, (source_frame ha).1]

/-- An operation of one source that lands its lane results after its pop and its draw is lane-wise. -/
theorem lanewiseImm_of_landLanes {mk : VImm → Instr} {lat : Nat} {draws whole : Bool} {n k : Elem → Nat}
    {g : State → VImm → Nat → Nat → Int × BitVec 5}
    (h : ∀ (o : VImm) (s s₁ : State) (x : Nat), s.clear (mk o) = true → s.source o.str .a o.w o.a = some (x, s₁) →
      let on := laneOn (s.readM o.m.val) (k o.t)
      let l := lanes o.w o.t
      exec (mk o) s = .next ((s₁.afterDraw draws).landLanes lat o.str o.w o.d (o.z || whole) on l
        (putAll (n o.t) on (o.z || o.str == .d) (s.readV o.d.val).toNat ((List.range l).map (g s o x)))
        (flagsOf on (fun i => (g s o x i).2) l))) :
    LanewiseImm mk lat draws whole n k (fun o => lanes o.w o.t) g := by
  intro o s s₁ x hc ha
  refine ⟨_, ?_, fun i hi => lane_putAll_map _ _ _ _ _ _ _ hi, h o s s₁ x hc ha⟩
  have hlt := putAll_lt (n o.t) (laneOn (s.readM o.m.val) (k o.t)) (o.z || o.str == .d) (s.readV o.d.val).toNat
    ((List.range (lanes o.w o.t)).map (g s o x))
  simpa using hlt

/-! ### VSHRR, VSHRS and VNARROW (R330 to R332) -/

theorem vshrr_of_sources {s s₁ s₂ : State} {i : Instr} {o : VTwo} {x y : Nat} (hc : s.clear i = true)
    (ha : s.source o.str .a o.w o.a = some (x, s₁)) (hb : s₁.source o.str .b o.w o.b = some (y, s₂)) (r : Rnd) :
    s.vshrr i o r = (s₂.afterDraw (r == .rsto)).putRes 2 o.str o.w o.d o.z o.t.size (laneOn (s.readM o.m.val) o.t.size)
      ((List.range (lanes o.w o.t)).map fun j =>
        let a := valT o.t (lane x o.t.size j)
        let sh := min (lane y o.t.size j) 63
        shifted o.t (roundShr r a sh (s.roundBits r j sh)) a sh) := by
  obtain ⟨-, hm₁, -, hcsr₁, -⟩ := source_frame ha
  obtain ⟨-, hm₂, -, hcsr₂, -⟩ := source_frame hb
  simp only [State.vshrr, op_clear hc, src_source ha, src_source hb, drawFor_eq, State.readM_afterDraw, hm₂, hm₁,
    roundBits_of_csr hcsr₂, roundBits_of_csr hcsr₁, shd_eq_shifted, shAmt]

/-- VSHRR with any rounding is lane-wise. -/
theorem lanewiseTwo_vshrr {mk : VTwo → Instr} (r : Rnd) (hmk : ∀ o s, exec (mk o) s = .next (s.vshrr (mk o) o r)) :
    LanewiseTwo mk 2 (r == .rsto) fun s o _ i _ a b =>
      shifted o.t (roundShr r (valT o.t a) (min b 63) (s.roundBits r i (min b 63))) (valT o.t a) (min b 63) :=
  lanewiseTwo_of_putRes fun o s _ _ _ _ hc ha hb => by rw [hmk o s, vshrr_of_sources hc ha hb]

theorem vshrs_of_source {s s₁ : State} {i : Instr} {o : VImm} {x : Nat} (hc : s.clear i = true)
    (ha : s.source o.str .a o.w o.a = some (x, s₁)) (r : Rnd) :
    s.vshrs i o r = (s₁.afterDraw (r == .rsto)).putRes 2 o.str o.w o.d o.z o.t.size (laneOn (s.readM o.m.val) o.t.size)
      ((List.range (lanes o.w o.t)).map fun j =>
        let a := valT o.t (lane x o.t.size j)
        shifted o.t (roundShr r a o.imm.val (s.roundBits r j o.imm.val)) a o.imm.val) := by
  obtain ⟨-, hm, -, hcsr, -⟩ := source_frame ha
  simp only [State.vshrs, op_clear hc, src_source ha, drawFor_eq, State.readM_afterDraw, hm, roundBits_of_csr hcsr,
    shd_eq_shifted]

/-- VSHRS with any rounding is lane-wise. -/
theorem lanewiseImm_vshrs {mk : VImm → Instr} (r : Rnd) (hmk : ∀ o s, exec (mk o) s = .next (s.vshrs (mk o) o r)) :
    LanewiseImm mk 2 (r == .rsto) false Elem.size Elem.size (fun o => lanes o.w o.t) fun s o x j =>
      let a := valT o.t (lane x o.t.size j)
      shifted o.t (roundShr r a o.imm.val (s.roundBits r j o.imm.val)) a o.imm.val :=
  lanewiseImm_of_landLanes fun o s _ _ hc ha => by
    rw [hmk o s, vshrs_of_source hc ha, putRes_eq_landLanes, State.readV_afterDraw, (source_frame ha).1, Bool.or_false]

theorem vnarrow_of_source {s s₁ : State} {i : Instr} {o : VImm} {x : Nat} (hc : s.clear i = true)
    (ha : s.source o.str .a o.w o.a = some (x, s₁)) (r : Rnd) :
    let on := laneOn (s.readM o.m.val) o.t.size
    let res := fun j =>
      let a := valT o.t (lane x o.t.size j)
      shifted (halfT o.t) (roundShr r a o.imm.val (s.roundBits r j o.imm.val)) a o.imm.val
    s.vnarrow i o r = (s₁.afterDraw (r == .rsto)).putW 2 o.str o.w o.d
      (putAll (o.t.size / 2) on (o.z || o.str == .d) (s.readV o.d.val).toNat ((List.range (lanes o.w o.t)).map res))
      (flagsOf on (fun j => (res j).2) (lanes o.w o.t)) := by
  obtain ⟨hv, hm, -, hcsr, -⟩ := source_frame ha
  simp only [State.vnarrow, op_clear hc, src_source ha, drawFor_eq, State.readM_afterDraw, State.readV_afterDraw, hm, hv,
    roundBits_of_csr hcsr, shd_eq_shifted, laneFlags_map]

/-- VNARROW with any rounding gives lanes of half the bits, and zeros above them whatever the mask holds. -/
theorem lanewiseImm_vnarrow {mk : VImm → Instr} (r : Rnd) (hmk : ∀ o s, exec (mk o) s = .next (s.vnarrow (mk o) o r)) :
    LanewiseImm mk 2 (r == .rsto) true (fun t => t.size / 2) Elem.size (fun o => lanes o.w o.t) fun s o x j =>
      let a := valT o.t (lane x o.t.size j)
      shifted (halfT o.t) (roundShr r a o.imm.val (s.roundBits r j o.imm.val)) a o.imm.val :=
  lanewiseImm_of_landLanes fun o s _ _ hc ha => by
    rw [hmk o s, vnarrow_of_source hc ha]
    exact congrArg _ (landLanes_of_zero (Bool.or_true o.z)).symm

end Sys2Proof.Machine

open Sys2Proof Sys2Proof.Machine

/-- Settles O11: every operation is its shape with one of the three roundings, whose bounds follow from the quotient and the
remainder by 2^n. -/
theorem vectorRoundingShifts : Obligations.VectorRoundingShifts := by
  refine ⟨⟨?_, ?_, ?_, ?_, ?_, ?_, ?_, ?_, ?_⟩, fun x n g hg =>
    ⟨rneShr_nearest x n, rneShr_tie_even x n, rtzShr_towards_zero x n, stoShr_adjacent x hg⟩⟩
  · exact lanewiseTwo_vshrr .rne fun _ _ => rfl
  · exact lanewiseTwo_vshrr .rtz fun _ _ => rfl
  · exact lanewiseTwo_vshrr .rsto fun _ _ => rfl
  · exact lanewiseImm_vshrs .rne fun _ _ => rfl
  · exact lanewiseImm_vshrs .rtz fun _ _ => rfl
  · exact lanewiseImm_vshrs .rsto fun _ _ => rfl
  · exact lanewiseImm_vnarrow .rne fun _ _ => rfl
  · exact lanewiseImm_vnarrow .rtz fun _ _ => rfl
  · exact lanewiseImm_vnarrow .rsto fun _ _ => rfl

end

section
/-! Bank gating (R188, R353). -/

namespace Sys2Proof.Machine

/-- Bits set one after another where a predicate holds. -/
theorem getLsbD_foldl_set (lost : Nat → Bool) (u : BitVec 32) (m : Nat) {k : Nat} (hk : k < 32) :
    ((List.range m).foldl (fun a n => if lost n then a ||| (1#32 <<< n) else a) u).getLsbD k
      = (decide (k < m) && lost k || u.getLsbD k) := by
  induction m with
  | zero => simp
  | succ m ih =>
    rw [List.range_succ, List.foldl_append, List.foldl_cons, List.foldl_nil]
    have hbit : (1#32 <<< m).getLsbD k = decide (k = m) := by
      rw [Bool.eq_iff_iff]; simp [hk]; omega
    by_cases hm : k = m
    · subst hm
      cases h : lost k <;> simp [h, ih, hbit]
    · have hlt : k < m + 1 ↔ k < m := by omega
      cases h : lost m <;> simp [ih, hbit, hm, hlt]

/-- Bits cleared one after another where a predicate holds. -/
theorem getLsbD_foldl_clear (lost : Nat → Bool) (u : BitVec 32) (m : Nat) {k : Nat} (hk : k < 32) :
    ((List.range m).foldl (fun a n => if lost n then a &&& ~~~(1#32 <<< n) else a) u).getLsbD k
      = (!(decide (k < m) && lost k) && u.getLsbD k) := by
  induction m with
  | zero => simp
  | succ m ih =>
    rw [List.range_succ, List.foldl_append, List.foldl_cons, List.foldl_nil]
    have hbit : (1#32 <<< m).getLsbD k = decide (k = m) := by
      rw [Bool.eq_iff_iff]; simp [hk]; omega
    by_cases hm : k = m
    · subst hm
      cases h : lost k <;> simp [h, ih, hbit]
    · have hlt : k < m + 1 ↔ k < m := by omega
      cases h : lost m <;> simp only [if_true, if_false, Bool.false_eq_true, BitVec.getLsbD_and, BitVec.getLsbD_not, ih, hbit,
        decide_eq_true hk, decide_eq_false hm, hlt, Bool.not_false, Bool.and_true]

/-- A vector register whose contents are undefined reads as a free value. -/
theorem State.readV_of_undef {s : State} {n : Nat} (h : s.rd.undef.v.getLsbD n = true) : s.readV n = s.free (200 + n) 1024 := by
  simp [State.readV, Ctx.vBusy, h]

end Sys2Proof.Machine

open Sys2Proof Sys2Proof.Machine

/-- Settles O16: the operation's one update of the context, read bit by bit. -/
theorem bankGating : Obligations.BankGating := by
  intro k s hc c old lost
  have hv : ∀ n : Fin 32, ((List.range 32).foldl (fun m n => if lost n then m ||| (1#32 <<< n) else m) c.undef.v).getLsbD n
      = (lost n.val || c.undef.v.getLsbD n) := fun n => by
    rw [getLsbD_foldl_set lost _ 32 n.isLt, decide_eq_true n.isLt, Bool.true_and]
  have hp : ∀ n : Fin 32, ((List.range 32).foldl (fun m n => if lost n then m &&& ~~~(1#32 <<< n) else m) c.vpois).getLsbD n
      = (!lost n.val && c.vpois.getLsbD n) := fun n => by
    rw [getLsbD_foldl_clear lost _ 32 n.isLt, decide_eq_true n.isLt, Bool.true_and]
  refine ⟨_, congrArg Host.Outcome.next (op_clear hc _), ?_, hv, hp, fun n hn => ?_, fun j => ?_, fun m hm => ?_, rfl⟩
  · simp [Ctx.csrs]
  · have hu := (hv n).trans (by rw [hn, Bool.true_or])
    exact State.readV_of_undef hu
  · exact Vector.getElem_ofFn ..
  · exact Vector.getElem_set_ne csrVgate.isLt m.isLt fun e => hm (Fin.ext e.symm)

end

section
/-! Device registers, contexts and queues: what an update gives to a later read. -/

namespace Sys2Proof.Machine

/-! ### Maps of numbers in rising order -/

theorem NatMap.put_above {m : NatMap} {n a : Nat} (h : ∀ x ∈ m, n < x.1) (ha : n < a) (v d : Nat) :
    ∀ x ∈ m.put a v d, n < x.1 := by
  induction m with
  | nil => unfold NatMap.put; split <;> simp [ha]
  | cons y m ih =>
    rw [List.forall_mem_cons] at h
    have hy : ∀ x ∈ y :: m, n < x.1 := List.forall_mem_cons.2 h
    unfold NatMap.put
    split
    · split
      · exact hy
      · exact List.forall_mem_cons.2 ⟨ha, hy⟩
    · split
      · split
        · exact h.2
        · exact List.forall_mem_cons.2 ⟨ha, h.2⟩
      · exact List.forall_mem_cons.2 ⟨h.1, ih h.2⟩

/-- A put keeps the rising order. -/
theorem NatMap.put_sorted {m : NatMap} (h : m.Pairwise fun x y => x.1 < y.1) (a v d : Nat) :
    (m.put a v d).Pairwise fun x y => x.1 < y.1 := by
  induction m with
  | nil => unfold NatMap.put; split <;> simp
  | cons y m ih =>
    obtain ⟨hy, hm⟩ := List.pairwise_cons.1 h
    unfold NatMap.put
    split
    · rename_i hlt
      split
      · exact h
      · exact List.pairwise_cons.2 ⟨List.forall_mem_cons.2 ⟨hlt, fun x hx => Nat.lt_trans hlt (hy x hx)⟩, h⟩
    · split
      · rename_i heq
        split
        · exact hm
        · exact List.pairwise_cons.2 ⟨fun x hx => heq ▸ hy x hx, hm⟩
      · exact List.pairwise_cons.2 ⟨NatMap.put_above hy (by omega) v d, ih hm⟩

/-- A read after a put, where the map is in rising order but may list unlisted values. -/
theorem NatMap.getD_put_of_sorted {m : NatMap} (h : m.Pairwise fun x y => x.1 < y.1) (d : Nat → Nat) (a x v : Nat) :
    (m.put a v (d a)).getD x (d x) = if x = a then v else m.getD x (d x) := by
  induction m with
  | nil =>
    unfold NatMap.put
    by_cases hv : v = d a <;> by_cases hx : x = a <;> simp [hv, hx, NatMap.getD]
  | cons y m ih =>
    obtain ⟨k, w⟩ := y
    obtain ⟨hk, hm⟩ := List.pairwise_cons.1 h
    unfold NatMap.put
    split
    · rename_i hlt
      have hkm : ∀ x ∈ (k, w) :: m, a < x.1 := List.forall_mem_cons.2 ⟨hlt, fun x hx => Nat.lt_trans hlt (hk x hx)⟩
      split <;> by_cases hx : x = a
      · rw [if_pos hx, hx, NatMap.getD_above hkm (Nat.le_refl a)]; exact Eq.symm ‹_›
      · rw [if_neg hx]
      · simp [NatMap.getD, hx]
      · simp [NatMap.getD, hx]
    · split
      · rename_i heq
        subst heq
        split <;> by_cases hx : x = a
        · rw [if_pos hx, hx, NatMap.getD_above hk (Nat.le_refl a)]; exact Eq.symm ‹_›
        · simp [NatMap.getD, hx]
        · simp [NatMap.getD, hx]
        · simp [NatMap.getD, hx]
      · rename_i hne
        simp only [NatMap.getD, ih hm]
        by_cases hx : x = k
        · simp [hx, show ¬ k = a from fun e => hne e.symm]
        · simp [hx]

/-! ### Device registers (R7) -/

theorem State.Canonical.setReg {s : State} (h : s.Canonical) (o v : Nat) : (s.setReg o v).Canonical :=
  ⟨h.1, NatMap.put_sorted h.2 _ _ _⟩

/-- A device register reads what was put into it, and every other one keeps its value. -/
theorem State.Canonical.reg_setReg {s : State} (h : s.Canonical) (o v x : Nat) :
    (s.setReg o v).reg x = if x = o then v else s.reg x :=
  NatMap.getD_put_of_sorted h.2 regReset o x v

theorem State.Canonical.reg_setReg_self {s : State} (h : s.Canonical) (o v : Nat) : (s.setReg o v).reg o = v := by
  rw [h.reg_setReg, if_pos rfl]

theorem State.Canonical.reg_setReg_ne {s : State} (h : s.Canonical) {o x : Nat} (hx : x ≠ o) (v : Nat) :
    (s.setReg o v).reg x = s.reg x := by
  rw [h.reg_setReg, if_neg hx]

/-- A word with a field replaced, by its parts above, in and below the field. -/
theorem putBits_eq (w lo n v : Nat) :
    putBits w lo n v = 2 ^ lo * (2 ^ n * (w / 2 ^ lo / 2 ^ n) + v % 2 ^ n) + w % 2 ^ lo := by
  have hw : w = 2 ^ lo * (2 ^ n * (w / 2 ^ lo / 2 ^ n) + w / 2 ^ lo % 2 ^ n) + w % 2 ^ lo := by
    rw [Nat.div_add_mod (w / 2 ^ lo), Nat.div_add_mod]
  rw [Nat.mul_add] at hw ⊢
  rw [putBits, bits, Nat.mul_comm _ (2 ^ lo), Nat.mul_comm _ (2 ^ lo)]
  omega

/-- A field reads what was put into it. -/
theorem bits_putBits (w lo n v : Nat) : bits (putBits w lo n v) lo n = v % 2 ^ n := by
  have hlo : w % 2 ^ lo < 2 ^ lo := Nat.mod_lt _ (Nat.two_pow_pos lo)
  rw [bits, putBits_eq, Nat.mul_add_div (Nat.two_pow_pos lo), Nat.div_eq_of_lt hlo, Nat.add_zero, Nat.mul_add_mod,
    Nat.mod_mod]

theorem State.Canonical.regF_setRegF {s : State} (h : s.Canonical) (o lo n v : Nat) :
    (s.setRegF o lo n v).regF o lo n = v % 2 ^ n := by
  rw [State.regF, State.setRegF, h.reg_setReg_self, bits_putBits]

/-- Where a counter sets no cause, counting writes its register and nothing else (R58, R103). -/
theorem State.count_of_noCause (s : State) {o : Nat} (ho : o ∉ [0x2000, 0x2010, 0x2020]) (hc : counterCause o = []) :
    s.count o = s.setReg o (min (s.reg o + 1) (2 ^ 64 - 1)) := by
  simp only [State.count, if_neg ho, hc, List.foldl_nil]

/-! ### Contexts by their slots -/

theorem find?_putCtx (c : Ctx) (l : List Ctx) : (putCtx c l).find? (fun d => d.id == c.id) = some c := by
  induction l with
  | nil => simp [putCtx]
  | cons d ds ih =>
    unfold putCtx
    split
    · simp
    · split
      · simp
      · rename_i hne
        rw [List.find?_cons_of_neg (by simpa using fun e => hne e.symm), ih]

theorem State.ctx_id (s : State) (i : CtxId) : (s.ctx i).id = i := by
  unfold State.ctx
  split
  · assumption
  · cases h : s.ctxs.find? (fun c => c.id == i) with
    | none => rfl
    | some c => simpa using List.find?_some h

/-- A changed context, where the change keeps its slot. -/
theorem State.ctx_mapCtx_self (s : State) (i : CtxId) {f : Ctx → Ctx} (hf : ∀ c, (f c).id = c.id) :
    (s.mapCtx i f).ctx i = f (s.ctx i) := by
  by_cases h : s.cur.id = i
  · simp [State.mapCtx, State.ctx, h, hf]
  · have hid : (f (s.ctx i)).id = i := (hf _).trans (s.ctx_id i)
    have hfind := find?_putCtx (f (s.ctx i)) s.ctxs
    rw [hid] at hfind
    simp only [State.mapCtx, if_neg h]
    rw [State.ctx, if_neg h]
    simp only [hfind, Option.getD_some]

@[simp] theorem State.mapCtx_mem (s : State) (i : CtxId) (f : Ctx → Ctx) : (s.mapCtx i f).mem = s.mem := by
  unfold State.mapCtx; split <;> rfl
@[simp] theorem State.mapCtx_xlt (s : State) (i : CtxId) (f : Ctx → Ctx) : (s.mapCtx i f).xlt = s.xlt := by
  unfold State.mapCtx; split <;> rfl

@[simp] theorem Ctx.bindUpdate_id (c : Ctx) (q : QNo) (n : Nat) : (c.bindUpdate q n).id = c.id := by
  simp only [Ctx.bindUpdate]
  split
  · rfl
  · split <;> rfl

theorem Binding.eq_of_updated {b : Binding} (h : b.updated = true) : b = { b with updated := true } := by
  rw [← h]

/-- An update of a stream's binding marks it as made and leaves the rest of the binding. -/
theorem Ctx.bindUpdate_stream (c : Ctx) (q : QNo) (n : Nat) :
    (c.bindUpdate q n).q[q] = { c.q[q] with updated := true } := by
  simp only [Ctx.bindUpdate]
  split
  · exact Binding.eq_of_updated ‹_›
  · split <;> exact Vector.getElem_set_self ..

/-! ### Learner queues -/

theorem State.lq_q (s : State) (n : Nat) : (s.lq n).q = n := by
  unfold State.lq
  cases h : s.lqs.find? (fun x => x.q == n) with
  | none => rfl
  | some x => simpa using List.find?_some h

theorem find?_putLq (x : LQueue) (l : List LQueue) (n : Nat) :
    (putLq x l).find? (fun y => y.q == n) = if n = x.q then some x else l.find? fun y => y.q == n := by
  have hx : ∀ r : List LQueue, (x :: r).find? (fun y => y.q == n) = if n = x.q then some x else r.find? fun y => y.q == n :=
    fun r => by
      by_cases h : n = x.q
      · simp [h]
      · rw [List.find?_cons_of_neg (by simpa using fun e => h e.symm), if_neg h]
  induction l with
  | nil => exact hx []
  | cons y ys ih =>
    unfold putLq
    split
    · exact hx _
    · split
      · rename_i heq
        rw [hx]
        split
        · rfl
        · rename_i hne
          rw [List.find?_cons_of_neg (by simpa using fun e => hne (heq.trans e).symm)]
      · rename_i hne
        by_cases hy : y.q = n
        · rw [List.find?_cons_of_pos (by simpa using hy), List.find?_cons_of_pos (by simpa using hy),
            if_neg fun e => hne (e.symm.trans hy.symm)]
        · rw [List.find?_cons_of_neg (by simpa using hy), List.find?_cons_of_neg (by simpa using hy), ih]

/-- A changed learner queue, where the change keeps its number; every other queue stands. -/
theorem State.lq_mapLq (s : State) (q : Nat) {f : LQueue → LQueue} (hf : (f (s.lq q)).q = (s.lq q).q) (n : Nat) :
    (s.mapLq q f).lq n = if n = q then f (s.lq q) else s.lq n := by
  rw [s.lq_q] at hf
  simp only [State.mapLq]
  rw [State.lq, find?_putLq, hf]
  split <;> rfl

end Sys2Proof.Machine
end

section
/-! Device registers whose writes do something (R7, R27, R58, R120, R123, R163, R177, R181). -/

namespace Sys2Proof.Machine

theorem bit1_toNat {w : Nat} (v : BitVec w) (n : Nat) : bit1 v.toNat n = v.getLsbD n := by
  rw [bit1, bits, BitVec.getLsbD, Nat.testBit_eq_decide_div_mod_eq]; rfl

/-! ### The steps, unfolded once -/

theorem exec_xltInvGo (v : Word) (s : State) :
    exec (.xltInvGo v) s = .next (if s.served then s.writeXltInv v.toNat else s) := rfl
theorem exec_xltResumeRetry (tag : Nat) (s : State) :
    exec (.xltResumeRetry tag) s = .next (if s.served then s.resume tag false else s) := rfl
theorem exec_xltResumeAbort (tag : Nat) (s : State) :
    exec (.xltResumeAbort tag) s = .next (if s.served then s.resume tag true else s) := rfl
theorem exec_fabJobWrite (v : Word) (s : State) :
    exec (.fabJobWrite v) s = .next (if s.served then s.writeFabCtl v.toNat else s) := rfl
theorem exec_counterClear (off : Nat) (s : State) :
    exec (.counterClear off) s = .next (if s.served && isCounter off then s.setReg off 0 else s) := rfl
theorem exec_hostRewardPost (v : Word) (s : State) : exec (.hostRewardPost v) s = .next (
    if !s.served then s
    else if s.reg 0x1418 = 0 ∨ bits (s.reg 0x1420) 40 24 ≠ 0 ∨ bits v.toNat 32 32 ≠ 0 then s.count 0x1548
    else (s.reward (s.reg 0x1418) (bits (s.reg 0x1420) 0 32) (i32 (bits v.toNat 0 32))
      (sext (bits (s.reg 0x1420) 32 8) 8)).1) := rfl
theorem exec_lqFlush (q : KNo) (s : State) : exec (.lqFlush q) s = .next (
    if (s.lq q.val).flush then s.mapLq q.val fun l => { l with ready := [], out := [], flush := false } else s) := rfl
theorem exec_registerWrite (off : Nat) (v : Word) (s : State) : exec (.registerWrite off v) s = .next (
    if !s.hostUp then s else s.writeReg off v fun s cold => s.bringUp s.someBringUp cold) := rfl

/-- A device that is not up serves no register step (R25). -/
theorem exec_of_not_served {s : State} (h : s.served = false) (v : Word) (tag off : Nat) :
    ∀ i ∈ [.xltInvGo v, .xltResumeRetry tag, .xltResumeAbort tag, .fabJobWrite v, .counterClear off, .hostRewardPost v],
      exec i s = .next s := by
  simp [exec_xltInvGo, exec_xltResumeRetry, exec_xltResumeAbort, exec_fabJobWrite, exec_counterClear, exec_hostRewardPost, h]

/-! ### Invalidation (R120) -/

theorem writeXltInv_go {s : State} (hs : s.Canonical) {v : Word} (hidle : s.regF 0x0710 63 1 = 0)
    (hgo : v.getLsbD 63 = true) : s.writeXltInv v.toNat = (s.setReg 0x0710 (bits v.toNat 0 19)).startInval
      ⟨bits v.toNat 0 16, v.getLsbD 16, v.getLsbD 17, v.getLsbD 18, bits (s.reg 0x0718) 16 39 * 65536,
        bits (s.reg 0x0718) 0 16 + 1⟩ := by
  have hne : ¬ s.regF 0x0710 63 1 = 1 := by omega
  simp only [State.writeXltInv, if_neg hne, bit1_toNat, hgo, if_true, invalOf,
    hs.reg_setReg_ne (show 0x0718 ≠ 0x0710 by decide)]

theorem startInval_go {s : State} (hs : s.Canonical) (i : Inval) : (s.startInval i).regF 0x0710 63 1 = 1 :=
  State.Canonical.regF_setRegF (s := { s with xlt := { s.xlt with inval := s.xlt.inval ++ [i] } }) hs 0x0710 63 1 1

/-- The state once the oldest invalidation has removed what it names. -/
def State.invalidated (s : State) (i : Inval) (rest : List Inval) : State :=
  { s with xlt := { s.xlt with
      inval := rest, tlb := s.xlt.tlb.filter fun e => !i.names e, loose := if i.all && !i.range then none else s.xlt.loose } }

theorem exec_invalidationComplete {s : State} {i : Inval} {rest : List Inval} (h : s.xlt.inval = i :: rest) :
    exec .invalidationComplete s = .next (
      if rest.isEmpty then (s.invalidated i rest).setRegF 0x0710 63 1 0 else s.invalidated i rest) := by
  show execInvalidationComplete s = _
  simp only [execInvalidationComplete, h, State.invalidated]

theorem exec_invalidationComplete_spec {s : State} (hs : s.Canonical) {i : Inval} {rest : List Inval}
    (h : s.xlt.inval = i :: rest) : ∃ t, exec .invalidationComplete s = .next t ∧ (t.mem = s.mem ∧ t.cur = s.cur) ∧
      t.xlt.inval = rest ∧ (∀ e, e ∈ t.xlt.tlb ↔ e ∈ s.xlt.tlb ∧ i.names e = false) ∧
      (rest = [] → t.regF 0x0710 63 1 = 0) := by
  have hu : State.Canonical (s.invalidated i rest) := hs
  refine ⟨_, exec_invalidationComplete h, ?_⟩
  cases rest with
  | nil => exact ⟨⟨rfl, rfl⟩, rfl, fun e => by simp [State.invalidated, State.setRegF], fun _ => hu.regF_setRegF ..⟩
  | cons j js => exact ⟨⟨rfl, rfl⟩, rfl, fun e => by simp [State.invalidated], nofun⟩

/-! ### Held faults (R123, R124) -/

theorem fault_tag {s : State} {tag : Nat} {h : HeldFault} (hf : s.fault tag = some h) : h.tag = tag := by
  simpa using List.find?_some hf

theorem resume_unknown {s : State} {tag : Nat} (h : s.fault tag = none) (abort : Bool) :
    s.resume tag abort = s.setReg 0x2090 (min (s.reg 0x2090 + 1) (2 ^ 64 - 1)) := by
  simp only [State.resume, h]
  exact s.count_of_noCause (by decide) (by decide)

/-- An engine that makes no read of its own at a retry only loses its fault. -/
theorem retry_of_engine {s : State} {h : HeldFault} (hr : ∀ c r, h.holder ≠ .read c r) (hn : ∀ n, h.holder ≠ .send n) :
    s.retry h = s.unhold fun x => x.tag == h.tag := by
  unfold State.retry
  split
  · exact absurd ‹_› (hr _ _)
  · exact absurd ‹_› (hn _)
  · rfl

theorem exec_xltResumeRetry_engine {s : State} {tag : Nat} {h : HeldFault} (hup : s.served = true)
    (hf : s.fault tag = some h) (hr : ∀ c r, h.holder ≠ .read c r) (hn : ∀ n, h.holder ≠ .send n) :
    exec (.xltResumeRetry tag) s =
      .next { s with xlt := { s.xlt with held := s.xlt.held.filter fun x => x.tag != tag } } := by
  simp only [exec_xltResumeRetry, hup, if_true, State.resume, hf, Bool.false_eq_true, if_false, retry_of_engine hr hn,
    fault_tag hf]
  rfl

/-- The binding of an aborted stream but for its update: failed at the fault's address, with no entry (R124). -/
def Binding.aborted (b : Binding) (h : HeldFault) : Binding :=
  { b with
    entries := [], failed := true, failVal := BitVec.ofNat 64 h.va, failProg := progWord h.engine h.progress
    status := b.status ||| BitVec.ofNat 18 (faultBit h.code) }

theorem abortStream_stream (s : State) (c : CtxId) (q : QNo) (h : HeldFault) :
    ((s.abortStream c q h).ctx c).q[q] = { ((s.ctx c).q[q]).aborted h with updated := true } := by
  have hctx : (s.abortStream c q h).ctx c
      = ({ s.ctx c with q := (s.ctx c).q.set q (((s.ctx c).q[q]).aborted h) } : Ctx).bindUpdate q :=
    s.ctx_mapCtx_self c (f := fun x => ({ x with q := x.q.set q ((x.q[q]).aborted h) } : Ctx).bindUpdate q)
      fun _ => Ctx.bindUpdate_id ..
  rw [congrArg Ctx.q hctx, Ctx.bindUpdate_stream]
  simp only [Fin.getElem_fin, Vector.getElem_set_self]

theorem exec_xltResumeAbort_stream {s : State} {tag : Nat} {h : HeldFault} {c : CtxId} {n : QNo} (hup : s.served = true)
    (hf : s.fault tag = some h) (hh : h.holder = .stream c n) : ∃ t, exec (.xltResumeAbort tag) s = .next t ∧
      t.xlt.held = s.xlt.held.filter (fun x => x.tag != tag) ∧ t.mem = s.mem ∧ ((t.ctx c).q[n]).failed = true ∧
      ((t.ctx c).q[n]).failVal = BitVec.ofNat 64 h.va ∧ ((t.ctx c).q[n]).entries = [] := by
  have hexec : exec (.xltResumeAbort tag) s = .next ((s.unhold fun x => x.tag == tag).abortStream c n h) := by
    simp only [exec_xltResumeAbort, hup, if_true, State.resume, hf, State.abort, hh, fault_tag hf]
  exact ⟨_, hexec, by rw [State.abortStream, State.mapCtx_xlt]; rfl, by rw [State.abortStream, State.mapCtx_mem]; rfl,
    by rw [abortStream_stream]; rfl, by rw [abortStream_stream]; rfl, by rw [abortStream_stream]; rfl⟩

/-! ### A new fabric job (R32, R59, R60) -/

theorem writeFabCtl_reg {s : State} (hs : s.Canonical) (v : Nat) :
    bits ((s.writeFabCtl v).reg 0x1000) 0 31 = bits v 0 31 ∧ bits ((s.writeFabCtl v).reg 0x1000) 32 32 = bits v 32 32 := by
  have hreg : ∃ x, (s.writeFabCtl v).reg 0x1000 = putBits v 31 1 x := ⟨_, hs.reg_setReg_self ..⟩
  obtain ⟨x, hx⟩ := hreg
  rw [hx]
  simp only [putBits, bits]
  omega

/-! ### Host posts to the join (R163, R181) -/

theorem reward_disabled {s : State} (h : s.regF 0x1400 0 1 = 0) (key step : Nat) (r e : Int) :
    s.reward key step r e = (s.count 0x1548, 6) := by
  simp [State.reward, State.jEnabled, h]

/-- A reward that no entry waits for is held, while there is room. -/
theorem reward_held {s : State} (h : s.regF 0x1400 0 1 = 1) {key : Nat} (hkey : ∀ x ∈ s.join, x.key ≠ key)
    (hroom : s.orphans.length < 65536) (step : Nat) (r e : Int) : s.reward key step r e =
      (({ s with orphans := s.orphans ++ [⟨key, step, r, e, s.ftime, s.ftime + s.regF 0x1408 0 32 * 1000⟩] } : State).count
        0x1520, 2) := by
  have hnone : s.jKey key = none := List.find?_eq_none.2 fun x hx => by simpa using hkey x hx
  simp [State.reward, State.jEnabled, h, hnone, State.holdReward, hroom]

theorem sext_ofNat_mod (x n : Nat) (hn : 0 < n) : sext ((x % 2 ^ n : Nat) : Int) n = (BitVec.ofNat n x).toInt := by
  have hp : 2 ^ n = 2 * 2 ^ (n - 1) := by rw [← Nat.pow_succ']; congr 1; omega
  have hc : (2 : Int) ^ n = ((2 ^ n : Nat) : Int) := by push_cast; rfl
  have hc' : (2 : Int) ^ (n - 1) = ((2 ^ (n - 1) : Nat) : Int) := by push_cast; rfl
  have hx := Nat.mod_lt x (Nat.two_pow_pos n)
  rw [BitVec.toInt_eq_toNat_cond, BitVec.toNat_ofNat, sext, hc, hc']
  generalize x % 2 ^ n = y at *
  generalize 2 ^ n = p at *
  generalize 2 ^ (n - 1) = k at *
  subst hp
  split
  · rw [Int.emod_eq_of_lt] <;> omega
  · rw [← Int.sub_emod_right, Int.emod_eq_of_lt] <;> omega

/-! ### Register writes by offset (R7, R27) -/

/-- Read-only registers keep their values. -/
theorem writeReg_readOnly {s : State} (hup : bit1 (s.reg 0) 16 = true) (w : Word) (reset : State → Bool → State) :
    ∀ off ∈ [0x0000, 0x0100, 0x0108, 0x0120, 0x0128, 0x1218, 0x1220, 0x1430], s.writeReg off w reset = s := by
  simp [State.writeReg, isCounter, hup]

/-- RESET_CTL without its key. -/
theorem writeReg_resetCtl_noKey {s : State} {w : Word} (h : w.toNat % 2 ^ 16 ≠ 0x5752) (reset : State → Bool → State) :
    s.writeReg 0x0010 w reset = s := by
  have hk : ¬ bits w.toNat 0 16 = 0x5752 := by simpa [bits] using h
  simp only [State.writeReg, hk, false_and, if_true, if_false]

theorem writeReg_intCause {s : State} (hup : bit1 (s.reg 0) 16 = true) (w : Word) (reset : State → Bool → State) :
    s.writeReg 0x0400 w reset = s.setReg 0x0400 (s.reg 0x0400 &&& (0xFF - bits w.toNat 0 7)) := by
  simp [State.writeReg, isCounter, hup]

theorem writeReg_schedSaveCount {s : State} (hup : bit1 (s.reg 0) 16 = true) (w : Word) (reset : State → Bool → State) :
    s.writeReg 0x0808 w reset = s.writeIf 0x0808 (bits w.toNat 0 17) (bits w.toNat 0 17 ≤ 65536) := by
  simp [State.writeReg, isCounter, hup]

theorem writeReg_schedSlice {s : State} (hup : bit1 (s.reg 0) 16 = true) (w : Word) (reset : State → Bool → State) :
    s.writeReg 0x0810 w reset = s.writeIf 0x0810 (bits w.toNat 0 16) (256 ≤ bits w.toNat 0 16) := by
  simp [State.writeReg, isCounter, hup]

/-- A write of a range-checked register changes that register alone, and only where the value is in range. -/
theorem writeIf_spec {s : State} (hs : s.Canonical) (off v : Nat) (ok : Bool) :
    ((s.writeIf off v ok).mem = s.mem ∧ (s.writeIf off v ok).cur = s.cur) ∧
      (∀ o, o ≠ off → (s.writeIf off v ok).reg o = s.reg o) ∧
      (s.writeIf off v ok).reg off = if ok then v else s.reg off := by
  cases ok
  · exact ⟨⟨rfl, rfl⟩, fun _ _ => rfl, rfl⟩
  · exact ⟨⟨rfl, rfl⟩, fun o ho => hs.reg_setReg_ne ho v, hs.reg_setReg_self off v⟩

/-- Bits of a cause register after a write that clears those of its low seven that are written as 1 (R98). -/
theorem testBit_clearCauses (x y j : Nat) : (x &&& (0xFF - bits y 0 7)).testBit j =
    if j < 7 then x.testBit j && !y.testBit j else decide (j = 7) && x.testBit j := by
  have hlt : y % 2 ^ 7 < 2 ^ 8 := by omega
  have hsub : 0xFF - bits y 0 7 = 2 ^ 8 - (y % 2 ^ 7 + 1) := by simp only [bits]; omega
  rw [hsub, Nat.testBit_and, Nat.testBit_two_pow_sub_succ hlt, Nat.testBit_mod_two_pow]
  split
  · simp [show j < 8 by omega, *]
  · by_cases h7 : j = 7
    · simp [h7]
    · simp [h7, show ¬ j < 8 by omega]

end Sys2Proof.Machine
end

section
/-! The obligations about the device registers and the reset state (R7, R24, R32, R58, R123, R157, R179). -/

namespace Sys2Proof.Machine

/-- A write of XLT_INV with GO set starts the invalidation that its fields and XLT_INV_VA name (R120). -/
theorem exec_xltInvGo_spec {s : State} (hs : s.Canonical) {v : Word} (hup : s.served = true)
    (hidle : s.regF 0x0710 63 1 = 0) (hgo : v.getLsbD 63 = true) : ∃ t, exec (.xltInvGo v) s = .next t ∧
      (t.mem = s.mem ∧ t.cur = s.cur) ∧ t.regF 0x0710 63 1 = 1 ∧
      t.xlt.inval = s.xlt.inval ++ [⟨bits v.toNat 0 16, v.getLsbD 16, v.getLsbD 17, v.getLsbD 18,
        bits (s.reg 0x0718) 16 39 * 65536, bits (s.reg 0x0718) 0 16 + 1⟩] := by
  have hexec : exec (.xltInvGo v) s = .next (s.writeXltInv v.toNat) := by rw [exec_xltInvGo, if_pos hup]
  rw [writeXltInv_go hs hidle hgo] at hexec
  exact ⟨_, hexec, ⟨rfl, rfl⟩, startInval_go (hs.setReg ..) _, rfl⟩

/-- XLT_RESUME of a tag that no fault has is counted, for a retry and for an abort (R123). -/
theorem exec_xltResume_unknown {s : State} (hs : s.Canonical) {tag : Nat} (hup : s.served = true)
    (hf : s.fault tag = none) : ∃ t u, exec (.xltResumeRetry tag) s = .next t ∧ exec (.xltResumeAbort tag) s = .next u ∧
      t.reg 0x2090 = min (s.reg 0x2090 + 1) (2 ^ 64 - 1) ∧ u.reg 0x2090 = min (s.reg 0x2090 + 1) (2 ^ 64 - 1) ∧
      (t.mem = s.mem ∧ t.cur = s.cur) ∧ (u.mem = s.mem ∧ u.cur = s.cur) ∧ t.xlt = s.xlt ∧ u.xlt = s.xlt :=
  ⟨_, _, (exec_xltResumeRetry tag s).trans (congrArg _ ((if_pos hup).trans (resume_unknown hf false))),
    (exec_xltResumeAbort tag s).trans (congrArg _ ((if_pos hup).trans (resume_unknown hf true))),
    hs.reg_setReg_self .., hs.reg_setReg_self .., ⟨rfl, rfl⟩, ⟨rfl, rfl⟩, rfl, rfl⟩

/-- Counting in a counter without a cause bumps it and leaves memory, the context and the held rewards. -/
theorem State.Canonical.count_spec {s : State} (hs : s.Canonical) {o : Nat} (ho : o ∉ [0x2000, 0x2010, 0x2020])
    (hc : counterCause o = []) : ((s.count o).mem = s.mem ∧ (s.count o).cur = s.cur) ∧
      (s.count o).reg o = min (s.reg o + 1) (2 ^ 64 - 1) ∧ (s.count o).orphans = s.orphans := by
  rw [s.count_of_noCause ho hc]
  exact ⟨⟨rfl, rfl⟩, hs.reg_setReg_self .., rfl⟩

/-- A host post with a zero key or a reserved bit set is counted (R181). -/
theorem exec_hostRewardPost_malformed {s : State} (hs : s.Canonical) {v : Word} (hup : s.served = true)
    (h : s.reg 0x1418 = 0 ∨ 2 ^ 40 ≤ s.reg 0x1420 % 2 ^ 64 ∨ 2 ^ 32 ≤ v.toNat) : ∃ t,
      exec (.hostRewardPost v) s = .next t ∧ (t.mem = s.mem ∧ t.cur = s.cur) ∧
      t.reg 0x1548 = min (s.reg 0x1548 + 1) (2 ^ 64 - 1) ∧ t.orphans = s.orphans := by
  have hbad : s.reg 0x1418 = 0 ∨ bits (s.reg 0x1420) 40 24 ≠ 0 ∨ bits v.toNat 32 32 ≠ 0 := by
    have hv := v.isLt
    simp only [bits]
    omega
  refine ⟨_, ?_, hs.count_spec (by decide) (by decide)⟩
  simp only [exec_hostRewardPost, hup, Bool.not_true, Bool.false_eq_true, if_false, if_pos hbad]

/-- A well-formed host post reaches the join with its fields (R181). -/
theorem exec_hostRewardPost_formed {s : State} {v : Word} (hup : s.served = true) (hkey : 0 < s.reg 0x1418)
    (hst : s.reg 0x1420 < 2 ^ 40) (hv : v.toNat < 2 ^ 32) : exec (.hostRewardPost v) s =
      .next (s.reward (s.reg 0x1418) (s.reg 0x1420 % 2 ^ 32) (v.setWidth 32).toInt
        (BitVec.ofNat 8 (s.reg 0x1420 / 2 ^ 32)).toInt).1 := by
  have hgood : ¬ (s.reg 0x1418 = 0 ∨ bits (s.reg 0x1420) 40 24 ≠ 0 ∨ bits v.toNat 32 32 ≠ 0) := by
    simp only [bits]
    omega
  have hval : i32 (bits v.toNat 0 32) = (v.setWidth 32).toInt := by
    rw [i32, bits, Nat.pow_zero, Nat.div_one, sext_ofNat_mod _ 32 (by decide)]
    congr 1
  have hexp : sext (bits (s.reg 0x1420) 32 8) 8 = (BitVec.ofNat 8 (s.reg 0x1420 / 2 ^ 32)).toInt :=
    sext_ofNat_mod _ 8 (by decide)
  have hstep : bits (s.reg 0x1420) 0 32 = s.reg 0x1420 % 2 ^ 32 := by rw [bits, Nat.pow_zero, Nat.div_one]
  simp only [exec_hostRewardPost, hup, Bool.not_true, Bool.false_eq_true, if_false, if_neg hgood, hval, hexp, hstep]

/-- A running FLUSH empties READY and OUT of its queue alone (R177). -/
theorem exec_lqFlush_spec {s : State} {q : KNo} (h : (s.lq q.val).flush = true) : ∃ t, exec (.lqFlush q) s = .next t ∧
    (t.mem = s.mem ∧ t.cur = s.cur) ∧ (t.lq q.val).ready = [] ∧ (t.lq q.val).out = [] ∧
    (t.lq q.val).pend = (s.lq q.val).pend ∧ (t.lq q.val).flush = false ∧ ∀ n, n ≠ q.val → t.lq n = s.lq n := by
  have hlq := s.lq_mapLq q.val (f := fun l => { l with ready := [], out := [], flush := false }) rfl
  have hself := (hlq q.val).trans (if_pos rfl)
  refine ⟨_, (exec_lqFlush q s).trans (congrArg _ (if_pos h)), ⟨rfl, rfl⟩, ?_, ?_, ?_, ?_, fun n hn =>
    (hlq n).trans (if_neg hn)⟩ <;> rw [hself]

/-- After reset every device register holds its reset value. -/
theorem State.reg_reset (o : Nat) : State.reset.reg o = regReset o := rfl

end Sys2Proof.Machine

open Sys2Proof Sys2Proof.Machine

/-- Settles O54, clause by clause from the lemmas about the registers and tables each write reaches. -/
theorem registerSteps : Obligations.RegisterSteps := by
  intro v tag off q s hs bump same
  refine ⟨fun h => exec_of_not_served h v tag off, fun h => ?_, exec_xltInvGo_spec hs,
    fun _ _ => exec_invalidationComplete_spec hs, exec_xltResume_unknown hs, fun _ => exec_xltResumeRetry_engine,
    fun _ _ _ => exec_xltResumeAbort_stream, fun h => ?_, fun h hc => ?_,
    fun h => ⟨?_, fun hkey hst hv => ⟨fun hoff => ?_, ?_⟩⟩, exec_lqFlush_spec, fun h => ?_, fun h => ?_, fun hup hdone => ?_⟩
  · rw [exec_xltInvGo, State.writeXltInv, if_pos h, ite_self]
  · obtain ⟨hjob, hrest⟩ := writeFabCtl_reg hs v.toNat
    exact ⟨_, (exec_fabJobWrite v s).trans (congrArg _ (if_pos h)), ⟨rfl, rfl⟩, hjob, hrest, rfl, rfl, rfl, rfl,
      rfl, rfl, rfl, rfl⟩
  · exact ⟨_, (exec_counterClear off s).trans (congrArg _ (if_pos (by rw [h, hc]; rfl))), ⟨rfl, rfl⟩, hs.reg_setReg_self ..,
      fun o ho => hs.reg_setReg_ne ho 0⟩
  · exact exec_hostRewardPost_malformed hs h
  · rw [exec_hostRewardPost_formed h hkey hst hv, reward_disabled hoff]
    exact ⟨_, rfl, hs.count_spec (by decide) (by decide)⟩
  · intro hon hfree hroom
    rw [exec_hostRewardPost_formed h hkey hst hv, reward_held hon hfree hroom]
    have hheld : ∀ os, State.Canonical { s with orphans := os } := fun _ => hs
    exact ⟨_, rfl, (hheld _).count_spec (by decide) (by decide)⟩
  · rw [exec_lqFlush, if_neg (by simp [h])]
  · rw [exec_registerWrite, h]; rfl
  · have hexec : ∀ o, exec (.registerWrite o v) s = .next (s.writeReg o v fun s cold => s.bringUp s.someBringUp cold) :=
      fun o => by rw [exec_registerWrite, hup]; rfl
    refine ⟨?_, fun h => ?_, ?_, ?_, ?_⟩
    · rintro rfl hkey
      rw [hexec, writeReg_resetCtl_noKey hkey]
    · rw [hexec, writeReg_readOnly hdone v _ off h]
    · rintro rfl
      refine ⟨_, (hexec _).trans (congrArg _ (writeReg_intCause hdone ..)),
        ⟨⟨rfl, rfl⟩, fun o ho => hs.reg_setReg_ne ho _⟩, fun j => ?_⟩
      rw [hs.reg_setReg_self, testBit_clearCauses]
    · rintro rfl
      obtain ⟨hsame, hother, hreg⟩ := writeIf_spec hs 0x0810 (bits v.toNat 0 16) (256 ≤ bits v.toNat 0 16)
      exact ⟨_, (hexec _).trans (congrArg _ (writeReg_schedSlice hdone ..)), ⟨hsame, hother⟩,
        by simpa [bits] using hreg⟩
    · rintro rfl
      obtain ⟨hsame, hother, hreg⟩ := writeIf_spec hs 0x0808 (bits v.toNat 0 17) (bits v.toNat 0 17 ≤ 65536)
      exact ⟨_, (hexec _).trans (congrArg _ (writeReg_schedSaveCount hdone ..)), ⟨hsame, hother⟩,
        by simpa [bits] using hreg⟩

/-- Settles O42: no register is listed after reset, so each reads its reset value. -/
theorem resetState : Obligations.ResetState := by
  have hlq : ∀ q < 16, regReset (0x1800 + 0x40 * q + 8) = 120000000 * 2 ^ 32 := by decide
  refine ⟨⟨rfl, List.Pairwise.nil⟩, ?_⟩
  simp only [State.reg_reset]
  exact ⟨rfl, rfl, rfl, rfl, rfl, rfl, rfl, rfl, rfl, rfl, rfl, rfl, rfl, hlq, rfl, rfl, rfl, rfl, rfl, rfl,
    rfl, rfl, rfl, rfl, rfl, rfl, rfl, rfl, rfl, rfl, rfl⟩

end

section
/-! TOKEN at the sender (R77), and a send table in which two entries share a MSGID. -/

namespace Sys2Proof.Machine

/-- A sluice packet that is taken, and whose fields have the form of its row in R66, is acted on. -/
theorem State.onSluice_of_slTakes {s : State} {p : Packet} {len opaBits : Nat} (h : s.slTakes p len opaBits) {form : Bool}
    (hform : form = true) (run : State → State) : s.onSluice p form run = run s := by
  obtain ⟨⟨hfatal, htrip, hcrc, hmbz, hjob, hlen⟩, htag, hen, -, -, -⟩ := h
  simp [State.onSluice, State.fabricOn, State.pktOk, hfatal, htrip, hcrc, hmbz, hjob, hlen, htag, hen, hform]

/-- The token a TOKEN packet carries (R66). -/
def tokenOf (p : Packet) : Token := ⟨p.opb.toNat, p.va, bits p.opa.toNat 48 16 + 1, dataWord p 0, []⟩
/-- A token in its place in ticket order, instead of one of the same ticket (R69). -/
def mergeToken (k : Token) (l : List Token) : List Token :=
  l.filter (fun x => x.ticket < k.ticket) ++ k :: l.filter fun x => k.ticket < x.ticket

/-- A live TOKEN queues its message: every entry of the MSGID takes the tokens of the first one, with the new token merged in. -/
theorem exec_token_of_live {s : State} {p : Packet} {e : SlSend} (h : s.slTakes p 8 64)
    (he : s.sendOf (msgidOf p) = some e) (hlive : s.ftime ≤ (tokenOf p).expiry) (hst : e.st = .posted ∨ e.st = .queued) :
    exec (.token p) s = .next (s.mapSend (msgidOf p) fun x =>
      { x with st := .queued, tokens := mergeToken (tokenOf p) e.tokens }) := by
  have hform : slForm p 8 64 true true false = true := by
    obtain ⟨-, -, -, hlen, hopa, hstatus⟩ := h
    rw [slForm, hlen, hstatus, decide_eq_true hopa]
    rfl
  have hexec : exec (.token p) s = execToken p s := rfl
  have hexpiry : ¬ dataWord p 0 < s.ftime := Nat.not_lt.2 hlive
  rw [hexec, execToken, State.onSluice_of_slTakes h hform]
  simp only [he, if_neg hexpiry, if_pos hst, List.append_assoc]
  rfl

/-- A queued send of message 1 with its live tokens. -/
def queuedSend (tokens : List Token) : SlSend :=
  ⟨⟨0, 0⟩, 0, 0, none, 1, 0, none, tokens, true, [], none, .queued, 1, 0, 0, none⟩
/-- The sluice enabled, with two sends of message 1: the first holds no token, the second that of ticket 2. -/
def sharedMsgid : State :=
  { State.reset.setReg 0x1200 (2 ^ 32) with
    slu := { SluiceSt.empty with sends := [queuedSend [], queuedSend [⟨2, 4096, 4096, 0, []⟩]] } }
/-- The TOKEN of message 1 for its first 4,096 bytes, with ticket 1. -/
def firstToken : Packet :=
  { State.reset.mkPacket 5 4 0 with opa := BitVec.ofNat 64 (1 + 4095 * 2 ^ 48), opb := 1, data := leBytes 0 8 }

theorem sharedMsgid_slTakes : sharedMsgid.slTakes firstToken 8 64 := by
  unfold State.slTakes State.takes
  decide +kernel

theorem sharedMsgid_sendOf : sharedMsgid.sendOf (msgidOf firstToken) = some (queuedSend []) := by
  decide +kernel

/-- After the TOKEN both entries hold its token alone: that of ticket 2 is gone from the second. -/
theorem exec_firstToken : ∃ t, exec (.token firstToken) sharedMsgid = .next t ∧
    t.slu.sends.map SlSend.tokens = [[tokenOf firstToken], [tokenOf firstToken]] :=
  ⟨_, exec_token_of_live sharedMsgid_slTakes sharedMsgid_sendOf (Nat.zero_le _) (.inr rfl), by decide +kernel⟩

end Sys2Proof.Machine

open Sys2Proof Sys2Proof.Machine

/-- Refutes O56, in its TOKEN clause alone. The statement merges the token into the tokens of each entry of the MSGID; the
machine gives every such entry the merged tokens of the first. They differ where two entries share a MSGID, which no hypothesis
excludes: the token of ticket 2 is lost from the second entry of `sharedMsgid`. -/
theorem not_sluicePackets : ¬ Obligations.SluicePackets := by
  unfold Obligations.SluicePackets
  intro h
  obtain ⟨-, -, -, htoken, -⟩ := h firstToken sharedMsgid sharedMsgid 0 0
  obtain ⟨-, -, hmerge⟩ := htoken sharedMsgid_slTakes
  obtain ⟨t, hexec, -, hstated⟩ := hmerge _ sharedMsgid_sendOf (Nat.zero_le _) (.inr rfl)
  obtain ⟨t', hexec', hmachine⟩ := exec_firstToken
  obtain rfl : t = t' := Host.Outcome.next.inj (hexec.symm.trans hexec')
  rw [hstated] at hmachine
  exact absurd hmachine (by decide)

end

section
/-! The arbiter of a core (R145, R146): the pick by rank, and what a slice's end and beginning leave unchanged. -/

namespace Sys2Proof.Machine

/-! ### The pick by rank -/

theorem firstBy_eq_none {α : Type} {lt : α → α → Bool} {l : List α} : firstBy lt l = none ↔ l = [] := by
  cases l with
  | nil => simp [firstBy]
  | cons x xs =>
    refine ⟨fun h => ?_, fun h => nomatch h⟩
    rw [firstBy] at h
    split at h
    · exact nomatch h
    · split at h <;> exact nomatch h

theorem exists_firstBy {α : Type} (lt : α → α → Bool) {l : List α} (hl : l ≠ []) : ∃ x, firstBy lt l = some x :=
  Option.ne_none_iff_exists'.1 fun h => hl (firstBy_eq_none.1 h)

/-- In a strict weak order the first element is one of the list, and no element comes before it. -/
theorem firstBy_spec {α : Type} {lt : α → α → Bool} (hasymm : ∀ a b, lt a b = true → lt b a = false)
    (htrans : ∀ a b c, lt a b = false → lt b c = false → lt a c = false) {l : List α} {m : α}
    (h : firstBy lt l = some m) : m ∈ l ∧ ∀ a ∈ l, lt a m = false := by
  have hirrefl : ∀ a, lt a a = false := fun a => by
    cases ha : lt a a with
    | false => rfl
    | true => exact ha.symm.trans (hasymm a a ha)
  induction l generalizing m with
  | nil => exact nomatch h
  | cons x xs ih =>
    rw [firstBy] at h
    split at h
    · next hnone =>
      obtain rfl : x = m := Option.some.inj h
      rw [firstBy_eq_none.1 hnone]
      simp [hirrefl]
    · next y hy =>
      obtain ⟨hmem, hfirst⟩ := ih hy
      split at h
      · next hlt =>
        obtain rfl : y = m := Option.some.inj h
        exact ⟨List.mem_cons_of_mem x hmem, List.forall_mem_cons.2 ⟨hasymm y x hlt, hfirst⟩⟩
      · next hnlt =>
        obtain rfl : x = m := Option.some.inj h
        have hyx : lt y x = false := Bool.eq_false_iff.2 hnlt
        exact ⟨List.mem_cons_self, List.forall_mem_cons.2 ⟨hirrefl x, fun a ha => htrans a y x (hfirst a ha) hyx⟩⟩

/-- Rank is by priority, then by dispatch time, then by slot. -/
theorem ranksBefore_iff (a b : Ctx) : ranksBefore a b = true ↔
    arbPrio b < arbPrio a ∨ arbPrio a = arbPrio b ∧
      (a.launch.dispatchTime < b.launch.dispatchTime ∨
        a.launch.dispatchTime = b.launch.dispatchTime ∧ a.id.slot < b.id.slot) := by
  simp only [ranksBefore, bne_iff_ne]
  split
  · simp only [decide_eq_true_eq]
    omega
  · split <;> simp only [decide_eq_true_eq] <;> omega

theorem ranksBefore_asymm (a b : Ctx) (h : ranksBefore a b = true) : ranksBefore b a = false := by
  rw [← Bool.not_eq_true, ranksBefore_iff]
  rw [ranksBefore_iff] at h
  omega

theorem ranksBefore_false_trans (a b c : Ctx) (hab : ranksBefore a b = false) (hbc : ranksBefore b c = false) :
    ranksBefore a c = false := by
  rw [← Bool.not_eq_true, ranksBefore_iff] at hab hbc ⊢
  omega

/-- The highest-ranked context of a list: no other ranks before it. -/
theorem firstBy_ranksBefore {l : List Ctx} {c : Ctx} (h : firstBy ranksBefore l = some c) :
    c ∈ l ∧ ∀ d ∈ l, ranksBefore d c = false :=
  firstBy_spec ranksBefore_asymm ranksBefore_false_trans h

/-! ### A core by its number -/

theorem State.core_core (s : State) (n : Nat) : (s.core n).core = n := by
  unfold State.core
  cases h : s.cores.find? (fun c => c.core == n) with
  | none => rfl
  | some c => simpa using List.find?_some h

theorem find?_putCore (k : CoreSt) (l : List CoreSt) : (putCore k l).find? (fun c => c.core == k.core) = some k := by
  induction l with
  | nil => simp [putCore]
  | cons d ds ih =>
    unfold putCore
    split
    · simp
    · split
      · simp
      · next hne => rw [List.find?_cons_of_neg (by simpa using fun e => hne e.symm), ih]

/-- A changed core, where the change keeps its number. -/
theorem State.core_mapCore_self (s : State) (n : Nat) {f : CoreSt → CoreSt} (hf : ∀ k, (f k).core = k.core) :
    (s.mapCore n f).core n = f (s.core n) := by
  have hfind := find?_putCore (f (s.core n)) s.cores
  rw [hf, s.core_core] at hfind
  rw [State.core, State.mapCore_cores, hfind, Option.getD_some]

theorem State.core_congr {s t : State} (h : t.cores = s.cores) (n : Nat) : t.core n = s.core n := by
  rw [State.core, h, State.core]

@[simp] theorem State.runnable_mapCore (s : State) (n : Nat) (f : CoreSt → CoreSt) (core : Nat) :
    (s.mapCore n f).runnable core = s.runnable core := rfl

/-! ### What a change of a context or a register leaves unchanged -/

@[simp] theorem State.mapCtx_cores (s : State) (i : CtxId) (f : Ctx → Ctx) : (s.mapCtx i f).cores = s.cores := by
  unfold State.mapCtx; split <;> rfl
@[simp] theorem State.mapCtx_regs (s : State) (i : CtxId) (f : Ctx → Ctx) : (s.mapCtx i f).regs = s.regs := by
  unfold State.mapCtx; split <;> rfl
@[simp] theorem State.mapCtx_cycle (s : State) (i : CtxId) (f : Ctx → Ctx) : (s.mapCtx i f).cycle = s.cycle := by
  unfold State.mapCtx; split <;> rfl

theorem State.reg_congr {s t : State} (h : t.regs = s.regs) (o : Nat) : t.reg o = s.reg o := by
  rw [State.reg, h, State.reg]

/-- A put changes no other number, in rising order or not. -/
theorem NatMap.getD_put_of_ne {a x : Nat} (hx : x ≠ a) (m : NatMap) (v d e : Nat) :
    (m.put a v d).getD x e = m.getD x e := by
  induction m with
  | nil => unfold NatMap.put; split <;> simp [NatMap.getD, hx]
  | cons y m ih =>
    unfold NatMap.put
    split
    · split <;> simp [NatMap.getD, hx]
    · split
      · next heq => subst heq; split <;> simp [NatMap.getD, hx]
      · simp [NatMap.getD, ih]

theorem State.reg_setReg_of_ne (s : State) {o x : Nat} (hx : x ≠ o) (v : Nat) : (s.setReg o v).reg x = s.reg x :=
  NatMap.getD_put_of_ne hx ..

/-! ### A slice ends, a slice begins (R146) -/

/-- SCHED_PROMOTE sets no cause. -/
theorem State.count_schedPromote (s : State) : s.count 0x2128 = s.setReg 0x2128 (min (s.reg 0x2128 + 1) (2 ^ 64 - 1)) :=
  s.count_of_noCause (by decide) rfl

/-- A slice's end changes contexts, SCHED_PROMOTE and the core's record only: the cycle and SCHED_SLICE stand. -/
theorem State.endSlice_frame (s : State) (core : Nat) :
    (s.endSlice core).cycle = s.cycle ∧ (s.endSlice core).reg 0x0810 = s.reg 0x0810 := by
  unfold State.endSlice
  refine List.foldlRecOn (motive := fun t : State => t.cycle = s.cycle ∧ t.reg 0x0810 = s.reg 0x0810) _ _ ⟨rfl, rfl⟩
    fun t ht c _ => ?_
  have hmap : ∀ f : Ctx → Ctx, (t.mapCtx c.id f).cycle = s.cycle ∧ (t.mapCtx c.id f).reg 0x0810 = s.reg 0x0810 := fun f =>
    ⟨(t.mapCtx_cycle c.id f).trans ht.1, (State.reg_congr (t.mapCtx_regs c.id f) _).trans ht.2⟩
  split
  · exact hmap _
  · split
    · exact hmap _
    · split
      · rw [State.count_schedPromote, State.setReg_cycle, State.reg_setReg_of_ne _ (by decide)]
        exact hmap _
      · exact hmap _

/-- The end of a slice in which no context is runnable makes none runnable. -/
theorem State.runnable_endSlice_nil {s : State} {core : Nat} (h : s.runnable core = []) :
    (s.endSlice core).runnable core = [] := by
  rw [State.endSlice, State.runnable_mapCore, h, List.foldl_nil, State.runnable_mapCore, h]

/-- The core's record after a slice has begun: the new slice end (R145). -/
theorem State.core_beginSlice (s : State) (core : Nat) : (s.beginSlice core).core core =
    { s.core core with sliceEnd := s.cycle + s.reg 0x0810 % 2 ^ 16, slicing := true } := by
  have hcores : ∀ (t : State) (l : List Ctx),
      (l.foldl (fun s c => s.mapCtx c.id fun c => { c with sliceRun := false }) t).cores = t.cores := fun t l =>
    List.foldlRecOn (motive := fun u : State => u.cores = t.cores) l _ rfl fun u hu c _ => (u.mapCtx_cores c.id _).trans hu
  have hslice : s.regF 0x0810 0 16 = s.reg 0x0810 % 2 ^ 16 := by rw [State.regF, bits, Nat.pow_zero, Nat.div_one]
  rw [State.beginSlice, State.core_congr (hcores ..), State.core_mapCore_self, hslice]
  exact fun _ => rfl

/-! ### The arbiter's three answers (R145) -/

/-- The slot that a core runs. -/
def State.setRun (s : State) (core : Nat) (run : Option Nat) : State := s.mapCore core fun k => { k with run := run }

theorem State.core_setRun (s : State) (core : Nat) (run : Option Nat) :
    (s.setRun core run).core core = { s.core core with run := run } :=
  s.core_mapCore_self core fun _ => rfl

/-- The runnable contexts whose declared run fits what is left of the slice. -/
def State.fitting (s : State) (core : Nat) : List Ctx :=
  (s.runnable core).filter fun c => s.cycle + c.launch.declared ≤ (s.core core).sliceEnd

theorem State.mem_fitting {s : State} {core : Nat} {c : Ctx} :
    c ∈ s.fitting core ↔ c ∈ s.runnable core ∧ s.cycle + c.launch.declared ≤ (s.core core).sliceEnd := by
  rw [State.fitting, List.mem_filter, decide_eq_true_eq]

/-- The state in which a slice that no run fits has ended. -/
def State.sliceCut (s : State) (core : Nat) : State := if (s.core core).slicing then s.endSlice core else s

theorem State.sliceCut_frame (s : State) (core : Nat) :
    (s.sliceCut core).cycle = s.cycle ∧ (s.sliceCut core).reg 0x0810 = s.reg 0x0810 := by
  unfold State.sliceCut
  split
  · exact s.endSlice_frame core
  · exact ⟨rfl, rfl⟩

theorem State.runnable_sliceCut_nil {s : State} {core : Nat} (h : s.runnable core = []) :
    (s.sliceCut core).runnable core = [] := by
  unfold State.sliceCut
  split
  · exact State.runnable_endSlice_nil h
  · exact h

section
variable {s : State} {core : Nat} {c : Ctx}

theorem State.find?_victim_eq_none (h : ∀ c ∈ s.runnable core, c.victim = none) :
    (s.runnable core).find? (fun c => c.victim.isSome) = none :=
  List.find?_eq_none.2 fun c hc => by rw [h c hc]; exact Bool.false_ne_true

theorem State.arbitrate_of_victim (h : (s.runnable core).find? (fun c => c.victim.isSome) = some c) :
    s.arbitrate core = s.setRun core (some c.id.slot) := by
  simp only [State.arbitrate, h]
  rfl

theorem State.arbitrate_of_fitting (hv : ∀ c ∈ s.runnable core, c.victim = none)
    (h : firstBy ranksBefore (s.fitting core) = some c) : s.arbitrate core = s.setRun core (some c.id.slot) := by
  rw [State.fitting] at h
  simp only [State.arbitrate, State.find?_victim_eq_none hv, h]
  rfl

theorem State.arbitrate_of_cut (hv : ∀ c ∈ s.runnable core, c.victim = none) (hfit : s.fitting core = [])
    (h : firstBy ranksBefore ((s.sliceCut core).runnable core) = some c) :
    s.arbitrate core = ((s.sliceCut core).beginSlice core).setRun core (some c.id.slot) := by
  rw [State.fitting] at hfit
  rw [State.sliceCut] at h ⊢
  simp only [State.arbitrate, State.find?_victim_eq_none hv, hfit, firstBy, h]
  rfl

theorem State.arbitrate_of_runnable_nil (h : s.runnable core = []) :
    s.arbitrate core = (s.sliceCut core).setRun core none := by
  have hcut := State.runnable_sliceCut_nil h
  rw [State.sliceCut] at hcut ⊢
  simp only [State.arbitrate, h, List.find?_nil, List.filter_nil, firstBy, hcut]
  rfl

end

end Sys2Proof.Machine

open Sys2Proof Sys2Proof.Machine

/-- Settles O23: the arbiter's answers are the marked victim, the highest rank among the fitting runs, and the highest rank once
the slice is cut; rank is a strict weak order, so no context ranks before the one picked. -/
theorem arbitration : Obligations.Arbitration := by
  intro s core fits
  refine ⟨fun v hv hmark => ?_, fun hnone => ⟨fun ⟨c, hc, hfit⟩ => ?_, fun hunfit hready => ?_, fun hidle => ?_⟩⟩
  · have hsome : ((s.runnable core).find? fun c => c.victim.isSome).isSome = true :=
      List.find?_isSome.2 ⟨v, hv, Option.isSome_iff_ne_none.2 hmark⟩
    obtain ⟨v', hfind⟩ := Option.isSome_iff_exists.1 hsome
    have hmark' : v'.victim.isSome = true := List.find?_some (p := fun c : Ctx => c.victim.isSome) hfind
    rw [State.arbitrate_of_victim hfind, State.core_setRun]
    exact ⟨v', List.mem_of_find?_eq_some hfind, Option.isSome_iff_ne_none.1 hmark', rfl⟩
  · obtain ⟨p, hp⟩ := exists_firstBy ranksBefore (List.ne_nil_of_mem (State.mem_fitting.2 ⟨hc, hfit⟩))
    obtain ⟨hmem, hfirst⟩ := firstBy_ranksBefore hp
    obtain ⟨hrun, hpfit⟩ := State.mem_fitting.1 hmem
    rw [State.arbitrate_of_fitting hnone hp, State.core_setRun]
    exact ⟨p, hrun, hpfit, rfl, rfl, fun d hd hdfit _ => hfirst d (State.mem_fitting.2 ⟨hd, hdfit⟩)⟩
  · have hfitting : s.fitting core = [] :=
      List.eq_nil_iff_forall_not_mem.2 fun c hc => hunfit c (State.mem_fitting.1 hc).1 (State.mem_fitting.1 hc).2
    obtain ⟨p, hp⟩ := exists_firstBy ranksBefore (l := (s.sliceCut core).runnable core) hready
    obtain ⟨hmem, hfirst⟩ := firstBy_ranksBefore hp
    obtain ⟨hcycle, hslice⟩ := s.sliceCut_frame core
    rw [State.arbitrate_of_cut hnone hfitting hp, State.core_setRun, State.core_beginSlice, hcycle, hslice]
    exact ⟨p, hmem, rfl, rfl, rfl, fun d hd _ => hfirst d hd⟩
  · rw [State.arbitrate_of_runnable_nil hidle, State.core_setRun]

end
